-- ==== Sys2Proof/Word.lean ====
section
/-!
DEFINITION. The widths and index ranges that recur in the manual (00_scope.md, "Capacities and ranges"), as plain
names for core types, analog levels, and saturating addition.
-/

namespace Sys2Proof

/-- One byte of a frame (R173: 8 data bits). -/
abbrev Byte := BitVec 8

/-- One converter code, 0 to 4095 (R69). -/
abbrev ConverterCode := BitVec 12

/-- A reading of the 32-bit microsecond timebase (R31). -/
abbrev TimeReading := BitVec 32

/-- A host port H0 to H3. -/
abbrev Port := Fin 4

/-- A point entry P0 to P31 (R1). -/
abbrev PointIdx := Fin 32

/-- A slot of a port's subscription table (R7). -/
abbrev SlotIdx := Fin 16

/-- A limit monitor M0 to M7 (R126). -/
abbrev MonitorIdx := Fin 8

/-- An inhibit line INH0 to INH3 (R147). -/
abbrev LineIdx := Fin 4

/-- A trip comparator T0 or T1 (R161). -/
abbrev TripIdx := Fin 2

/-- A trigger input TRG0 to TRG5 (R33). -/
abbrev TrgIdx := Fin 6

/-- An analog channel: 0 to 15 are AIN0 to AIN15, 16 is ZERO, 17 is REF (R68). -/
abbrev Channel := Fin 18

/-- The code of a two-pin strap (00_scope.md, "Straps"). -/
abbrev StrapCode := Fin 4

/-- A slot of the share wheel (R51). -/
abbrev WheelSlot := Fin 8

/-- A set of inhibit lines as the four low bits of a line mask (R195): bit n names INHn. -/
abbrev LineMask := BitVec 4

/-- An analog level: the fraction `num / (den + 1)` of VREF (R69, R162).  Every level that a rule compares or converts
is compared with a rational fraction of VREF, so rational levels are enough. -/
structure Level where
  num : Int
  den : Nat
  deriving DecidableEq, Repr, Inhabited

/-- Addition into a counter that saturates at `top` (00_scope.md, "Numbers"). -/
def satAdd (top a b : Nat) : Nat := min (a + b) top

end Sys2Proof
end

