-- ==== Sys2Proof/Syntax.lean ====
section
/-!
DEFINITION. The commands of the hub: one constructor of `Instr` for each row of spec/opcode_table.json.

A command is one event at the part.  The rows of requests (ATTACH to TRIP STATUS, UNKNOWN REQUEST) and BUSY REPLY
carry what a good frame carries: the port it arrives on, its TAG, its body (and its CODE where the row does not fix
it).  LEN and the two CRC bytes of a good frame follow from these (R196, R198).  The other rows carry what the event
brings with it from outside: a level at an analog input, an edge, a received byte, the levels at the straps.
-/

namespace Sys2Proof

/-- The direction of an accepted edge on a trigger input (R33). -/
inductive Edge where
  | rising
  | falling
  deriving DecidableEq, Repr

/-- The causes of a framing error that the receiver meets in the bytes it takes (R174, R176).  The inter-byte timeout
and the good frame discarded behind a waiting BUSY reply are rows of their own. -/
inductive FramingCause where
  /-- a byte other than A5 hex taken in HUNTING -/
  | badStart
  /-- a LEN byte below 2 or above 250 -/
  | lenOutOfRange
  /-- a byte whose stop bit is sampled low (R173) -/
  | byteError
  /-- two CRC bytes that differ from the computed CRC -/
  | badCrc
  deriving DecidableEq, Repr

/-- What a comparator meets at its input pin at one sample (R162): the level, and the output that it gives, true for
beyond, where the level lies within its resolution of the threshold. -/
structure SampledInput where
  level : Level
  near : Bool
  deriving DecidableEq, Repr

/-- The commands, one constructor for each row of spec/opcode_table.json, in the table's order. -/
inductive Instr where
  /-- FULL_RESET: power-on or a low level on RST_N (R30). -/
  | fullReset
  /-- RESET_RELEASE: RST_N goes high; the levels on the straps and on TRG0 to TRG5 are sampled (R31, R33). -/
  | resetRelease (share cdiv baud : StrapCode) (trgLevels : Vector Bool 6)
  /-- TRG_EDGE: an accepted edge on TRGn (R34). -/
  | trgEdge (n : TrgIdx) (edge : Edge)
  /-- PERIODIC_EXPIRY: the periodic countdown of point i expires (R38). -/
  | periodicExpiry (i : PointIdx)
  /-- DELAY_EXPIRY: the delay timer of point i expires (R36). -/
  | delayExpiry (i : PointIdx)
  /-- CONVERSION_COMPLETION: the conversion in progress completes (R57).  `level` is what the selected input presented
  at the sample instant, and for ZERO the offset (R69); it is read where the front end holds no sample yet
  (notes/assumptions/6.md). -/
  | conversionCompletion (level : Level)
  /-- TRIP_FIRING: comparator Tk takes the beyond sample that completes its run (R164). -/
  | tripFiring (k : TripIdx)
  /-- FRAMING_ERROR: the receiver of port p meets a malformed frame (R174, R176). -/
  | framingError (p : Port) (cause : FramingCause)
  /-- INTER_BYTE_TIMEOUT: the inter-byte timer of port p expires (R175). -/
  | interByteTimeout (p : Port)
  /-- BUSY_REPLY: a good frame completes while port p is EXECUTING (R179). -/
  | busyReply (p : Port) (tag code : Byte) (body : List Byte)
  /-- RESPONSE_SENT: the last byte of a response has been sent on TXDp (R177). -/
  | responseSent (p : Port)
  /-- SUPERVISION_EXPIRY: the supervision timer of port p expires (R186). -/
  | supervisionExpiry (p : Port)
  /-- ATTACH, code 01 hex (R183). -/
  | attach (p : Port) (tag : Byte) (body : List Byte)
  /-- DETACH, code 02 hex (R187). -/
  | detach (p : Port) (tag : Byte) (body : List Byte)
  /-- PING, code 03 hex (R184). -/
  | ping (p : Port) (tag : Byte) (body : List Byte)
  /-- PART STATUS, code 04 hex (R193). -/
  | partStatus (p : Port) (tag : Byte) (body : List Byte)
  /-- DEFINE POINT, code 10 hex (R9 to R14). -/
  | definePoint (p : Port) (tag : Byte) (body : List Byte)
  /-- LEAVE POINT, code 11 hex (R16 to R18). -/
  | leavePoint (p : Port) (tag : Byte) (body : List Byte)
  /-- PAUSE SUBSCRIPTION, code 12 hex (R22). -/
  | pauseSubscription (p : Port) (tag : Byte) (body : List Byte)
  /-- RESUME SUBSCRIPTION, code 13 hex (R23). -/
  | resumeSubscription (p : Port) (tag : Byte) (body : List Byte)
  /-- SET CONDITIONING, code 14 hex (R24). -/
  | setConditioning (p : Port) (tag : Byte) (body : List Byte)
  /-- POINT STATUS, code 15 hex (R26). -/
  | pointStatus (p : Port) (tag : Byte) (body : List Byte)
  /-- LIST SUBSCRIPTIONS, code 16 hex (R27). -/
  | listSubscriptions (p : Port) (tag : Byte) (body : List Byte)
  /-- SAMPLE NOW, code 17 hex (R39). -/
  | sampleNow (p : Port) (tag : Byte) (body : List Byte)
  /-- CALIBRATE, code 20 hex (R77). -/
  | calibrate (p : Port) (tag : Byte) (body : List Byte)
  /-- TRIM STATUS, code 21 hex (R83). -/
  | trimStatus (p : Port) (tag : Byte) (body : List Byte)
  /-- READ RESULTS, code 30 hex (R110). -/
  | readResults (p : Port) (tag : Byte) (body : List Byte)
  /-- ACK RESULTS, code 31 hex (R114). -/
  | ackResults (p : Port) (tag : Byte) (body : List Byte)
  /-- READ EVENTS, code 32 hex (R121). -/
  | readEvents (p : Port) (tag : Byte) (body : List Byte)
  /-- CREATE MONITOR, code 40 hex (R128, R129). -/
  | createMonitor (p : Port) (tag : Byte) (body : List Byte)
  /-- DELETE MONITOR, code 41 hex (R140). -/
  | deleteMonitor (p : Port) (tag : Byte) (body : List Byte)
  /-- CLEAR MONITOR CLAIM, code 42 hex (R138). -/
  | clearMonitorClaim (p : Port) (tag : Byte) (body : List Byte)
  /-- MONITOR STATUS, code 43 hex (R144). -/
  | monitorStatus (p : Port) (tag : Byte) (body : List Byte)
  /-- CLAIM LINE, code 50 hex (R151). -/
  | claimLine (p : Port) (tag : Byte) (body : List Byte)
  /-- RELEASE LINE, code 51 hex (R152). -/
  | releaseLine (p : Port) (tag : Byte) (body : List Byte)
  /-- RELEASE START, code 52 hex (R153). -/
  | releaseStart (p : Port) (tag : Byte) (body : List Byte)
  /-- RELEASE ORPHAN, code 53 hex (R154). -/
  | releaseOrphan (p : Port) (tag : Byte) (body : List Byte)
  /-- LINE STATUS, code 54 hex (R155). -/
  | lineStatus (p : Port) (tag : Byte) (body : List Byte)
  /-- TAKE TRIP, code 60 hex (R165). -/
  | takeTrip (p : Port) (tag : Byte) (body : List Byte)
  /-- SET TRIP, code 61 hex (R166). -/
  | setTrip (p : Port) (tag : Byte) (body : List Byte)
  /-- GIVE TRIP, code 62 hex (R167). -/
  | giveTrip (p : Port) (tag : Byte) (body : List Byte)
  /-- CLEAR TRIP, code 63 hex (R168). -/
  | clearTrip (p : Port) (tag : Byte) (body : List Byte)
  /-- TRIP STATUS, code 64 hex (R170). -/
  | tripStatus (p : Port) (tag : Byte) (body : List Byte)
  /-- UNKNOWN_REQUEST: a good frame whose CODE names no request (R181). -/
  | unknownRequest (p : Port) (tag code : Byte) (body : List Byte)
  /-- COMPARATOR_SAMPLE: comparator Tk samples its output at one CLK period, with this at its input pin (R163). -/
  | comparatorSample (k : TripIdx) (input : SampledInput)
  /-- BYTE_TAKEN: the frame receiver of port p takes a byte with a good stop bit (R174). -/
  | byteTaken (p : Port) (b : Byte)
  deriving DecidableEq, Repr

end Sys2Proof
end

