-- ==== Sys2Proof/Decode.lean ====
section
/-!
DEFINITION. The table's words.  No row of spec/opcode_table.json gives bits (every row's "fields" is empty and none has
"fixed"), because a command of this block is an event at its pins and no instruction word: so no word spells a command.
The byte encodings the manual does give (frames, bodies, records) are in Sys2Proof/Machine/Operands.lean and
Sys2Proof/Machine/Frames.lean.
-/

namespace Sys2Proof

/-- The command that a word spells by the bits of spec/opcode_table.json: none, since no row gives bits. -/
def decodeTableWord (_nbits _w : Nat) : Option Instr := none

end Sys2Proof
end

