-- ==== Sys2Proof/Config.lean ====
section
/-!
DEFINITION. The capacities and the link times of the manual that more than one rule uses, and the free values of the
model.  A free value is a constant without a body: nothing can be proved of its value, and a claim holds whatever it is.
-/

namespace Sys2Proof.Config

/-- Records a result ring holds (R103). -/
def ringCapacity : Nat := 64

/-- Events an event queue holds (R118). -/
def eventCapacity : Nat := 16

/-- Urgent non-FREE point entries (R12). -/
def urgentRoom : Nat := 8

/-- Conversions of a calibration burst (R46, R78). -/
def calibrationLength : Nat := 16

/-- The largest trim (R73, R80). -/
def trimTop : Nat := 2047

/-- The inter-byte time in microseconds (R175). -/
def interByteTime : Nat := 1000

/-- The largest LEN of a frame (R196, R197). -/
def lenTop : Nat := 250

/-- CLK periods in a second (00_scope.md, "Clocks and time"). -/
def clkRate : Nat := 48000000

/-- Bits of one byte on a link line: start bit, 8 data bits, stop bit (R173). -/
def byteBits : Nat := 10

/-- FREE VALUE (notes/assumptions/4.md).  Events that come about in one CLK period may be taken in either order (R32,
R175, R206; 00_scope.md, "Events and arrival").  `eventPlace d j` is the place at which the `j`-th of them joins those
already in line, at draw `d`. -/
opaque eventPlace : Nat → Nat → Nat

/-- FREE VALUE (notes/assumptions/4.md).  When a byte is completed on port `p` in the CLK period in which its inter-byte
timer expires, either may be taken first (R175): `byteFirst d p` says, at draw `d`, whether the byte is. -/
opaque byteFirst : Nat → Port → Bool

/-- FREE VALUE (notes/assumptions/15.md).  A finalized point may be enqueued again before the grant decision or after
it (R88): `decisionWaits d n` says, at draw `d` with `n` commands in line, whether the decision waits for the next of them,
where that enqueues the point. -/
opaque decisionWaits : Nat → Nat → Bool

/-- FREE VALUE (notes/assumptions/13.md).  The resolution of comparator Tk, which R162 names and does not give. -/
opaque resolution : TripIdx → Level

/-- FREE VALUE (notes/assumptions/13.md).  The output of comparator Tk, true for beyond, at a sample of draw `d` whose
input lies within the resolution of the threshold, where R162 lets it be either. -/
opaque nearOutput : Nat → TripIdx → Bool

/-- FREE VALUE (notes/assumptions/13.md).  The offset of the gain stage and the converter at a gain (0 for gain 1 to 3
for gain 8), as a level at the converter, at a sample of draw `d`; R69 and R75 say what it does and not what it is. -/
opaque zeroOffset : Nat → Fin 4 → Level

end Sys2Proof.Config
end

