-- ==== Sys2Proof/Machine/State.lean ====
section
/-!
DEFINITION. The state of the hub as plain data: every register, table, queue, buffer, timer and mode the manual gives
the part, the queue of waiting commands, and the state right after full reset.  INVENTORY.md, '## State', lists every
field with the rule that names it and its reset value.
-/

namespace Sys2Proof.Machine

/-! ### Points and subscriptions (chapter 1) -/

/-- The four gains (R1, R69). -/
inductive Gain where
  | g1 | g2 | g4 | g8
  deriving DecidableEq, Repr

/-- The five oversample values N (R1). -/
inductive Oversample where
  | n1 | n2 | n4 | n8 | n16
  deriving DecidableEq, Repr

/-- The edge selection of a LINE point (R1, R34). -/
inductive EdgeSelect where
  | rise | fall | both
  deriving DecidableEq, Repr

/-- A trigger spec with the parameters of its own kind alone, so that equality is that of R2. -/
inductive TriggerSpec where
  | line (input : TrgIdx) (edge : EdgeSelect) (divider : Nat)
  | periodic (period : Nat)
  | demand
  deriving DecidableEq, Repr

/-- The seven key fields of a point (R1). -/
structure Key where
  channel : Channel
  gain : Gain
  settle : Fin 16
  oversample : Oversample
  trigger : TriggerSpec
  delay : Nat
  urgent : Bool
  deriving DecidableEq, Repr

/-- The seven states of a point entry (R3). -/
inductive PointState where
  | free | armed | delaying | due | converting | suspended | retiring
  deriving DecidableEq, Repr

/-- A point entry: state, key fields and runtime fields (R1, R43, R86). -/
structure PointEntry where
  state : PointState
  key : Key
  /-- ports in order of joining; the head is the sponsor (R5, R6) -/
  subscribers : List Port
  /-- wraps from 65,535 to 0 (R4) -/
  sequence : BitVec 16
  /-- 0 to 255, saturating (R4) -/
  missed : Nat
  /-- divider counter of a LINE point (R34, R43) -/
  divider : Nat
  /-- periodic countdown; `some 0` is an expiry not yet taken (R38, R43) -/
  countdown : Option Nat
  /-- delay timer; `some 0` is an expiry not yet taken (R36, R43) -/
  delayTimer : Option Nat
  /-- the burst accumulator (R86) -/
  accumulator : Nat
  /-- conversions done; the same count the scheduler keeps for the burst (R46, R86) -/
  done : Nat
  /-- burst timestamp, none until the first conversion completes (R86) -/
  stamp : Option TimeReading
  satSoFar : Bool
  resumedSoFar : Bool
  deriving DecidableEq, Repr

/-- The state of a subscription (R7). -/
inductive SubscriptionState where
  | active | paused
  deriving DecidableEq, Repr

/-- One occupied slot of a subscription table (R7). -/
structure Subscription where
  point : PointIdx
  state : SubscriptionState
  offset : BitVec 16
  /-- signed, two's complement -/
  multiplier : BitVec 16
  shift : Nat
  decimation : Nat
  counter : Nat
  missed : Nat
  firstPending : Bool
  deriving DecidableEq, Repr

/-! ### The scheduler (chapter 3) -/

/-- What a burst is for, and what an entry of a pending FIFO names: a point, or the calibration job of a gain
(R46, R48). -/
inductive Subject where
  | point (i : PointIdx)
  | job (g : Gain)
  deriving DecidableEq, Repr

/-- The class of a burst (R46). -/
inductive BurstClass where
  | urgent | background
  deriving DecidableEq, Repr

/-- A burst that holds the converter or stands in the suspended-burst slot (R46, R49).  Its conversions done are kept
once, in its subject (`PointEntry.done`, `CalibrationJob.done`). -/
structure Burst where
  subject : Subject
  burstClass : BurstClass
  length : Nat
  deriving DecidableEq, Repr

/-! ### The front end (chapter 4) -/

/-- The conversion in progress (R70 to R72). -/
structure Conversion where
  channel : Channel
  gain : Gain
  settle : Fin 16
  /-- whether the conversion began with a gain switch (R70) -/
  gainSwitch : Bool
  /-- CLK periods since the conversion began -/
  elapsed : Nat
  /-- the timebase at the sample instant, once it is past (R72) -/
  reading : Option TimeReading
  /-- the amplified level that the sample stage holds, once the sample instant is past (R70) -/
  held : Option Level
  deriving DecidableEq, Repr

/-- The state of a trim entry (R73). -/
inductive TrimState where
  | uncalibrated | valid
  deriving DecidableEq, Repr

/-- One entry of the trim table (R73). -/
structure TrimEntry where
  state : TrimState
  trim : Nat
  deriving DecidableEq, Repr

/-- The state of a calibration job (R76). -/
inductive JobState where
  | none | queued | running | suspended
  deriving DecidableEq, Repr

/-- One calibration job; its gain is its place in the table (R76). -/
structure CalibrationJob where
  state : JobState
  requester : Option Port
  done : Nat
  partialSum : Nat
  deriving DecidableEq, Repr

/-! ### Rings and event queues (chapters 5 and 6) -/

/-- A result record (R95, R201). -/
structure Record where
  point : PointIdx
  sequence : BitVec 16
  timestamp : TimeReading
  value16 : BitVec 16
  /-- signed, two's complement -/
  scaled : BitVec 32
  missed : Nat
  lost : Nat
  sat : Bool
  trim : Bool
  clamp : Bool
  resumed : Bool
  first : Bool
  deriving DecidableEq, Repr

/-- What a record arriving at a full ring does (R104). -/
inductive RingPolicy where
  | keepOldest | keepNewest
  deriving DecidableEq, Repr

/-- A port's result ring (R103, R104): the window holds the oldest records, `unsent` the rest, oldest first. -/
structure Ring where
  window : List Record
  unsent : List Record
  policy : RingPolicy
  watermark : Nat
  token : BitVec 8
  pendingLost : Nat
  totalLost : Nat
  deriving DecidableEq, Repr

/-- The nine event kinds (R119). -/
inductive EventKind where
  | trip | recover | lineAsserted | lineReleased | tripFired | tripCleared | calDone | peerLost | peerLeft
  deriving DecidableEq, Repr

/-- An event record (R118). -/
structure Event where
  kind : EventKind
  subject : Nat
  value : Nat
  timestamp : TimeReading
  deriving DecidableEq, Repr

/-- A port's event queue, oldest first, with its lost-event count (R118). -/
structure EventQueue where
  events : List Event
  lost : Nat
  deriving DecidableEq, Repr

/-! ### Limit monitors (chapter 7) -/

/-- What a monitor does with an inhibit line; a NONE monitor holds no line (R126). -/
inductive MonitorAction where
  | none
  | follow (line : LineIdx)
  | latch (line : LineIdx)
  deriving DecidableEq, Repr

/-- The evaluation state of a monitor (R126). -/
inductive MonitorState where
  | inside | qualifying | out
  deriving DecidableEq, Repr

/-- A monitor in use (R126). -/
structure Monitor where
  creator : Port
  point : PointIdx
  low : Nat
  high : Nat
  hysteresis : Nat
  qualify : Nat
  action : MonitorAction
  broadcast : Bool
  state : MonitorState
  count : Nat
  claimHeld : Bool
  deriving DecidableEq, Repr

/-! ### Inhibit lines and trip comparators (chapter 8) -/

/-- The 15 claimants (R147). -/
inductive Claimant where
  | start
  | host (h : Port)
  | monitor (k : MonitorIdx)
  | trip (k : TripIdx)
  deriving DecidableEq, Repr

/-- A claim set: whether each of the 15 claimants stands in it, in the fixed order of R155 (START, HOST 0 to 3,
MONITOR 0 to 7, TRIP 0 and 1).  The set keeps no order of joining. -/
abbrev ClaimSet := Vector Bool 15

inductive Polarity where
  | above | below
  deriving DecidableEq, Repr

/-- The filter times of 0, 1, 4 and 16 microseconds (R161). -/
inductive TripFilter where
  | f0 | f1 | f4 | f16
  deriving DecidableEq, Repr

inductive TripState where
  | off | watching | fired
  deriving DecidableEq, Repr

/-- A comparator's configuration (R161). -/
structure TripConfig where
  input : Fin 16
  step : Fin 64
  polarity : Polarity
  filter : TripFilter
  mask : LineMask
  deriving DecidableEq, Repr

/-- A trip comparator (R161), with the output of its latest sample (R168, R170). -/
structure Comparator where
  config : TripConfig
  state : TripState
  holder : Option Port
  run : Nat
  claimed : LineMask
  beyond : Bool
  deriving DecidableEq, Repr

/-! ### Host ports (chapter 9) -/

/-- The state of a frame receiver with the bytes of the partial frame it holds (R174).  In HUNTING, `run` says whether
the run of bad start bytes under way has been counted. -/
inductive Receiver where
  | hunting (run : Bool)
  | length
  | collecting (len : Byte) (taken : List Byte)
  | checking (len : Byte) (taken : List Byte) (crcHigh : Option Byte)
  deriving DecidableEq, Repr

/-- The byte that the receiver of a line is in: CLK periods since its start bit was met, and the levels sampled so far,
start bit first, true for high (R173). -/
structure LineByte where
  elapsed : Nat
  bits : List Bool
  deriving DecidableEq, Repr

/-- The response that the transmitter is sending: its bytes, and the CLK periods since its first start bit began
(R173, R177). -/
structure Transmission where
  bytes : List Byte
  elapsed : Nat
  deriving DecidableEq, Repr

/-- A port's session state (R182). -/
inductive Session where
  | detached | attached
  deriving DecidableEq, Repr

/-- A port's request state (R177). -/
inductive RequestState where
  | ready | executing
  deriving DecidableEq, Repr

/-- The entry of a duplicate cache: the TAG and CRC of the last request executed and the whole response frame
(R180). -/
structure CacheEntry where
  tag : Byte
  crc : BitVec 16
  response : List Byte
  deriving DecidableEq, Repr

/-- A host port (R173 to R194). -/
structure HostPort where
  /-- the byte arriving on RXDn; none while the receiver waits for a start bit (R173) -/
  rxByte : Option LineByte
  receiver : Receiver
  /-- inter-byte timer; `some 0` is an expiry not yet taken (R175) -/
  interByte : Option Nat
  /-- 0 to 65,535, saturating (R176) -/
  framingErrors : Nat
  request : RequestState
  /-- TAG and CODE of the frame whose BUSY reply waits (R179) -/
  busy : Option (Byte × Byte)
  cache : Option CacheEntry
  session : Session
  sessionId : BitVec 8
  /-- the supervision interval in units of 10 ms, 0 when off (R183) -/
  interval : Nat
  /-- the supervision timer while it runs; `some 0` is an expiry not yet taken (R185) -/
  supervision : Option Nat
  /-- between the two stages of a DETACH (R187) -/
  detaching : Bool
  /-- the response being sent on TXDn; none while the transmitter is idle (R173, R177) -/
  sending : Option Transmission
  deriving DecidableEq, Repr

/-! ### The machine -/

/-- The input pins, at the levels the outside drives them to: TRG0 to TRG5, AIN0 to AIN15, RXD0 to RXD3
(00_scope.md, "Signals").  True is high. -/
structure Pins where
  trg : Vector Bool 6
  ain : Vector Level 16
  rxd : Vector Bool 4
  deriving DecidableEq, Repr

/-- The state of the hub. -/
structure State where
  /-- RST_N is low: the part is held in reset (00_scope.md, "Resets") -/
  resetLow : Bool
  share : StrapCode
  cdiv : StrapCode
  baud : StrapCode
  /-- CLK periods since the last tick of the timebase, 0 to 47 (R31) -/
  clkPhase : Nat
  timebase : TimeReading
  /-- the input pins, driven from outside (notes/assumptions/8.md) -/
  pins : Pins
  /-- the accepted levels of the edge detectors, true for high (R33) -/
  trgLevels : Vector Bool 6
  /-- the levels of the edge detectors' latest samples (R33) -/
  trgSamples : Vector Bool 6
  points : Vector PointEntry 32
  subs : Vector (Vector (Option Subscription) 16) 4
  urgentQueue : List PointIdx
  fifos : Vector (List Subject) 4
  suspended : Option Burst
  /-- the burst that holds the converter; none while the converter is IDLE (R46) -/
  converter : Option Burst
  /-- the burst of a finalized point has ended, and its grant decision is left to the next command, which enqueues the point
  again (R57, R88, notes/assumptions/15.md) -/
  decisionDue : Bool
  wheelPosition : WheelSlot
  urgentGrants : Vector (BitVec 16) 4
  wheelGrants : Vector (BitVec 16) 4
  conversion : Option Conversion
  lastGain : Gain
  trims : Vector TrimEntry 4
  jobs : Vector CalibrationJob 4
  rings : Vector Ring 4
  queues : Vector EventQueue 4
  monitors : Vector (Option Monitor) 8
  lines : Vector ClaimSet 4
  comparators : Vector Comparator 2
  ports : Vector HostPort 4
  /-- the MODEL's own field: which draw of the free values of Config comes next (notes/assumptions/4.md, 13.md) -/
  draws : Nat
  /-- the commands that are waiting, first in, first out -/
  pending : List Instr
  deriving DecidableEq, Repr

/-- Why the hub stops with a fault.  No rule of the manual stops the part, so there is no fault: the type is empty
(safe: nothing can be claimed of a stop that does not exist). -/
inductive Fault where
  deriving DecidableEq, Repr

/-- Why a command has no meaning. -/
inductive Refusal where
  /-- Raised by an arm of exec whose command is not modelled yet.  Safe: the model stops.  No arm answers so. -/
  | notModelled (mnemonic : String)
  deriving DecidableEq, Repr

/-! ### Reset values -/

/-- The key fields an entry holds while FREE.  They take no part in any comparison and are not reported (R1); these
values are a DESIGN CHOICE (notes/assumptions/2.md). -/
def Key.cleared : Key where
  channel := 0
  gain := .g1
  settle := 0
  oversample := .n1
  trigger := .demand
  delay := 0
  urgent := false

/-- A FREE entry: list empty, sequence and missed count 0, trigger and result path fields cleared (R1, R19, R86). -/
def PointEntry.cleared : PointEntry where
  state := .free
  key := .cleared
  subscribers := []
  sequence := 0
  missed := 0
  divider := 0
  countdown := none
  delayTimer := none
  accumulator := 0
  done := 0
  stamp := none
  satSoFar := false
  resumedSoFar := false

/-- A job in NONE (R76, R85). -/
def CalibrationJob.idle : CalibrationJob where
  state := .none
  requester := none
  done := 0
  partialSum := 0

/-- A ring after full reset (R125).  Policy and watermark stand for "none until ATTACH" (notes/assumptions/2.md). -/
def Ring.cleared : Ring where
  window := []
  unsent := []
  policy := .keepOldest
  watermark := 1
  token := 0
  pendingLost := 0
  totalLost := 0

/-- An empty event queue (R123 to R125). -/
def EventQueue.empty : EventQueue where
  events := []
  lost := 0

/-- A comparator after full reset (R161, R172). -/
def Comparator.cleared : Comparator where
  config := { input := 0, step := 0, polarity := .above, filter := .f0, mask := 0 }
  state := .off
  holder := none
  run := 0
  claimed := 0
  beyond := false

/-- A host port after full reset (R194). -/
def HostPort.cleared : HostPort where
  rxByte := none
  receiver := .hunting false
  interByte := none
  framingErrors := 0
  request := .ready
  busy := none
  cache := none
  session := .detached
  sessionId := 0
  interval := 0
  supervision := none
  detaching := false
  sending := none

/-- The claim set {START} (R147, R160). -/
def ClaimSet.startOnly : ClaimSet := (Vector.replicate 15 false).set 0 true

/-- The input pins before the outside drives them: TRG low, AIN at AGND, RXD idle high (notes/assumptions/2.md). -/
def Pins.undriven : Pins where
  trg := Vector.replicate 6 false
  ain := Vector.replicate 16 { num := 0, den := 0 }
  rxd := Vector.replicate 4 true

/-- The machine right after full reset: RST_N is still low, every block holds the value its chapter gives for full
reset (R30, R45, R67, R85, R102, R125, R146, R160, R172, R194), and no command waits. -/
def State.reset : State where
  resetLow := true
  share := 0
  cdiv := 0
  baud := 0
  clkPhase := 0
  timebase := 0
  pins := .undriven
  trgLevels := Vector.replicate 6 false
  trgSamples := Vector.replicate 6 false
  points := Vector.replicate 32 .cleared
  subs := Vector.replicate 4 (Vector.replicate 16 none)
  urgentQueue := []
  fifos := Vector.replicate 4 []
  suspended := none
  converter := none
  decisionDue := false
  wheelPosition := 7
  urgentGrants := Vector.replicate 4 0
  wheelGrants := Vector.replicate 4 0
  conversion := none
  lastGain := .g1
  trims := Vector.replicate 4 { state := .uncalibrated, trim := 0 }
  jobs := Vector.replicate 4 .idle
  rings := Vector.replicate 4 .cleared
  queues := Vector.replicate 4 .empty
  monitors := Vector.replicate 8 none
  lines := Vector.replicate 4 ClaimSet.startOnly
  comparators := Vector.replicate 2 .cleared
  ports := Vector.replicate 4 .cleared
  draws := 0
  pending := []

end Sys2Proof.Machine
end

