-- ==== Sys2Proof/Machine/Access.lean ====
section
/-!
DEFINITION. Reading and writing the parts of State that are kept by index: one reader, one writer and one modifier for
each table.  Trim entries and calibration jobs are kept by gain.
-/

namespace Sys2Proof.Machine

/-- Reads the point entry P`i`. -/
def State.point (s : State) (i : PointIdx) : PointEntry := s.points[i]

/-- Writes the point entry P`i`. -/
def State.setPoint (s : State) (i : PointIdx) (v : PointEntry) : State := { s with points := s.points.set i v }

/-- Applies `f` to the point entry P`i`. -/
def State.modPoint (s : State) (i : PointIdx) (f : PointEntry → PointEntry) : State := s.setPoint i (f (s.point i))

/-- Reads the subscription table of port `i`. -/
def State.slots (s : State) (i : Port) : Vector (Option Subscription) 16 := s.subs[i]

/-- Writes the subscription table of port `i`. -/
def State.setSlots (s : State) (i : Port) (v : Vector (Option Subscription) 16) : State := { s with subs := s.subs.set i v }

/-- Applies `f` to the subscription table of port `i`. -/
def State.modSlots (s : State) (i : Port) (f : Vector (Option Subscription) 16 → Vector (Option Subscription) 16) : State := s.setSlots i (f (s.slots i))

/-- Reads the pending FIFO of port `i`. -/
def State.fifo (s : State) (i : Port) : List Subject := s.fifos[i]

/-- Writes the pending FIFO of port `i`. -/
def State.setFifo (s : State) (i : Port) (v : List Subject) : State := { s with fifos := s.fifos.set i v }

/-- Applies `f` to the pending FIFO of port `i`. -/
def State.modFifo (s : State) (i : Port) (f : List Subject → List Subject) : State := s.setFifo i (f (s.fifo i))

/-- Reads the urgent grants of port `i`. -/
def State.urgentGrant (s : State) (i : Port) : BitVec 16 := s.urgentGrants[i]

/-- Writes the urgent grants of port `i`. -/
def State.setUrgentGrant (s : State) (i : Port) (v : BitVec 16) : State := { s with urgentGrants := s.urgentGrants.set i v }

/-- Applies `f` to the urgent grants of port `i`. -/
def State.modUrgentGrant (s : State) (i : Port) (f : BitVec 16 → BitVec 16) : State := s.setUrgentGrant i (f (s.urgentGrant i))

/-- Reads the wheel grants of port `i`. -/
def State.wheelGrant (s : State) (i : Port) : BitVec 16 := s.wheelGrants[i]

/-- Writes the wheel grants of port `i`. -/
def State.setWheelGrant (s : State) (i : Port) (v : BitVec 16) : State := { s with wheelGrants := s.wheelGrants.set i v }

/-- Applies `f` to the wheel grants of port `i`. -/
def State.modWheelGrant (s : State) (i : Port) (f : BitVec 16 → BitVec 16) : State := s.setWheelGrant i (f (s.wheelGrant i))

/-- Reads the result ring of port `i`. -/
def State.ring (s : State) (i : Port) : Ring := s.rings[i]

/-- Writes the result ring of port `i`. -/
def State.setRing (s : State) (i : Port) (v : Ring) : State := { s with rings := s.rings.set i v }

/-- Applies `f` to the result ring of port `i`. -/
def State.modRing (s : State) (i : Port) (f : Ring → Ring) : State := s.setRing i (f (s.ring i))

/-- Reads the event queue of port `i`. -/
def State.queue (s : State) (i : Port) : EventQueue := s.queues[i]

/-- Writes the event queue of port `i`. -/
def State.setQueue (s : State) (i : Port) (v : EventQueue) : State := { s with queues := s.queues.set i v }

/-- Applies `f` to the event queue of port `i`. -/
def State.modQueue (s : State) (i : Port) (f : EventQueue → EventQueue) : State := s.setQueue i (f (s.queue i))

/-- Reads the monitor entry M`i`. -/
def State.monitor (s : State) (i : MonitorIdx) : Option Monitor := s.monitors[i]

/-- Writes the monitor entry M`i`. -/
def State.setMonitor (s : State) (i : MonitorIdx) (v : Option Monitor) : State := { s with monitors := s.monitors.set i v }

/-- Applies `f` to the monitor entry M`i`. -/
def State.modMonitor (s : State) (i : MonitorIdx) (f : Option Monitor → Option Monitor) : State := s.setMonitor i (f (s.monitor i))

/-- Reads the claim set of line INH`i`. -/
def State.line (s : State) (i : LineIdx) : ClaimSet := s.lines[i]

/-- Writes the claim set of line INH`i`. -/
def State.setLine (s : State) (i : LineIdx) (v : ClaimSet) : State := { s with lines := s.lines.set i v }

/-- Applies `f` to the claim set of line INH`i`. -/
def State.modLine (s : State) (i : LineIdx) (f : ClaimSet → ClaimSet) : State := s.setLine i (f (s.line i))

/-- Reads the comparator T`i`. -/
def State.comparator (s : State) (i : TripIdx) : Comparator := s.comparators[i]

/-- Writes the comparator T`i`. -/
def State.setComparator (s : State) (i : TripIdx) (v : Comparator) : State := { s with comparators := s.comparators.set i v }

/-- Applies `f` to the comparator T`i`. -/
def State.modComparator (s : State) (i : TripIdx) (f : Comparator → Comparator) : State := s.setComparator i (f (s.comparator i))

/-- Reads the host port H`i`. -/
def State.port (s : State) (i : Port) : HostPort := s.ports[i]

/-- Writes the host port H`i`. -/
def State.setPort (s : State) (i : Port) (v : HostPort) : State := { s with ports := s.ports.set i v }

/-- Applies `f` to the host port H`i`. -/
def State.modPort (s : State) (i : Port) (f : HostPort → HostPort) : State := s.setPort i (f (s.port i))

/-- The place of a gain in the trim table and the job table, which is also its gain code (R195). -/
def gainIndex : Gain → Fin 4
  | .g1 => 0
  | .g2 => 1
  | .g4 => 2
  | .g8 => 3

/-- The gain of a gain code (R195). -/
def gainOfIndex : Fin 4 → Gain
  | 0 => .g1
  | 1 => .g2
  | 2 => .g4
  | 3 => .g8

/-- Reads the trim entry of gain `g` (R73). -/
def State.trimEntry (s : State) (g : Gain) : TrimEntry := s.trims[gainIndex g]

/-- Writes the trim entry of gain `g`. -/
def State.setTrimEntry (s : State) (g : Gain) (v : TrimEntry) : State :=
  { s with trims := s.trims.set (gainIndex g) v }

/-- Reads the calibration job of gain `g` (R76). -/
def State.job (s : State) (g : Gain) : CalibrationJob := s.jobs[gainIndex g]

/-- Writes the calibration job of gain `g`. -/
def State.setJob (s : State) (g : Gain) (v : CalibrationJob) : State :=
  { s with jobs := s.jobs.set (gainIndex g) v }

/-- Reads slot `k` of the subscription table of port `p` (R7). -/
def State.slot (s : State) (p : Port) (k : SlotIdx) : Option Subscription := (s.slots p)[k]

/-- Writes slot `k` of the subscription table of port `p`. -/
def State.setSlot (s : State) (p : Port) (k : SlotIdx) (v : Option Subscription) : State :=
  s.setSlots p ((s.slots p).set k v)

/-- Port `p` is ATTACHED (R182). -/
def State.attached (s : State) (p : Port) : Bool := (s.port p).session == .attached

/-- The four ports in the order H0 to H3. -/
def allPorts : List Port := List.finRange 4

/-- The four lines in the order INH0 to INH3. -/
def allLines : List LineIdx := List.finRange 4

/-- The 32 point entries in ascending index. -/
def allPoints : List PointIdx := List.finRange 32

/-- The 16 slots of a subscription table in ascending order. -/
def allSlots : List SlotIdx := List.finRange 16

/-- The eight monitor entries in ascending index. -/
def allMonitors : List MonitorIdx := List.finRange 8

/-- The trigger inputs in ascending order. -/
def allTriggers : List TrgIdx := List.finRange 6

/-- The two comparators, T0 first. -/
def allComparators : List TripIdx := List.finRange 2

/-- The four gains in ascending order. -/
def allGains : List Gain := [.g1, .g2, .g4, .g8]

end Sys2Proof.Machine
end

