-- ==== Sys2Proof/WellFormed.lean ====
section
/-!
DEFINITION. Which commands describe an event that can arrive at the part: a body must fit a frame (R196), and the CODE
of an unknown request must name no request (R199).
-/

namespace Sys2Proof

/-- The body a command carries, for the commands that are good frames. -/
def Instr.body? : Instr → Option (List Byte)
  | .fullReset | .resetRelease .. | .trgEdge .. | .periodicExpiry _ | .delayExpiry _ | .conversionCompletion _
  | .tripFiring _ | .framingError .. | .interByteTimeout _ | .responseSent _ | .supervisionExpiry _
  | .comparatorSample .. | .byteTaken .. => none
  | .busyReply _ _ _ body | .unknownRequest _ _ _ body => some body
  | .attach _ _ body | .detach _ _ body | .ping _ _ body | .partStatus _ _ body | .definePoint _ _ body
  | .leavePoint _ _ body | .pauseSubscription _ _ body | .resumeSubscription _ _ body | .setConditioning _ _ body
  | .pointStatus _ _ body | .listSubscriptions _ _ body | .sampleNow _ _ body | .calibrate _ _ body
  | .trimStatus _ _ body | .readResults _ _ body | .ackResults _ _ body | .readEvents _ _ body
  | .createMonitor _ _ body | .deleteMonitor _ _ body | .clearMonitorClaim _ _ body | .monitorStatus _ _ body
  | .claimLine _ _ body | .releaseLine _ _ body | .releaseStart _ _ body | .releaseOrphan _ _ body
  | .lineStatus _ _ body | .takeTrip _ _ body | .setTrip _ _ body | .giveTrip _ _ body | .clearTrip _ _ body
  | .tripStatus _ _ body => some body

/-- The request codes of R199, as numbers. -/
def requestCodes : List Nat :=
  [0x01, 0x02, 0x03, 0x04, 0x10, 0x11, 0x12, 0x13, 0x14, 0x15, 0x16, 0x17, 0x20, 0x21, 0x30, 0x31, 0x32,
   0x40, 0x41, 0x42, 0x43, 0x50, 0x51, 0x52, 0x53, 0x54, 0x60, 0x61, 0x62, 0x63, 0x64]

/-- A body fits a request frame: LEN is at most 250 and counts TAG, CODE and the body (R196). -/
def bodyFits (body : List Byte) : Bool := body.length + 2 ≤ Config.lenTop

/-- The command describes an event that can arrive. -/
def Instr.wellFormed (i : Instr) : Bool :=
  match i with
  | .unknownRequest _ _ code body => bodyFits body && !requestCodes.contains code.toNat
  | i => match i.body? with
    | some body => bodyFits body
    | none => true

end Sys2Proof
end

