-- ==== Sys2Proof/Machine/Operands.lean ====
section
/-!
DEFINITION. The operands of requests: the byte order and the enumeration codes of chapter 10 (R195), the request codes
and body lengths (R199), and the reading of every request body (R203, R204), each with the field checks its owner
makes.  A body reader answers none where the owner rule says BAD_FIELD.

A body is read only after its length has been checked (R181), so the default of `byteAt` is never met.
-/

namespace Sys2Proof.Machine

/-! ### Numbers as bytes (R195) -/

/-- A number as one byte. -/
def byteOf (n : Nat) : Byte := BitVec.ofNat 8 n

/-- A number as two bytes, most significant first. -/
def bytes16 (n : Nat) : List Byte := [byteOf (n / 256), byteOf n]

/-- A number as four bytes, most significant first. -/
def bytes32 (n : Nat) : List Byte := [byteOf (n / 16777216), byteOf (n / 65536), byteOf (n / 256), byteOf n]

/-- A Boolean as one byte, 0 or 1. -/
def byteOfBool (b : Bool) : Byte := if b then 1 else 0

/-- Byte `k` of a body. -/
def byteAt (body : List Byte) (k : Nat) : Nat := (body.getD k 0).toNat

/-- The unsigned number in bytes `k` and `k + 1` of a body, most significant first. -/
def word16At (body : List Byte) (k : Nat) : Nat := byteAt body k * 256 + byteAt body (k + 1)

/-! ### Indexes, masks and enumerations -/

/-- A point index, 0 to 31. -/
def pointIndexOf (n : Nat) : Option PointIdx := if h : n < 32 then some ⟨n, h⟩ else none

/-- A port number, 0 to 3. -/
def portOf (n : Nat) : Option Port := if h : n < 4 then some ⟨n, h⟩ else none

/-- A monitor index, 0 to 7. -/
def monitorIndexOf (n : Nat) : Option MonitorIdx := if h : n < 8 then some ⟨n, h⟩ else none

/-- A comparator index, 0 or 1. -/
def comparatorIndexOf (n : Nat) : Option TripIdx := if h : n < 2 then some ⟨n, h⟩ else none

/-- A line, 0 to 3. -/
def lineIndexOf (n : Nat) : Option LineIdx := if h : n < 4 then some ⟨n, h⟩ else none

/-- A line mask byte: bits 4 to 7 must be 0 (R195). -/
def lineMaskOf (n : Nat) : Option LineMask := if n < 16 then some (BitVec.ofNat 4 n) else none

/-- A gain code, 0 to 3 (R195). -/
def gainOf (n : Nat) : Option Gain := if h : n < 4 then some (gainOfIndex ⟨n, h⟩) else none

/-- The gain as a factor (R69). -/
def gainFactor : Gain → Nat
  | .g1 => 1
  | .g2 => 2
  | .g4 => 4
  | .g8 => 8

/-- An oversample byte holds N itself (R203). -/
def oversampleOf : Nat → Option Oversample
  | 1 => some .n1
  | 2 => some .n2
  | 4 => some .n4
  | 8 => some .n8
  | 16 => some .n16
  | _ => none

/-- The number N of conversions of a burst (R46). -/
def oversampleCount : Oversample → Nat
  | .n1 => 1
  | .n2 => 2
  | .n4 => 4
  | .n8 => 8
  | .n16 => 16

/-- An edge selection byte (R203). -/
def edgeSelectOf : Nat → Option EdgeSelect
  | 0 => some .rise
  | 1 => some .fall
  | 2 => some .both
  | _ => none

/-- The code of an edge selection (R203). -/
def edgeSelectCode : EdgeSelect → Nat
  | .rise => 0
  | .fall => 1
  | .both => 2

/-- A yes/no byte (R203, R204). -/
def flagOf : Nat → Option Bool
  | 0 => some false
  | 1 => some true
  | _ => none

/-- A ring policy byte (R204). -/
def ringPolicyOf : Nat → Option RingPolicy
  | 0 => some .keepOldest
  | 1 => some .keepNewest
  | _ => none

/-- A polarity byte (R204). -/
def polarityOf : Nat → Option Polarity
  | 0 => some .above
  | 1 => some .below
  | _ => none

/-- The code of a polarity (R204). -/
def polarityCode : Polarity → Nat
  | .above => 0
  | .below => 1

/-- A trip filter code (R195). -/
def tripFilterOf : Nat → Option TripFilter
  | 0 => some .f0
  | 1 => some .f1
  | 2 => some .f4
  | 3 => some .f16
  | _ => none

/-- The code of a trip filter (R195). -/
def tripFilterCode : TripFilter → Nat
  | .f0 => 0
  | .f1 => 1
  | .f4 => 2
  | .f16 => 3

/-- Consecutive beyond samples that fire a comparator (R163). -/
def filterSamples : TripFilter → Nat
  | .f0 => 1
  | .f1 => 48
  | .f4 => 192
  | .f16 => 768

/-- A port field that may be none is FF hex for none (R195). -/
def portByte : Option Port → Byte
  | some p => byteOf p
  | none => 0xFF

/-- The line mask of the lines for which `f` holds (R195). -/
def maskOfLines (f : LineIdx → Bool) : LineMask :=
  BitVec.ofNat 4 ((f 0).toNat + 2 * (f 1).toNat + 4 * (f 2).toNat + 8 * (f 3).toNat)

/-- The lines a mask names, in ascending order (R150). -/
def linesOf (mask : LineMask) : List LineIdx := allLines.filter (fun l => mask.getLsbD l)

/-- A line mask as a byte (R195). -/
def maskByte (mask : LineMask) : Byte := byteOf mask.toNat

/-! ### Requests (R199) -/

/-- The requests of R199. -/
inductive Request where
  | attach | detach | ping | partStatus
  | definePoint | leavePoint | pauseSubscription | resumeSubscription | setConditioning | pointStatus
  | listSubscriptions | sampleNow
  | calibrate | trimStatus
  | readResults | ackResults | readEvents
  | createMonitor | deleteMonitor | clearMonitorClaim | monitorStatus
  | claimLine | releaseLine | releaseStart | releaseOrphan | lineStatus
  | takeTrip | setTrip | giveTrip | clearTrip | tripStatus
  deriving DecidableEq, Repr

/-- The CODE of a request (R199). -/
def requestCode : Request → Byte
  | .attach => 0x01 | .detach => 0x02 | .ping => 0x03 | .partStatus => 0x04
  | .definePoint => 0x10 | .leavePoint => 0x11 | .pauseSubscription => 0x12 | .resumeSubscription => 0x13
  | .setConditioning => 0x14 | .pointStatus => 0x15 | .listSubscriptions => 0x16 | .sampleNow => 0x17
  | .calibrate => 0x20 | .trimStatus => 0x21
  | .readResults => 0x30 | .ackResults => 0x31 | .readEvents => 0x32
  | .createMonitor => 0x40 | .deleteMonitor => 0x41 | .clearMonitorClaim => 0x42 | .monitorStatus => 0x43
  | .claimLine => 0x50 | .releaseLine => 0x51 | .releaseStart => 0x52 | .releaseOrphan => 0x53 | .lineStatus => 0x54
  | .takeTrip => 0x60 | .setTrip => 0x61 | .giveTrip => 0x62 | .clearTrip => 0x63 | .tripStatus => 0x64

/-- The body length of a request (R199). -/
def requestLength : Request → Nat
  | .attach => 3 | .detach => 0 | .ping => 0 | .partStatus => 0
  | .definePoint => 20 | .leavePoint => 1 | .pauseSubscription => 1 | .resumeSubscription => 1
  | .setConditioning => 8 | .pointStatus => 1 | .listSubscriptions => 0 | .sampleNow => 1
  | .calibrate => 1 | .trimStatus => 0
  | .readResults => 3 | .ackResults => 1 | .readEvents => 1
  | .createMonitor => 11 | .deleteMonitor => 1 | .clearMonitorClaim => 1 | .monitorStatus => 0
  | .claimLine => 1 | .releaseLine => 1 | .releaseStart => 1 | .releaseOrphan => 2 | .lineStatus => 0
  | .takeTrip => 1 | .setTrip => 7 | .giveTrip => 1 | .clearTrip => 1 | .tripStatus => 0

/-- The requests in the order of the table of R199. -/
def allRequests : List Request :=
  [.attach, .detach, .ping, .partStatus, .definePoint, .leavePoint, .pauseSubscription, .resumeSubscription,
   .setConditioning, .pointStatus, .listSubscriptions, .sampleNow, .calibrate, .trimStatus, .readResults, .ackResults,
   .readEvents, .createMonitor, .deleteMonitor, .clearMonitorClaim, .monitorStatus, .claimLine, .releaseLine,
   .releaseStart, .releaseOrphan, .lineStatus, .takeTrip, .setTrip, .giveTrip, .clearTrip, .tripStatus]

/-- The request a CODE names, if any (R199). -/
def requestOf (code : Byte) : Option Request := allRequests.find? (fun r => requestCode r == code)

/-- The requests a DETACHED port executes (R181, R199). -/
def servedDetached : Request → Bool
  | .attach | .ping | .partStatus => true
  | _ => false

/-! ### Request bodies -/

/-- The fields of ATTACH (R183, R204). -/
structure AttachFields where
  interval : Nat
  policy : RingPolicy
  watermark : Nat
  deriving DecidableEq, Repr

/-- ATTACH: BAD_FIELD when the policy is neither of the two or the watermark is 0 or above 64 (R183). -/
def readAttach (body : List Byte) : Option AttachFields := do
  let policy ← ringPolicyOf (byteAt body 1)
  let watermark := byteAt body 2
  if 1 ≤ watermark ∧ watermark ≤ 64 then
    some { interval := byteAt body 0, policy, watermark }
  else none

/-- The conditioning and decimation of a subscription (R7). -/
structure Conditioning where
  offset : BitVec 16
  multiplier : BitVec 16
  shift : Nat
  decimation : Nat
  deriving DecidableEq, Repr

/-- Conditioning fields from byte `k` on: offset, multiplier, shift, decimation; the shift must be at most 15 and the
decimation 1 to 256 (R9, R24). -/
def readConditioning (body : List Byte) (k : Nat) : Option Conditioning :=
  let shift := byteAt body (k + 4)
  let decimation := word16At body (k + 5)
  if shift ≤ 15 ∧ 1 ≤ decimation ∧ decimation ≤ 256 then
    some { offset := BitVec.ofNat 16 (word16At body k), multiplier := BitVec.ofNat 16 (word16At body (k + 2)),
           shift, decimation }
  else none

/-- The trigger spec of bytes 4 to 9; the bytes of the kinds not chosen are not read (R9, R203). -/
def readTrigger (body : List Byte) : Option TriggerSpec :=
  match byteAt body 4 with
  | 0 => do
    let edge ← edgeSelectOf (byteAt body 6)
    let divider := byteAt body 7
    if h : byteAt body 5 < 6 then
      if 1 ≤ divider ∧ divider ≤ 16 then some (.line ⟨byteAt body 5, h⟩ edge divider) else none
    else none
  | 1 => if 4 ≤ word16At body 8 then some (.periodic (word16At body 8)) else none
  | 2 => some .demand
  | _ => none

/-- The seven key fields of bytes 0 to 12 (R9, R203). -/
def readKey (body : List Byte) : Option Key := do
  let gain ← gainOf (byteAt body 1)
  let oversample ← oversampleOf (byteAt body 3)
  let trigger ← readTrigger body
  let urgent ← flagOf (byteAt body 12)
  let delay := word16At body 10
  if hc : byteAt body 0 < 18 then
    if hs : byteAt body 2 < 16 then
      if delay ≤ 1023 then
        some { channel := ⟨byteAt body 0, hc⟩, gain, settle := ⟨byteAt body 2, hs⟩, oversample, trigger, delay, urgent }
      else none
    else none
  else none

/-- The fields of DEFINE POINT (R203). -/
structure DefineFields where
  key : Key
  conditioning : Conditioning
  deriving DecidableEq, Repr

/-- DEFINE POINT, with the field checks of R9. -/
def readDefine (body : List Byte) : Option DefineFields := do
  let key ← readKey body
  let conditioning ← readConditioning body 13
  some { key, conditioning }

/-- The fields of READ RESULTS (R204); no acknowledgement is NONE. -/
structure ReadResultsFields where
  k : Nat
  ack : Option (BitVec 8)
  deriving DecidableEq, Repr

/-- READ RESULTS: BAD_FIELD when k is 0 or above 15, or the acknowledgement kind is neither 0 nor 1; with kind 0 the
token byte is not read (R110, R204). -/
def readReadResults (body : List Byte) : Option ReadResultsFields := do
  let hasToken ← flagOf (byteAt body 1)
  let k := byteAt body 0
  if 1 ≤ k ∧ k ≤ 15 then
    some { k, ack := if hasToken then some (BitVec.ofNat 8 (byteAt body 2)) else none }
  else none

/-- READ EVENTS: the maximum, 1 to 16 (R121). -/
def readReadEvents (body : List Byte) : Option Nat :=
  if 1 ≤ byteAt body 0 ∧ byteAt body 0 ≤ 16 then some (byteAt body 0) else none

/-- The action of a monitor; the line is read for FOLLOW and LATCH alone (R128, R204). -/
def readAction (body : List Byte) : Option MonitorAction :=
  match byteAt body 8 with
  | 0 => some .none
  | 1 => (lineIndexOf (byteAt body 9)).map .follow
  | 2 => (lineIndexOf (byteAt body 9)).map .latch
  | _ => none

/-- The fields of CREATE MONITOR (R204). -/
structure MonitorFields where
  point : PointIdx
  low : Nat
  high : Nat
  hysteresis : Nat
  qualify : Nat
  action : MonitorAction
  broadcast : Bool
  deriving DecidableEq, Repr

/-- CREATE MONITOR, with the field checks of R128: the recovery window `low + h` to `high - h` must not be empty.  Of
the BROADCAST byte bit 0 alone is read. -/
def readMonitor (body : List Byte) : Option MonitorFields := do
  let point ← pointIndexOf (byteAt body 0)
  let action ← readAction body
  let low := word16At body 1
  let high := word16At body 3
  let hysteresis := word16At body 5
  let qualify := byteAt body 7
  if hysteresis ≤ 4095 ∧ 1 ≤ qualify ∧ qualify ≤ 8 ∧ low + hysteresis + hysteresis ≤ high then
    some { point, low, high, hysteresis, qualify, action, broadcast := byteAt body 10 % 2 == 1 }
  else none

/-- The fields of RELEASE ORPHAN (R154, R204). -/
structure OrphanFields where
  port : Port
  mask : LineMask
  deriving DecidableEq, Repr

/-- RELEASE ORPHAN: p at most 3 and a mask in range (R154). -/
def readOrphan (body : List Byte) : Option OrphanFields := do
  let port ← portOf (byteAt body 0)
  let mask ← lineMaskOf (byteAt body 1)
  some { port, mask }

/-- The fields of SET TRIP (R166, R204). -/
structure SetTripFields where
  comparator : TripIdx
  config : TripConfig
  enable : Bool
  deriving DecidableEq, Repr

/-- SET TRIP, with the field checks of R166. -/
def readSetTrip (body : List Byte) : Option SetTripFields := do
  let comparator ← comparatorIndexOf (byteAt body 0)
  let polarity ← polarityOf (byteAt body 3)
  let filter ← tripFilterOf (byteAt body 4)
  let mask ← lineMaskOf (byteAt body 5)
  let enable ← flagOf (byteAt body 6)
  if hi : byteAt body 1 < 16 then
    if hs : byteAt body 2 < 64 then
      some { comparator, enable,
             config := { input := ⟨byteAt body 1, hi⟩, step := ⟨byteAt body 2, hs⟩, polarity, filter, mask } }
    else none
  else none

/-! ### Analog levels (R68, R69, R162) -/

/-- VREF/2, the level that the REF channel presents (R68, R69). -/
def refLevel : Level := { num := 1, den := 1 }

/-- The gain stage multiplies a level by the gain (R69). -/
def gainLevel (g : Gain) (l : Level) : Level := { l with num := l.num * gainFactor g }

/-- The amplified level of a conversion (R68, R69): an AIN channel presents the level `l` of its pin, REF presents VREF/2,
and ZERO presents no signal, so that what stands at the converter is the offset, which is `l` there. -/
def amplifiedLevel (channel : Channel) (g : Gain) (l : Level) : Level :=
  if channel.val < 16 then gainLevel g l
  else if channel = 17 then gainLevel g refLevel
  else l

/-- The code of an amplified level: its fraction of VREF times 4096, rounded down and held within 0 to 4095 (R69). -/
def levelCode (l : Level) : ConverterCode := BitVec.ofNat 12 (min 4095 (l.num * 4096 / ((l.den : Int) + 1)).toNat)

/-- Whether a level lies beyond the threshold (2k + 1)/128 × VREF of a comparator (R162). -/
def beyondThreshold (c : TripConfig) (l : Level) : Bool :=
  match c.polarity with
  | .above => (2 * (c.step.val : Int) + 1) * ((l.den : Int) + 1) < l.num * 128
  | .below => l.num * 128 < (2 * (c.step.val : Int) + 1) * ((l.den : Int) + 1)

/-- Whether a level lies within the resolution of comparator Tk of its threshold (R162, notes/assumptions/13.md). -/
def nearThreshold (k : TripIdx) (c : TripConfig) (l : Level) : Bool :=
  let r := Config.resolution k
  let distance := l.num * 128 - (2 * (c.step.val : Int) + 1) * ((l.den : Int) + 1)
  (distance.natAbs : Int) * ((r.den : Int) + 1) ≤ r.num * (128 * ((l.den : Int) + 1))

/-- The output of comparator Tk on a sample of a level, true for beyond: as the threshold and the polarity decide, and
`near` within the resolution, where it may be either (R162). -/
def sampleOutput (k : TripIdx) (c : TripConfig) (l : Level) (near : Bool) : Bool :=
  if near = beyondThreshold c l then near
  else if nearThreshold k c l then near
  else beyondThreshold c l

end Sys2Proof.Machine
end

