-- ==== Sys2Proof/Machine/Flags.lean ====
section
/-!
DEFINITION. Flags, conditions and output pins: the flag bytes of records and responses, the ring and event conditions,
and the levels of the INH, ALERT and TXD outputs, each computed from the one place that holds its cause.
-/

namespace Sys2Proof.Machine

/-- The flags byte of a result record: bit 0 SAT, 1 TRIM, 2 CLAMP, 3 RESUMED, 4 FIRST (R201). -/
def recordFlags (r : Record) : Byte :=
  byteOf (r.sat.toNat + 2 * r.trim.toNat + 4 * r.clamp.toNat + 8 * r.resumed.toNat + 16 * r.first.toNat)

/-- The flags byte of a READ RESULTS response: bit 0 RESENT, bit 1 ACK_IGNORED (R205). -/
def windowFlags (resent ackIgnored : Bool) : Byte := byteOf (resent.toNat + 2 * ackIgnored.toNat)

/-- The limit indication of a conversion: its code is 0 or 4095 (R72). -/
def limitIndication (code : ConverterCode) : Bool := code == 0 || code == 4095

/-! ### Claim sets and inhibit lines -/

/-- The place of a claimant in a claim set and in the claimants field of LINE STATUS (R205). -/
def claimantIndex : Claimant → Fin 15
  | .start => 0
  | .host h => ⟨1 + h.val, by omega⟩
  | .monitor k => ⟨5 + k.val, by omega⟩
  | .trip k => ⟨13 + k.val, by omega⟩

/-- The claimant stands in the set. -/
def claimHolds (set : ClaimSet) (c : Claimant) : Bool := set[claimantIndex c]

/-- The claimant count of a set (R148, R155). -/
def claimCount (set : ClaimSet) : Nat := set.toList.countP (fun b => b)

/-- A line is asserted exactly when its claim set is non-empty (R147). -/
def claimAsserted (set : ClaimSet) : Bool := set.toList.any (fun b => b)

/-- The claimants field of a LINE STATUS entry as a number: bit 0 START, bits 1 to 4 HOST, 5 to 12 MONITOR, 13 and 14
TRIP (R205). -/
def claimBits (set : ClaimSet) : Nat := set.toList.foldr (fun b n => b.toNat + 2 * n) 0

/-- Claimant `c` stands in the claim set of line `l`. -/
def State.claims (s : State) (l : LineIdx) (c : Claimant) : Bool := claimHolds (s.line l) c

/-- Line `l` is asserted (R147). -/
def State.lineAsserted (s : State) (l : LineIdx) : Bool := claimAsserted (s.line l)

/-- The level of output INHn, true for high: an asserted line drives it high, and every INH output is high while RST_N
is low (R147). -/
def State.inhHigh (s : State) (l : LineIdx) : Bool := s.resetLow || s.lineAsserted l

/-- The lines whose claim sets hold the claimant (R151, R183). -/
def State.linesHolding (s : State) (c : Claimant) : LineMask := maskOfLines (fun l => s.claims l c)

/-- The lines that are asserted (R152). -/
def State.linesAsserted (s : State) : LineMask := maskOfLines s.lineAsserted

/-! ### Rings, queues and ALERT -/

/-- The number of records a ring holds (R103). -/
def ringFill (r : Ring) : Nat := r.window.length + r.unsent.length

/-- The ring condition: ATTACHED, and the unsent count at or above the watermark (R117). -/
def State.ringCondition (s : State) (p : Port) : Bool :=
  s.attached p && (s.ring p).watermark ≤ (s.ring p).unsent.length

/-- The event condition: ATTACHED, and at least one event in the queue (R122). -/
def State.eventCondition (s : State) (p : Port) : Bool := s.attached p && !(s.queue p).events.isEmpty

/-- ALERTn is asserted, low (R192). -/
def State.alertAsserted (s : State) (p : Port) : Bool := s.ringCondition p || s.eventCondition p

/-- The transmitter of TXDn is idle (R173). -/
def State.txdIdle (s : State) (p : Port) : Bool := (s.port p).sending.isNone

/-! ### Counts of the point table -/

/-- Point entries in use, RETIRING included (R28). -/
def State.entriesInUse (s : State) : Nat := allPoints.countP (fun i => (s.point i).state != .free)

/-- Urgent point entries in use, RETIRING included (R12, R28). -/
def State.urgentInUse (s : State) : Nat :=
  allPoints.countP (fun i => (s.point i).state != .free && (s.point i).key.urgent)

end Sys2Proof.Machine
end

