-- ==== Sys2Proof/Machine/Frames.lean ====
section
/-!
DEFINITION. What the part puts on the link: the CRC (R198), the status codes (R200), the response frame (R197), the
records (R201, R202) and the entries and bodies of responses (R205).
-/

namespace Sys2Proof.Machine

/-! ### The CRC (R198) -/

/-- One step of the CRC register: shifted left, combined with 1021 hex when bit 15 was 1. -/
def crcStep (r : BitVec 16) : BitVec 16 := if r.msb then (r <<< 1) ^^^ 0x1021 else r <<< 1

/-- One covered byte: combined into bits 15 to 8, then eight steps. -/
def crcByte (r : BitVec 16) (b : Byte) : BitVec 16 :=
  crcStep (crcStep (crcStep (crcStep (crcStep (crcStep (crcStep (crcStep (r ^^^ (b.setWidth 16 <<< 8)))))))))

/-- The CRC of the covered bytes. -/
def crc16 (bytes : List Byte) : BitVec 16 := bytes.foldl crcByte 0xFFFF

/-- The two CRC bytes, high byte first. -/
def crcBytes (bytes : List Byte) : List Byte := bytes16 (crc16 bytes).toNat

/-- The LEN byte of a request with this body (R196). -/
def requestLen (body : List Byte) : Byte := byteOf (body.length + 2)

/-- The bytes of a request that its CRC covers. -/
def requestCovered (tag code : Byte) (body : List Byte) : List Byte := requestLen body :: tag :: code :: body

/-- A whole request frame (R196). -/
def requestFrame (tag code : Byte) (body : List Byte) : List Byte :=
  0xA5 :: (requestCovered tag code body ++ crcBytes (requestCovered tag code body))

/-! ### Statuses and answers (R200) -/

/-- The statuses of R200. -/
inductive Status where
  | ok | notAttached | alreadyAttached | busy | unknownRequest | badLength | badField | noSlot | noRoom | noUrgentRoom
  | alreadySubscribed | notSubscribed | noSuchPoint | notDemand | triggerLost | calBusy | staleAck | noMonitorRoom
  | noSuchMonitor | notCreator | stillOut | notOrphan | claimsHeld | heldByOther | notHolder | tripLatched | stillActive
  | notFired
  deriving DecidableEq, Repr

/-- The code of a status (R200). -/
def statusCode : Status → Byte
  | .ok => 0x00 | .notAttached => 0x01 | .alreadyAttached => 0x02 | .busy => 0x03 | .unknownRequest => 0x04
  | .badLength => 0x05 | .badField => 0x06 | .noSlot => 0x07 | .noRoom => 0x08 | .noUrgentRoom => 0x09
  | .alreadySubscribed => 0x0A | .notSubscribed => 0x0B | .noSuchPoint => 0x0C | .notDemand => 0x0D
  | .triggerLost => 0x0E | .calBusy => 0x0F | .staleAck => 0x10 | .noMonitorRoom => 0x11 | .noSuchMonitor => 0x12
  | .notCreator => 0x13 | .stillOut => 0x14 | .notOrphan => 0x15 | .claimsHeld => 0x16 | .heldByOther => 0x17
  | .notHolder => 0x18 | .tripLatched => 0x19 | .stillActive => 0x1A | .notFired => 0x1B

/-- An owner's answer: a STATUS and a response body (R177). -/
structure Answer where
  status : Status
  body : List Byte
  deriving DecidableEq, Repr

/-- A refusal with an empty body (R177, R200). -/
def refusal (status : Status) : Answer := { status, body := [] }

/-- An OK answer. -/
def okAnswer (body : List Byte) : Answer := { status := .ok, body }

/-- A response frame (R197): 5A hex, LEN, TAG, CODE, STATUS, body, CRC. -/
def responseFrame (tag code : Byte) (a : Answer) : List Byte :=
  let covered := byteOf (a.body.length + 3) :: tag :: code :: statusCode a.status :: a.body
  0x5A :: (covered ++ crcBytes covered)

/-- A BUSY reply (R179, R197). -/
def busyFrame (tag code : Byte) : List Byte := responseFrame tag code (refusal .busy)

/-! ### State codes (R205) -/

def pointStateCode : PointState → Byte
  | .free => 0 | .armed => 1 | .delaying => 2 | .due => 3 | .converting => 4 | .suspended => 5 | .retiring => 6

def tripStateCode : TripState → Byte
  | .off => 0 | .watching => 1 | .fired => 2

def monitorStateCode : MonitorState → Byte
  | .inside => 0 | .qualifying => 1 | .out => 2

def jobStateCode : JobState → Byte
  | .none => 0 | .queued => 1 | .running => 2 | .suspended => 3

def trimStateCode : TrimState → Byte
  | .uncalibrated => 0 | .valid => 1

def subscriptionStateCode : SubscriptionState → Byte
  | .active => 0 | .paused => 1

def sessionCode : Session → Byte
  | .detached => 0 | .attached => 1

/-- The code of an event kind (R202). -/
def eventKindCode : EventKind → Byte
  | .trip => 1 | .recover => 2 | .lineAsserted => 3 | .lineReleased => 4 | .tripFired => 5 | .tripCleared => 6
  | .calDone => 7 | .peerLost => 8 | .peerLeft => 9

/-! ### Records and entries -/

/-- A result record as 16 bytes (R201). -/
def recordBytes (r : Record) : List Byte :=
  [byteOf r.point.val, recordFlags r] ++ bytes16 r.sequence.toNat ++ bytes32 r.timestamp.toNat ++ bytes16 r.value16.toNat
    ++ bytes32 r.scaled.toNat ++ [byteOf r.missed, byteOf r.lost]

/-- An event record as 8 bytes (R202). -/
def eventBytes (e : Event) : List Byte :=
  [eventKindCode e.kind, byteOf e.subject] ++ bytes16 e.value ++ bytes32 e.timestamp.toNat

/-- The trigger bytes 4 to 9 of a DEFINE POINT body; 0 in the bytes of the kinds not chosen (R203, R205). -/
def triggerBytes : TriggerSpec → List Byte
  | .line input edge divider => [0, byteOf input.val, byteOf (edgeSelectCode edge), byteOf divider, 0, 0]
  | .periodic period => [1, 0, 0, 0] ++ bytes16 period
  | .demand => [2, 0, 0, 0, 0, 0]

/-- The key fields as bytes 0 to 12 of a DEFINE POINT body (R203). -/
def keyBytes (k : Key) : List Byte :=
  [byteOf k.channel.val, byteOf (gainIndex k.gain).val, byteOf k.settle.val, byteOf (oversampleCount k.oversample)]
    ++ triggerBytes k.trigger ++ bytes16 k.delay ++ [byteOfBool k.urgent]

/-- The subscriber list as four bytes, head first, FF hex after the last (R205). -/
def subscriberBytes (ps : List Port) : List Byte :=
  (List.range 4).map (fun n => portByte ps[n]?)

/-- The body of POINT STATUS, 22 bytes; a FREE entry has no key fields (R26, R205). -/
def pointStatusBody (e : PointEntry) : List Byte :=
  [pointStateCode e.state] ++ (if e.state = .free then List.replicate 13 0 else keyBytes e.key)
    ++ [byteOf e.subscribers.length] ++ subscriberBytes e.subscribers ++ bytes16 e.sequence.toNat ++ [byteOf e.missed]

/-- A LIST SUBSCRIPTIONS slot entry, 13 bytes (R205). -/
def slotBytes (k : SlotIdx) (u : Subscription) : List Byte :=
  [byteOf k.val, byteOf u.point.val, subscriptionStateCode u.state] ++ bytes16 u.offset.toNat
    ++ bytes16 u.multiplier.toNat ++ [byteOf u.shift] ++ bytes16 u.decimation
    ++ [byteOf u.counter, byteOf u.missed, byteOfBool u.firstPending]

/-- A TRIM STATUS gain entry, 6 bytes; conversions done is 0 in NONE and QUEUED (R83, R205). -/
def trimBytes (t : TrimEntry) (j : CalibrationJob) : List Byte :=
  [trimStateCode t.state] ++ bytes16 t.trim ++ [jobStateCode j.state, portByte j.requester, byteOf j.done]

/-- The action byte and the line byte of a MONITOR STATUS entry; the line byte of a NONE monitor is 0 (R205). -/
def actionBytes : MonitorAction → List Byte
  | .none => [0, 0]
  | .follow l => [1, byteOf l.val]
  | .latch l => [2, byteOf l.val]

/-- A MONITOR STATUS entry, 16 bytes; a free entry is all 0 (R144, R205). -/
def monitorBytes : Option Monitor → List Byte
  | none => List.replicate 16 0
  | some m =>
    [1, byteOf m.creator.val, byteOf m.point.val] ++ bytes16 m.low ++ bytes16 m.high ++ bytes16 m.hysteresis
      ++ [byteOf m.qualify] ++ actionBytes m.action
      ++ [byteOfBool m.broadcast, monitorStateCode m.state, byteOf m.count, byteOfBool m.claimHeld]

/-- A LINE STATUS entry, 4 bytes (R155, R205). -/
def lineBytes (set : ClaimSet) : List Byte :=
  [byteOfBool (claimAsserted set), byteOf (claimCount set)] ++ bytes16 (claimBits set)

/-- A TRIP STATUS entry, 9 bytes (R170, R205). -/
def comparatorBytes (c : Comparator) : List Byte :=
  [tripStateCode c.state, portByte c.holder, byteOf c.config.input.val, byteOf c.config.step.val,
   byteOf (polarityCode c.config.polarity), byteOf (tripFilterCode c.config.filter), maskByte c.config.mask,
   maskByte c.claimed, byteOfBool c.beyond]

/-- A PART STATUS port entry, 10 bytes (R193, R205). -/
def portEntryBytes (s : State) (p : Port) : List Byte :=
  [sessionCode (s.port p).session, (s.port p).sessionId] ++ bytes16 (s.urgentGrant p).toNat
    ++ bytes16 (s.wheelGrant p).toNat ++ bytes16 (s.port p).framingErrors ++ bytes16 (s.ring p).totalLost

/-- The body of PART STATUS, 50 bytes (R193, R205). -/
def partStatusBody (s : State) : List Byte :=
  [byteOf s.share.val, byteOf s.cdiv.val, byteOf s.baud.val] ++ allPorts.flatMap (portEntryBytes s)
    ++ [byteOfBool s.converter.isSome] ++ bytes32 s.timebase.toNat
    ++ [byteOf s.entriesInUse, byteOf s.urgentInUse]

/-- The body of LIST SUBSCRIPTIONS: the count, then the occupied slots in slot order (R27, R205). -/
def listBody (s : State) (p : Port) : List Byte :=
  let occupied := allSlots.filterMap (fun k => (s.slot p k).map (slotBytes k))
  byteOf occupied.length :: occupied.flatten

/-- The body of TRIM STATUS, gain 1 first (R83, R205). -/
def trimStatusBody (s : State) : List Byte := allGains.flatMap (fun g => trimBytes (s.trimEntry g) (s.job g))

/-- The body of MONITOR STATUS, M0 first (R144, R205). -/
def monitorStatusBody (s : State) : List Byte := allMonitors.flatMap (fun k => monitorBytes (s.monitor k))

/-- The body of LINE STATUS, INH0 first (R155, R205). -/
def lineStatusBody (s : State) : List Byte := allLines.flatMap (fun l => lineBytes (s.line l))

/-- The body of TRIP STATUS, T0 first (R170, R205). -/
def tripStatusBody (s : State) : List Byte := allComparators.flatMap (fun k => comparatorBytes (s.comparator k))

/-- The body of a READ RESULTS response: the window outstanding after the request, with its header (R110, R205). -/
def windowBody (r : Ring) (resent ackIgnored : Bool) : List Byte :=
  [windowFlags resent ackIgnored, r.token, byteOf r.window.length, byteOf r.unsent.length, byteOf r.pendingLost]
    ++ r.window.flatMap recordBytes

end Sys2Proof.Machine
end

