-- ==== Sys2Proof/Machine/Ops.lean ====
section
/-!
DEFINITION. Operations that several blocks share: whether a timer has expired, forming and offering events (chapter 6), adding and removing claims
(chapter 8), deleting a monitor (chapter 7), storing a record in a ring (chapter 6) and counting a framing error
(chapter 9).
-/

namespace Sys2Proof.Machine

/-! ### Timers (R32, R175, R185) -/

/-- The timer has reached 0, and its expiry is not yet taken: it occurs unless the timer is stopped, cancelled or loaded
anew first (R32, R36, R175, R185). -/
def expired (timer : Option Nat) : Bool := timer == some 0

/-! ### Events (R118 to R122) -/

/-- What a queue of an ATTACHED port does with an event: it takes it at the tail, or drops it and counts the loss when
it holds 16 (R120). -/
def queuePut (q : EventQueue) (e : Event) : EventQueue :=
  if q.events.length < Config.eventCapacity then { q with events := q.events ++ [e] }
  else { q with lost := satAdd 255 q.lost 1 }

/-- An event is offered to the queue of port `p`; a DETACHED port neither takes nor counts it (R120). -/
def offerEvent (e : Event) (p : Port) (s : State) : State :=
  if s.attached p then s.modQueue p (queuePut · e) else s

/-- An event is formed once and offered, in the order H0 to H3, to the ports that `dest` picks (R118, R120). -/
def formEvent (kind : EventKind) (subject value : Nat) (dest : Port → Bool) (s : State) : State :=
  let e : Event := { kind, subject, value, timestamp := s.timebase }
  allPorts.foldl (fun s p => if dest p then offerEvent e p s else s) s

/-- An event is formed and offered to every port; the DETACHED ones take nothing (R150). -/
def formEventForAll (kind : EventKind) (subject value : Nat) (s : State) : State :=
  formEvent kind subject value (fun _ => true) s

/-! ### Claim sets (R147 to R150) -/

/-- A claimant is added to the claim set of line `l`; LINE_ASSERTED is formed when the set was empty (R148). -/
def addClaim (l : LineIdx) (c : Claimant) (s : State) : State :=
  if s.claims l c then s
  else
    let t := s.setLine l ((s.line l).set (claimantIndex c) true)
    if s.lineAsserted l then t
    else formEventForAll .lineAsserted l.val (claimCount (t.line l)) t

/-- A claimant is removed from the claim set of line `l`; LINE_RELEASED is formed when the set is then empty (R149). -/
def removeClaim (l : LineIdx) (c : Claimant) (s : State) : State :=
  if s.claims l c then
    let t := s.setLine l ((s.line l).set (claimantIndex c) false)
    if t.lineAsserted l then t
    else formEventForAll .lineReleased l.val (claimCount (t.line l)) t
  else s

/-- A claimant is added to each line of a mask, in ascending order (R150). -/
def addClaims (mask : LineMask) (c : Claimant) (s : State) : State :=
  (linesOf mask).foldl (fun s l => addClaim l c s) s

/-- A claimant is removed from each line of a mask, in ascending order (R150). -/
def removeClaims (mask : LineMask) (c : Claimant) (s : State) : State :=
  (linesOf mask).foldl (fun s l => removeClaim l c s) s

/-! ### Monitors (R126, R137, R141, R142) -/

/-- The line of a FOLLOW or LATCH action (R126). -/
def actionLine : MonitorAction → Option LineIdx
  | .none => none
  | .follow l => some l
  | .latch l => some l

/-- The line on which a monitor holds its claim, if it holds one (R137). -/
def heldLine (m : Monitor) : Option LineIdx := if m.claimHeld then actionLine m.action else none

/-- A monitor is deleted: a held claim is converted, the HOST claim of its creator added before MONITOR k is removed;
the entry becomes free (R141). -/
def deleteMonitor (k : MonitorIdx) (s : State) : State :=
  match s.monitor k with
  | none => s
  | some m =>
    let t := match heldLine m with
      | some l => removeClaim l (.monitor k) (addClaim l (.host m.creator) s)
      | none => s
    t.setMonitor k none

/-- The monitors that port `p` created on point `i` are deleted in ascending index (R142). -/
def deleteMonitorsOn (p : Port) (i : PointIdx) (s : State) : State :=
  allMonitors.foldl (fun s k =>
    match s.monitor k with
    | some m => if m.creator = p ∧ m.point = i then deleteMonitor k s else s
    | none => s) s

/-! ### Result rings (R103 to R109) -/

/-- A record is stored at the tail of the unsent region with the pending-lost count, which returns to 0 (R105). -/
def ringStore (r : Ring) (x : Record) : Ring :=
  { r with unsent := r.unsent ++ [{ x with lost := r.pendingLost }], pendingLost := 0 }

/-- One record of the ring is lost (R106, R107). -/
def ringCountLoss (r : Ring) : Ring :=
  { r with pendingLost := satAdd 255 r.pendingLost 1, totalLost := satAdd 65535 r.totalLost 1 }

/-- A record arrives at the ring of an ATTACHED port (R105 to R107). -/
def ringArrive (r : Ring) (x : Record) : Ring :=
  if ringFill r < Config.ringCapacity then ringStore r x
  else match r.policy with
    | .keepOldest => ringCountLoss r
    | .keepNewest => ringStore (ringCountLoss { r with unsent := r.unsent.tail }) x

/-- A record is delivered to the ring of port `p`; the ring of a DETACHED port discards it uncounted (R97, R125). -/
def deliverRecord (p : Port) (x : Record) (s : State) : State :=
  if s.attached p then s.modRing p (ringArrive · x) else s

/-- The outstanding window is released: its records leave the ring (R111, R114). -/
def ringRelease (r : Ring) : Ring := { r with window := [] }

/-- A window is formed from the oldest unsent records, up to `k`; the token advances when it is not empty (R109). -/
def ringForm (r : Ring) (k : Nat) : Ring :=
  { r with
    window := r.unsent.take k
    unsent := r.unsent.drop k
    token := if r.unsent.take k = [] then r.token else r.token + 1 }

/-! ### Framing errors (R176) -/

/-- One framing error is counted at port `p` (R176). -/
def countFramingError (p : Port) (s : State) : State :=
  s.modPort p (fun h => { h with framingErrors := satAdd 65535 h.framingErrors 1 })

end Sys2Proof.Machine
end

