-- ==== Sys2Proof/Machine/Scheduler.lean ====
section
/-!
DEFINITION. The converter scheduler (chapter 3) and the beginning of a conversion at the front end (chapter 4): the
share wheel, grants, burst starts, suspension, resumption and the grant decision.
-/

namespace Sys2Proof.Machine

/-! ### The share wheel (R51, R54) -/

/-- The port that a slot of the share wheel names, by the SHARE strap (R51). -/
def wheelPort (share : StrapCode) (slot : WheelSlot) : Port :=
  match share with
  | 0 => (#v[0, 1, 2, 3, 0, 1, 2, 3] : Vector Port 8)[slot]
  | 1 => (#v[0, 1, 0, 2, 0, 1, 0, 3] : Vector Port 8)[slot]
  | 2 => (#v[0, 1, 0, 1, 2, 0, 1, 3] : Vector Port 8)[slot]
  | 3 => (#v[0, 1, 0, 1, 0, 1, 0, 1] : Vector Port 8)[slot]

/-- The slots in the order the wheel scan examines them: from the one after the position round to the position
itself (R54). -/
def scanOrder (position : WheelSlot) : List WheelSlot := (List.finRange 8).map (fun k => position + 1 + k)

/-- The wheel scan: the first slot whose port has a non-empty pending FIFO (R54). -/
def wheelScan (s : State) : Option WheelSlot :=
  (scanOrder s.wheelPosition).find? (fun slot => !(s.fifo (wheelPort s.share slot)).isEmpty)

/-- The idle scan: the first port, H0 to H3, whose pending FIFO is non-empty (R54). -/
def idleScan (s : State) : Option Port := allPorts.find? (fun p => !(s.fifo p).isEmpty)

/-! ### Conversions and bursts (R46, R55, R70, R71) -/

/-- The sponsor of a point: the head of its subscriber list (R6). -/
def State.sponsor (s : State) (i : PointIdx) : Option Port := (s.point i).subscribers.head?

/-- The front end begins a conversion: the gain switch is judged against the last gain, which then takes the
conversion's gain (R70, R71). -/
def beginConversion (channel : Channel) (gain : Gain) (settle : Fin 16) (s : State) : State :=
  { s with
    conversion := some { channel, gain, settle, gainSwitch := gain != s.lastGain, elapsed := 0, reading := none,
                          held := none }
    lastGain := gain }

/-- The channel of a subject's conversions: a point's key field, or ZERO (R46, R78). -/
def subjectChannel (subject : Subject) (s : State) : Channel :=
  match subject with
  | .point i => (s.point i).key.channel
  | .job _ => 16

/-- The gain of a subject's conversions: a point's key field, or the job's own (R46, R78). -/
def subjectGain (subject : Subject) (s : State) : Gain :=
  match subject with
  | .point i => (s.point i).key.gain
  | .job g => g

/-- The settle code of a subject's conversions: a point's key field, or 15 (R46, R70, R78). -/
def subjectSettle (subject : Subject) (s : State) : Fin 16 :=
  match subject with
  | .point i => (s.point i).key.settle
  | .job _ => 15

/-- The next conversion of a subject (R46, R78). -/
def beginConversionOf (subject : Subject) (s : State) : State :=
  beginConversion (subjectChannel subject s) (subjectGain subject s) (subjectSettle subject s) s

/-- The length of a subject's burst (R46). -/
def burstLength (subject : Subject) (s : State) : Nat :=
  match subject with
  | .point i => oversampleCount (s.point i).key.oversample
  | .job _ => Config.calibrationLength

/-- The conversions done of a burst, kept in its subject (R46, R49). -/
def conversionsDone (subject : Subject) (s : State) : Nat :=
  match subject with
  | .point i => (s.point i).done
  | .job g => (s.job g).done

/-- The burst accumulator cleared (R86). -/
def clearBurst (e : PointEntry) : PointEntry :=
  { e with accumulator := 0, done := 0, stamp := none, satSoFar := false, resumedSoFar := false }

/-- The subject takes the converter: a point becomes CONVERTING with its result path fields cleared, a job RUNNING
with partial sum and conversions done 0 (R55). -/
def subjectStarts (subject : Subject) (s : State) : State :=
  match subject with
  | .point i => s.modPoint i (fun e => { clearBurst e with state := .converting })
  | .job g => s.setJob g { s.job g with state := .running, done := 0, partialSum := 0 }

/-- A grant starts a burst; the caller has counted it (R55). -/
def startBurst (subject : Subject) (burstClass : BurstClass) (s : State) : State :=
  let t := subjectStarts subject s
  beginConversionOf subject { t with converter := some { subject, burstClass, length := burstLength subject s } }

/-- One urgent grant of port `p` is counted, wrapping (R56). -/
def countUrgentGrant (p : Port) (s : State) : State := s.modUrgentGrant p (· + 1)

/-- One wheel grant of port `p` is counted, wrapping (R56). -/
def countWheelGrant (p : Port) (s : State) : State := s.modWheelGrant p (· + 1)

/-! ### The grant decision (R52 to R54) -/

/-- The head of the urgent queue is granted as an URGENT burst, billed to its sponsor (R53, R56). -/
def grantUrgent (i : PointIdx) (rest : List PointIdx) (s : State) : State :=
  let t := { s with urgentQueue := rest }
  startBurst (.point i) .urgent (match s.sponsor i with
    | some p => countUrgentGrant p t
    | none => t)

/-- The head of the pending FIFO of port `p` is granted as a BACKGROUND burst, billed to `p` (R53, R56). -/
def grantPending (p : Port) (s : State) : State :=
  match s.fifo p with
  | subject :: rest => startBurst subject .background (countWheelGrant p (s.setFifo p rest))
  | [] => s

/-- The suspended burst leaves the slot and continues with its next conversion (R59). -/
def resumeBurst (b : Burst) (s : State) : State :=
  let t := match b.subject with
    | .point i => s.modPoint i (fun e => { e with state := .converting })
    | .job g => s.setJob g { s.job g with state := .running }
  beginConversionOf b.subject { t with suspended := none, converter := some b }

/-- The grant decision: urgent queue, suspended burst, wheel scan, idle scan, or the converter becomes IDLE (R53). -/
def grantDecision (s : State) : State :=
  match s.urgentQueue with
  | i :: rest => grantUrgent i rest s
  | [] =>
    match s.suspended with
    | some b => resumeBurst b s
    | none =>
      match wheelScan s with
      | some slot => grantPending (wheelPort s.share slot) { s with wheelPosition := slot }
      | none =>
        match idleScan s with
        | some p => grantPending p s
        | none => { s with converter := none, conversion := none }

/-- The grant decision is taken on the waiting places as they stand, and none is due after it (R53). -/
def takeDecision (s : State) : State := grantDecision { s with decisionDue := false }

/-- An enqueue that finds the converter IDLE starts a grant decision; one that finds it BUSY waits for the next (R52).  An
enqueue between a finalize and its grant decision finds it IDLE, and the decision follows the enqueue (R88). -/
def decideIfIdle (s : State) : State := if s.converter.isNone then takeDecision s else s

/-- A grant decision is left due: the converter is free, and no conversion is in progress (R57, R88). -/
def leaveDecisionDue (s : State) : State := { s with converter := none, conversion := none, decisionDue := true }

/-! ### Suspension (R58) -/

/-- The burst that holds the converter enters the suspended-burst slot and the head of the urgent queue is granted; the
caller has found the urgent queue non-empty (R58). -/
def suspendBurst (b : Burst) (s : State) : State :=
  let t := match b.subject with
    | .point i => s.modPoint i (fun e => { e with state := .suspended, resumedSoFar := true })
    | .job g => s.setJob g { s.job g with state := .suspended }
  grantDecision { t with suspended := some b }

/-! ### Enqueues (R37, R48, R64) -/

/-- An entry joins the tail of the pending FIFO of port `p` (R48). -/
def enqueuePending (p : Port) (subject : Subject) (s : State) : State := s.modFifo p (· ++ [subject])

/-- A point that has become DUE joins the urgent queue, or the pending FIFO of its sponsor (R37). -/
def enqueueDue (i : PointIdx) (s : State) : State :=
  if (s.point i).key.urgent then { s with urgentQueue := s.urgentQueue ++ [i] }
  else match s.sponsor i with
    | some p => enqueuePending p (.point i) s
    | none => s

/-! ### Time of a conversion (R70) -/

/-- CLK periods of one CCLK period, by the CDIV strap (00_scope.md, "Straps"). -/
def cclkPeriods : StrapCode → Nat
  | 0 => 2
  | 1 => 4
  | 2 => 8
  | 3 => 16

/-- CCLK periods from the beginning of a conversion to its sample instant: the gain switch, if any, and the settling
interval (R70). -/
def settleTime (c : Conversion) : Nat := (if c.gainSwitch then 4 else 0) + (2 + c.settle.val)

/-- CCLK periods from the beginning of a conversion to its completion (R70). -/
def conversionTime (c : Conversion) : Nat := settleTime c + 13

end Sys2Proof.Machine
end

