-- ==== Sys2Proof/Machine/PointOps.lean ====
section
/-!
DEFINITION. Operations on the point table and the subscription tables (chapter 1) and on triggers (chapter 2): finding
entries and slots, triggers, the removal of a subscription with what follows from it, and the freeing of an entry.
-/

namespace Sys2Proof.Machine

/-! ### Searches -/

/-- The lowest free slot of the subscription table of port `p` (R8). -/
def lowestFreeSlot (s : State) (p : Port) : Option SlotIdx := allSlots.find? (fun k => (s.slot p k).isNone)

/-- The slot of port `p` that holds its subscription to point `i` (R7). -/
def slotOf (s : State) (p : Port) (i : PointIdx) : Option SlotIdx :=
  allSlots.find? (fun k => match s.slot p k with
    | some u => u.point = i
    | none => false)

/-- The lowest FREE entry (R13). -/
def lowestFreePoint (s : State) : Option PointIdx := allPoints.find? (fun i => (s.point i).state = .free)

/-- An entry is live: neither FREE nor RETIRING, so that it takes joiners, triggers and requests (R11, R16, R34). -/
def live (e : PointEntry) : Bool := e.state != .free && e.state != .retiring

/-- The entry that matches a definition: equal key fields, neither FREE nor RETIRING (R11). -/
def matchingPoint (s : State) (key : Key) : Option PointIdx :=
  allPoints.find? (fun i => live (s.point i) && (s.point i).key == key)

/-- Applies `f` to the subscription of port `p` to point `i`, when there is one. -/
def modSubscription (p : Port) (i : PointIdx) (f : Subscription → Subscription) (s : State) : State :=
  match slotOf s p i with
  | some k => s.setSlot p k ((s.slot p k).map f)
  | none => s

/-! ### Triggers (R35 to R37, R41) -/

/-- A point becomes DUE and is enqueued in the same step; an enqueue that finds the converter IDLE starts a grant
decision (R37). -/
def becomeDue (i : PointIdx) (s : State) : State :=
  decideIfIdle (enqueueDue i (s.modPoint i (fun e => { e with state := .due, delayTimer := none })))

/-- A trigger that reaches the entry is taken and enqueues the point at once: ARMED, with delay 0 (R35). -/
def enqueuesAtOnce (e : PointEntry) : Bool := e.state == .armed && e.key.delay == 0

/-- A trigger is taken by an ARMED point (R35). -/
def takeTrigger (i : PointIdx) (s : State) : State :=
  if (s.point i).key.delay = 0 then becomeDue i s
  else s.modPoint i (fun e => { e with state := .delaying, delayTimer := some e.key.delay })

/-- A trigger is lost and counted (R41). -/
def loseTrigger (i : PointIdx) (s : State) : State := s.modPoint i (fun e => { e with missed := satAdd 255 e.missed 1 })

/-- A trigger reaches point `i`: taken when ARMED, lost and counted in the four busy states, ignored when RETIRING or
FREE (R35, R41). -/
def triggerPoint (i : PointIdx) (s : State) : State :=
  match (s.point i).state with
  | .armed => takeTrigger i s
  | .delaying | .due | .converting | .suspended => loseTrigger i s
  | .retiring | .free => s

/-! ### The end of an entry (R18 to R20) -/

/-- The entry becomes FREE (R19). -/
def freePoint (i : PointIdx) (s : State) : State := s.setPoint i .cleared

/-- The entry becomes RETIRING: its list is empty and its trigger state is cleared (R18, R41). -/
def retirePoint (i : PointIdx) (s : State) : State :=
  s.modPoint i (fun e => { e with state := .retiring, subscribers := [], divider := 0, countdown := none, delayTimer := none })

/-- A DUE point is taken out of its queue, the entries behind it keeping their order: the urgent queue, or the pending
FIFO of its sponsor `p` (R18, R61). -/
def dequeueDue (p : Port) (i : PointIdx) (s : State) : State :=
  if (s.point i).key.urgent then { s with urgentQueue := s.urgentQueue.erase i }
  else s.modFifo p (·.erase (.point i))

/-- The subscriber list of point `i` has become empty by the leaving of port `p`: the entry's state decides (R18). -/
def listEmptied (p : Port) (i : PointIdx) (s : State) : State :=
  match (s.point i).state with
  | .armed | .delaying => freePoint i s
  | .due => freePoint i (dequeueDue p i s)
  | .suspended => freePoint i { s with suspended := none }
  | .converting => retirePoint i s
  | .free | .retiring => s

/-- Sponsor handover of point `i` from `old` to `new`: a non-urgent DUE point moves to the tail of the new sponsor's
pending FIFO (R6, R63). -/
def handover (i : PointIdx) (old new : Port) (s : State) : State :=
  if (s.point i).state = .due ∧ (s.point i).key.urgent = false then
    enqueuePending new (.point i) (s.modFifo old (·.erase (.point i)))
  else s

/-- Port `p` leaves the subscriber list of point `i`, with what follows: steps 3 to 5 of R17. -/
def leaveList (p : Port) (i : PointIdx) (s : State) : State :=
  let e := s.point i
  let t := s.setPoint i { e with subscribers := e.subscribers.erase p }
  match e.subscribers.erase p with
  | [] => listEmptied p i t
  | next :: _ => if e.subscribers.head? = some p then handover i p next t else t

/-- The subscription in slot `k` of port `p` is removed: steps 1 to 5 of R17. -/
def removeSubscription (p : Port) (k : SlotIdx) (s : State) : State :=
  match s.slot p k with
  | none => s
  | some u => leaveList p u.point (deleteMonitorsOn p u.point (s.setSlot p k none))

end Sys2Proof.Machine
end

