-- ==== Sys2Proof/Machine/Results.lean ====
section
/-!
DEFINITION. The result path (chapter 5), the evaluation of limit monitors (chapter 7) and calibration completion
(chapter 4): what a conversion completion brings about in the burst's subject.
-/

namespace Sys2Proof.Machine

/-! ### Limit monitors (R127, R131 to R136) -/

/-- A result lies outside the window (R127). -/
def outsideWindow (m : Monitor) (v : Nat) : Bool := v < m.low || m.high < v

/-- A result lies inside the recovery window, `low + h` to `high - h` (R127). -/
def insideRecovery (m : Monitor) (v : Nat) : Bool := m.low + m.hysteresis ≤ v && v + m.hysteresis ≤ m.high

/-- The ports a monitor's TRIP and RECOVER go to: its creator, and every other port too under BROADCAST (R136). -/
def monitorAudience (m : Monitor) (p : Port) : Bool := m.broadcast || p == m.creator

/-- A monitor goes OUT: state and count, TRIP event, claim for FOLLOW and LATCH (R134). -/
def monitorTrips (k : MonitorIdx) (m : Monitor) (v : Nat) (s : State) : State :=
  let held := (actionLine m.action).isSome
  let t := formEvent .trip k.val v (monitorAudience m)
    (s.setMonitor k (some { m with state := .out, count := m.qualify, claimHeld := held }))
  match actionLine m.action with
  | some l => addClaim l (.monitor k) t
  | none => t

/-- A monitor in OUT recovers: state and count, RECOVER event, a FOLLOW claim removed (R135). -/
def monitorRecovers (k : MonitorIdx) (m : Monitor) (v : Nat) (s : State) : State :=
  let keeps := match m.action with
    | .follow _ => false
    | .latch _ | .none => m.claimHeld
  let t := formEvent .recover k.val v (monitorAudience m)
    (s.setMonitor k (some { m with state := .inside, count := 0, claimHeld := keeps }))
  match m.action with
  | .follow l => removeClaim l (.monitor k) t
  | .latch _ | .none => t

/-- One more result outside the window: the count rises, and the monitor goes OUT when it reaches q (R132). -/
def monitorCounts (k : MonitorIdx) (m : Monitor) (v : Nat) (s : State) : State :=
  if m.count + 1 = m.qualify then monitorTrips k m v s
  else s.setMonitor k (some { m with state := .qualifying, count := m.count + 1 })

/-- A monitor evaluates a result (R132, R133). -/
def evaluateMonitor (k : MonitorIdx) (m : Monitor) (v : Nat) (s : State) : State :=
  match m.state with
  | .inside | .qualifying =>
    if outsideWindow m v then monitorCounts k m v s
    else s.setMonitor k (some { m with state := .inside, count := 0 })
  | .out => if insideRecovery m v then monitorRecovers k m v s else s

/-- Every monitor of point `i` evaluates the result, in ascending index (R93, R131). -/
def evaluateMonitors (i : PointIdx) (v : Nat) (s : State) : State :=
  allMonitors.foldl (fun s k =>
    match s.monitor k with
    | some m => if m.point = i then evaluateMonitor k m v s else s
    | none => s) s

/-! ### Finalize (R88 to R97) -/

/-- What a finalize forms once and every record of it carries (R89 to R91). -/
structure Result where
  value16 : Nat
  sat : Bool
  trim : Bool
  clamp : Bool
  resumed : Bool
  sequence : BitVec 16
  timestamp : TimeReading
  deriving DecidableEq, Repr

/-- The scaled average, S × 16 divided by N (R89). -/
def scaledAverage (sum n : Nat) : Nat := sum * 16 / n

/-- The trim a finalize subtracts: a VALID entry's trim, 0 from an UNCALIBRATED one (R74, R89). -/
def trimUsed (t : TrimEntry) : Nat :=
  match t.state with
  | .valid => t.trim
  | .uncalibrated => 0

/-- value16 and the flags, and the sequence and timestamp of the result of point `i` (R89 to R91).  A burst that is
finalized has its timestamp (R87), so the default of `getD` is not met. -/
def resultOf (e : PointEntry) (t : TrimEntry) : Result where
  value16 := scaledAverage e.accumulator (oversampleCount e.key.oversample) - trimUsed t
  sat := e.satSoFar
  trim := t.state == .uncalibrated
  clamp := scaledAverage e.accumulator (oversampleCount e.key.oversample) < trimUsed t
  resumed := e.resumedSoFar
  sequence := e.sequence + 1
  timestamp := e.stamp.getD 0

/-- value16 less the offset, times the multiplier, shifted right arithmetically: an exact integer (R96). -/
def scaledValue (u : Subscription) (value16 : Nat) : Int :=
  ((value16 : Int) - u.offset.toNat) * u.multiplier.toInt / (2 : Int) ^ u.shift

/-- The record formed for a subscription (R95); the ring writes its lost field. -/
def recordFor (i : PointIdx) (r : Result) (u : Subscription) : Record where
  point := i
  sequence := r.sequence
  timestamp := r.timestamp
  value16 := BitVec.ofNat 16 r.value16
  scaled := BitVec.ofInt 32 (scaledValue u r.value16)
  missed := u.missed
  lost := 0
  sat := r.sat
  trim := r.trim
  clamp := r.clamp
  resumed := r.resumed
  first := u.firstPending

/-- The point's missed count is added into the missed accumulator of every subscription and set to 0 (R92). -/
def transferMissed (i : PointIdx) (s : State) : State :=
  let e := s.point i
  let t := e.subscribers.foldl
    (fun s p => modSubscription p i (fun u => { u with missed := satAdd 255 u.missed e.missed }) s) s
  t.modPoint i (fun e => { e with missed := 0 })

/-- The result is offered to the subscription of port `p`: skipped when PAUSED; otherwise the decimation counter rises,
and at d a record is formed and delivered (R94, R95, R97). -/
def offerResult (i : PointIdx) (r : Result) (p : Port) (s : State) : State :=
  match slotOf s p i with
  | none => s
  | some k =>
    match s.slot p k with
    | none => s
    | some u =>
      match u.state with
      | .paused => s
      | .active =>
        if u.counter + 1 = u.decimation then
          deliverRecord p (recordFor i r u)
            (s.setSlot p k (some { u with counter := 0, missed := 0, firstPending := false }))
        else s.setSlot p k (some { u with counter := u.counter + 1 })

/-- The fan-out takes the subscriptions in list order (R94). -/
def fanOut (i : PointIdx) (r : Result) (s : State) : State :=
  (s.point i).subscribers.foldl (fun s p => offerResult i r p s) s

/-- Finalize of point `i`: sequence, missed transfer, monitors, fan-out, ARMED (R88). -/
def finalizePoint (i : PointIdx) (s : State) : State :=
  let r := resultOf (s.point i) (s.trimEntry (s.point i).key.gain)
  let t := transferMissed i (s.modPoint i (fun e => { e with sequence := r.sequence }))
  let u := fanOut i r (evaluateMonitors i r.value16 t)
  u.modPoint i (fun e => { e with state := .armed })

/-! ### Calibration completion (R80) -/

/-- The calibration of gain `g` completes: trim entry VALID, CAL_DONE to every ATTACHED port, job NONE (R80, R81). -/
def completeCalibration (g : Gain) (s : State) : State :=
  let trim := min (s.job g).partialSum Config.trimTop
  let t := formEventForAll .calDone (gainIndex g).val trim (s.setTrimEntry g { state := .valid, trim })
  t.setJob g .idle

/-! ### A conversion completion (R57, R72, R87) -/

/-- A code goes to the subject of the burst, and conversions done rises by one (R57, R76, R87). -/
def takeCode (subject : Subject) (code : ConverterCode) (reading : TimeReading) (s : State) : State :=
  match subject with
  | .point i => s.modPoint i (fun e =>
      { e with
        accumulator := e.accumulator + code.toNat
        done := e.done + 1
        stamp := some (e.stamp.getD reading)
        satSoFar := e.satSoFar || limitIndication code })
  | .job g => s.setJob g { s.job g with done := (s.job g).done + 1, partialSum := (s.job g).partialSum + code.toNat }

/-- The end of a burst: a point is finalized, a calibration job completes (R57). -/
def endBurst (subject : Subject) (s : State) : State :=
  match subject with
  | .point i => finalizePoint i s
  | .job g => completeCalibration g s

/-- The subject is a RETIRING point (R57). -/
def subjectRetiring (subject : Subject) (s : State) : Bool :=
  match subject with
  | .point i => (s.point i).state == .retiring
  | .job _ => false

/-- The subject of a RETIRING burst is freed (R20). -/
def freeSubject (subject : Subject) (s : State) : State :=
  match subject with
  | .point i => freePoint i s
  | .job _ => s

/-- The sample-instant reading of the conversion that completes: the one the front end kept, or the timebase as it
stands when the completion comes before the clock of the model has reached the sample instant (R72,
notes/assumptions/6.md). -/
def sampleReading (s : State) : TimeReading := ((s.conversion.bind (·.reading)).getD s.timebase)

/-- The code of the conversion of burst `b` (R69): that of the amplified level the sample stage holds, or, where the
completion comes before the clock of the model has reached the sample instant, that of `level` at the selected input
(notes/assumptions/6.md). -/
def completionCode (b : Burst) (level : Level) (s : State) : ConverterCode :=
  levelCode ((s.conversion.bind (·.held)).getD
    (amplifiedLevel (subjectChannel b.subject s) (subjectGain b.subject s) level))

end Sys2Proof.Machine
end

