-- ==== Sys2Proof/Machine/SessionOps.lean ====
section
/-!
DEFINITION. Session start and session end (R123, R187 to R191), and the firing of a trip comparator (R164).
-/

namespace Sys2Proof.Machine

/-! ### Session end (R189) -/

/-- Row 1 of R189: the port's subscriptions are removed in slot order (R29). -/
def removeSubscriptions (p : Port) (s : State) : State := allSlots.foldl (fun s k => removeSubscription p k s) s

/-- Row 2 of R189: the port's QUEUED calibration jobs leave its pending FIFO and return to NONE, gain 1 first (R82). -/
def removeQueuedJobs (p : Port) (s : State) : State :=
  allGains.foldl (fun s g =>
    if (s.job g).state = .queued ∧ (s.job g).requester = some p then
      (s.modFifo p (·.erase (.job g))).setJob g .idle
    else s) s

/-- Row 3 of R189: the comparators held by the port lose their holder, T0 first (R171). -/
def unholdComparators (p : Port) (s : State) : State :=
  allComparators.foldl (fun s k =>
    if (s.comparator k).holder = some p then s.modComparator k (fun c => { c with holder := none }) else s) s

/-- Rows 1 to 3 of R189: the first stage of a DETACH (R187). -/
def teardownBlocks (p : Port) (s : State) : State := unholdComparators p (removeQueuedJobs p (removeSubscriptions p s))

/-- A ring at session end: every record discarded uncounted, pending-lost count 0, total-lost count kept (R124). -/
def ringSessionEnd (r : Ring) : Ring := { r with window := [], unsent := [], pendingLost := 0 }

/-- Rows 4 to 7 of R189: ring, queue and duplicate cache emptied, supervision timer stopped, the port DETACHED, and the
peer notice `kind` with the session id to the other ATTACHED ports (R124, R188, R190, R191). -/
def teardownPort (kind : EventKind) (p : Port) (s : State) : State :=
  let t := (s.modRing p ringSessionEnd).setQueue p .empty
  let u := t.modPort p (fun h => { h with cache := none, supervision := none, session := .detached, detaching := false })
  formEventForAll kind p.val (s.port p).sessionId.toNat u

/-! ### Session start (R123, R183) -/

/-- A ring at session start (R123). -/
def ringSessionStart (policy : RingPolicy) (watermark : Nat) : Ring :=
  { Ring.cleared with policy, watermark }

/-- A session starts on port `p` (R183). -/
def startSession (p : Port) (f : AttachFields) (s : State) : State :=
  let t := (s.setRing p (ringSessionStart f.policy f.watermark)).setQueue p .empty
  t.modPort p (fun h => { h with sessionId := h.sessionId + 1, interval := f.interval, session := .attached })

/-! ### The claims check of DETACH (R145, R159) -/

/-- HOST p stands in some claim set (R159). -/
def holdsHostClaim (p : Port) (s : State) : Bool := allLines.any (fun l => s.claims l (.host p))

/-- A monitor created by port `p` holds a claim (R145). -/
def holdsMonitorClaim (p : Port) (s : State) : Bool :=
  allMonitors.any (fun k => match s.monitor k with
    | some m => m.creator == p && m.claimHeld
    | none => false)

/-! ### Firing (R164) -/

/-- Comparator `k` fires: FIRED with run 0, TRIP_FIRED to every ATTACHED port, TRIP k added to the lines of the line
mask, the claimed lines become the line mask (R164). -/
def fireComparator (k : TripIdx) (s : State) : State :=
  let mask := (s.comparator k).config.mask
  let t := formEventForAll .tripFired k.val 0 (s.modComparator k (fun c => { c with state := .fired, run := 0 }))
  (addClaims mask (.trip k) t).modComparator k (fun c => { c with claimed := mask })

end Sys2Proof.Machine
end

