-- ==== Sys2Proof/Machine/DataRequests.lean ====
section
/-!
DEFINITION. What the front end, the result ring and the event queue answer: CALIBRATE, TRIM STATUS (chapter 4), READ
RESULTS, ACK RESULTS and READ EVENTS (chapter 6).
-/

namespace Sys2Proof.Machine

/-- A job becomes QUEUED at the tail of its requester's pending FIFO; an enqueue that finds the converter IDLE starts a
grant decision (R64, R77). -/
def queueJob (p : Port) (g : Gain) (s : State) : State :=
  decideIfIdle (enqueuePending p (.job g) (s.setJob g { s.job g with state := .queued, requester := some p }))

/-- CALIBRATE: BAD_FIELD, CAL_BUSY unless the job is NONE, otherwise the job is queued (R77). -/
def serveCalibrate (p : Port) (body : List Byte) (s : State) : State × Answer :=
  match gainOf (byteAt body 0) with
  | none => (s, refusal .badField)
  | some g => if (s.job g).state = .none then (queueJob p g s, okAnswer []) else (s, refusal .calBusy)

/-- TRIM STATUS (R83). -/
def serveTrimStatus (_p : Port) (_body : List Byte) (s : State) : State × Answer := (s, okAnswer (trimStatusBody s))

/-- What READ RESULTS does to the ring, with the flags RESENT and ACK_IGNORED (R111 to R113). -/
def ringRead (r : Ring) (f : ReadResultsFields) : Ring × Bool × Bool :=
  if r.window = [] then (ringForm r f.k, false, f.ack.isSome)
  else if f.ack = some r.token then (ringForm (ringRelease r) f.k, false, false)
  else (r, true, false)

/-- READ RESULTS (R110 to R113). -/
def serveReadResults (p : Port) (body : List Byte) (s : State) : State × Answer :=
  match readReadResults body with
  | none => (s, refusal .badField)
  | some f =>
    let (r, resent, ackIgnored) := ringRead (s.ring p) f
    (s.setRing p r, okAnswer (windowBody r resent ackIgnored))

/-- ACK RESULTS: releases the outstanding window its token names, or STALE_ACK (R114). -/
def serveAckResults (p : Port) (body : List Byte) (s : State) : State × Answer :=
  let r := s.ring p
  if r.window ≠ [] ∧ (BitVec.ofNat 8 (byteAt body 0)) = r.token then
    (s.setRing p (ringRelease r), okAnswer [byteOf r.unsent.length, byteOf r.pendingLost])
  else (s, { status := .staleAck, body := [r.token, byteOf r.window.length] })

/-- READ EVENTS: the oldest events up to the maximum are removed and returned, the lost-event count is read and
zeroed (R121). -/
def serveReadEvents (p : Port) (body : List Byte) (s : State) : State × Answer :=
  match readReadEvents body with
  | none => (s, refusal .badField)
  | some n =>
    let q := s.queue p
    let taken := q.events.take n
    let left := q.events.drop n
    (s.setQueue p { events := left, lost := 0 },
     okAnswer ([byteOf taken.length, byteOf q.lost, byteOf left.length] ++ taken.flatMap eventBytes))

end Sys2Proof.Machine
end

