-- ==== Sys2Proof/Machine/LineRequests.lean ====
section
/-!
DEFINITION. What the inhibit line block and the trip comparators answer: CLAIM LINE, RELEASE LINE, RELEASE START,
RELEASE ORPHAN, LINE STATUS, TAKE TRIP, SET TRIP, GIVE TRIP, CLEAR TRIP and TRIP STATUS (chapter 8).
-/

namespace Sys2Proof.Machine

/-! ### Lines -/

/-- The lines of a mask whose claim sets hold the claimant, before it is added or removed. -/
def heldIn (s : State) (mask : LineMask) (c : Claimant) : LineMask := mask &&& s.linesHolding c

/-- The lines of a mask whose claim sets do not hold the claimant. -/
def missingIn (s : State) (mask : LineMask) (c : Claimant) : LineMask := mask &&& ~~~ s.linesHolding c

/-- CLAIM LINE: HOST p is added to the lines of the mask; the answer gives the lines added and the lines held after
(R151). -/
def serveClaimLine (p : Port) (body : List Byte) (s : State) : State × Answer :=
  match lineMaskOf (byteAt body 0) with
  | none => (s, refusal .badField)
  | some mask =>
    let t := addClaims mask (.host p) s
    (t, okAnswer [maskByte (missingIn s mask (.host p)), maskByte (t.linesHolding (.host p))])

/-- A claimant is removed from the lines of a mask; the answer gives the lines it was actually removed from and the
lines asserted after (R152 to R154). -/
def releaseClaims (mask : LineMask) (c : Claimant) (s : State) : State × Answer :=
  let t := removeClaims mask c s
  (t, okAnswer [maskByte (heldIn s mask c), maskByte t.linesAsserted])

/-- RELEASE LINE acts on HOST p alone (R152). -/
def serveReleaseLine (p : Port) (body : List Byte) (s : State) : State × Answer :=
  match lineMaskOf (byteAt body 0) with
  | none => (s, refusal .badField)
  | some mask => releaseClaims mask (.host p) s

/-- RELEASE START (R153). -/
def serveReleaseStart (_p : Port) (body : List Byte) (s : State) : State × Answer :=
  match lineMaskOf (byteAt body 0) with
  | none => (s, refusal .badField)
  | some mask => releaseClaims mask .start s

/-- RELEASE ORPHAN: BAD_FIELD, NOT_ORPHAN when the named port is ATTACHED, otherwise its HOST claims are removed
(R154). -/
def serveReleaseOrphan (_p : Port) (body : List Byte) (s : State) : State × Answer :=
  match readOrphan body with
  | none => (s, refusal .badField)
  | some f => if s.attached f.port then (s, refusal .notOrphan) else releaseClaims f.mask (.host f.port) s

/-- LINE STATUS (R155). -/
def serveLineStatus (_p : Port) (_body : List Byte) (s : State) : State × Answer := (s, okAnswer (lineStatusBody s))

/-! ### Trip comparators -/

/-- TAKE TRIP: an unheld comparator takes the requester as holder; the answer gives the holder after (R165). -/
def serveTakeTrip (p : Port) (body : List Byte) (s : State) : State × Answer :=
  match comparatorIndexOf (byteAt body 0) with
  | none => (s, refusal .badField)
  | some k =>
    match (s.comparator k).holder with
    | none => (s.modComparator k (fun c => { c with holder := some p }), okAnswer [portByte (some p)])
    | some h =>
      if h = p then (s, okAnswer [portByte (some h)])
      else (s, { status := .heldByOther, body := [portByte (some h)] })

/-- What SET TRIP does to a comparator that is OFF or WATCHING: the five configuration fields, the state by the enable
flag, run 0 (R166). -/
def configured (config : TripConfig) (enable : Bool) (c : Comparator) : Comparator :=
  { c with config, state := if enable then .watching else .off, run := 0 }

/-- SET TRIP: BAD_FIELD, NOT_HOLDER, TRIP_LATCHED, then the configuration (R166). -/
def serveSetTrip (p : Port) (body : List Byte) (s : State) : State × Answer :=
  match readSetTrip body with
  | none => (s, refusal .badField)
  | some f =>
    if (s.comparator f.comparator).holder = some p then
      if (s.comparator f.comparator).state = .fired then (s, refusal .tripLatched)
      else
        let t := s.modComparator f.comparator (configured f.config f.enable)
        (t, okAnswer [tripStateCode (t.comparator f.comparator).state])
    else (s, refusal .notHolder)

/-- GIVE TRIP: the holder gives up its hold (R167). -/
def serveGiveTrip (p : Port) (body : List Byte) (s : State) : State × Answer :=
  match comparatorIndexOf (byteAt body 0) with
  | none => (s, refusal .badField)
  | some k =>
    if (s.comparator k).holder = some p then
      (s.modComparator k (fun c => { c with holder := none }), okAnswer [])
    else (s, refusal .notHolder)

/-- A FIRED comparator is cleared: WATCHING with run 0, TRIP_CLEARED to every ATTACHED port, TRIP k removed from the
claimed lines, no claimed lines (R168). -/
def clearComparator (k : TripIdx) (s : State) : State :=
  let claimed := (s.comparator k).claimed
  let t := formEventForAll .tripCleared k.val 0 (s.modComparator k (fun c => { c with state := .watching, run := 0 }))
  (removeClaims claimed (.trip k) t).modComparator k (fun c => { c with claimed := 0 })

/-- CLEAR TRIP: BAD_FIELD, NOT_FIRED, STILL_ACTIVE, then the comparator is cleared; the answer gives the lines from
which TRIP k was removed (R168). -/
def serveClearTrip (_p : Port) (body : List Byte) (s : State) : State × Answer :=
  match comparatorIndexOf (byteAt body 0) with
  | none => (s, refusal .badField)
  | some k =>
    if (s.comparator k).state = .fired then
      if (s.comparator k).beyond then (s, refusal .stillActive)
      else (clearComparator k s, okAnswer [maskByte (heldIn s (s.comparator k).claimed (.trip k))])
    else (s, refusal .notFired)

/-- TRIP STATUS (R170). -/
def serveTripStatus (_p : Port) (_body : List Byte) (s : State) : State × Answer := (s, okAnswer (tripStatusBody s))

end Sys2Proof.Machine
end

