-- ==== Sys2Proof/Machine/MonitorRequests.lean ====
section
/-!
DEFINITION. What the limit monitor table answers: CREATE MONITOR, DELETE MONITOR, CLEAR MONITOR CLAIM and MONITOR
STATUS (chapter 7).
-/

namespace Sys2Proof.Machine

/-- The lowest free monitor entry (R129). -/
def lowestFreeMonitor (s : State) : Option MonitorIdx := allMonitors.find? (fun k => (s.monitor k).isNone)

/-- A monitor as CREATE MONITOR makes it: IN, count 0, no claim (R129). -/
def newMonitor (p : Port) (f : MonitorFields) : Monitor where
  creator := p
  point := f.point
  low := f.low
  high := f.high
  hysteresis := f.hysteresis
  qualify := f.qualify
  action := f.action
  broadcast := f.broadcast
  state := .inside
  count := 0
  claimHeld := false

/-- CREATE MONITOR: BAD_FIELD, NO_SUCH_POINT, NOT_SUBSCRIBED, NO_MONITOR_ROOM, in this order (R128, R129). -/
def serveCreateMonitor (p : Port) (body : List Byte) (s : State) : State × Answer :=
  match readMonitor body with
  | none => (s, refusal .badField)
  | some f =>
    if live (s.point f.point) then
      if p ∈ (s.point f.point).subscribers then
        match lowestFreeMonitor s with
        | none => (s, refusal .noMonitorRoom)
        | some k => (s.setMonitor k (some (newMonitor p f)), okAnswer [byteOf k.val])
      else (s, refusal .notSubscribed)
    else (s, refusal .noSuchPoint)

/-- The checks that DELETE MONITOR and CLEAR MONITOR CLAIM share, in order: BAD_FIELD, NO_SUCH_MONITOR, NOT_CREATOR
(R138, R140). -/
def createdMonitor (p : Port) (body : List Byte) (s : State) : Except Status (MonitorIdx × Monitor) :=
  match monitorIndexOf (byteAt body 0) with
  | none => .error .badField
  | some k =>
    match s.monitor k with
    | none => .error .noSuchMonitor
    | some m => if m.creator = p then .ok (k, m) else .error .notCreator

/-- The two bytes that say whether a claim was converted or released, and on which line; FF hex for no line (R205). -/
def claimOutcome : Option LineIdx → List Byte
  | some l => [1, byteOf l.val]
  | none => [0, 0xFF]

/-- DELETE MONITOR (R140, R141). -/
def serveDeleteMonitor (p : Port) (body : List Byte) (s : State) : State × Answer :=
  match createdMonitor p body s with
  | .error e => (s, refusal e)
  | .ok (k, m) => (deleteMonitor k s, okAnswer (claimOutcome (heldLine m)))

/-- A monitor's held claim is removed from its line, and claim held becomes no (R138). -/
def clearClaim (k : MonitorIdx) (m : Monitor) (s : State) : State :=
  match heldLine m with
  | some l => removeClaim l (.monitor k) (s.setMonitor k (some { m with claimHeld := false }))
  | none => s

/-- CLEAR MONITOR CLAIM: the shared checks, then STILL_OUT, then the claim is released if one is held (R138). -/
def serveClearMonitorClaim (p : Port) (body : List Byte) (s : State) : State × Answer :=
  match createdMonitor p body s with
  | .error e => (s, refusal e)
  | .ok (k, m) =>
    if m.state = .out then (s, refusal .stillOut)
    else (clearClaim k m s, okAnswer (claimOutcome (heldLine m)))

/-- MONITOR STATUS (R144). -/
def serveMonitorStatus (_p : Port) (_body : List Byte) (s : State) : State × Answer := (s, okAnswer (monitorStatusBody s))

end Sys2Proof.Machine
end

