-- ==== Sys2Proof/Machine/PointRequests.lean ====
section
/-!
DEFINITION. What the point table and the trigger unit answer: DEFINE POINT, LEAVE POINT, PAUSE SUBSCRIPTION, RESUME
SUBSCRIPTION, SET CONDITIONING, POINT STATUS, LIST SUBSCRIPTIONS and SAMPLE NOW (chapters 1 and 2).
-/

namespace Sys2Proof.Machine

/-! ### DEFINE POINT (R8 to R14) -/

/-- A subscription as DEFINE POINT creates it: ACTIVE, counters 0, FIRST pending (R8). -/
def newSubscription (i : PointIdx) (c : Conditioning) : Subscription where
  point := i
  state := .active
  offset := c.offset
  multiplier := c.multiplier
  shift := c.shift
  decimation := c.decimation
  counter := 0
  missed := 0
  firstPending := true

/-- The periodic countdown a new entry starts with: 8 × P ticks (R38). -/
def initialCountdown : TriggerSpec → Option Nat
  | .periodic period => some (8 * period)
  | .line .. | .demand => none

/-- A new entry: ARMED, the requester its only subscriber, everything else 0 (R13). -/
def newPoint (p : Port) (key : Key) : PointEntry :=
  { PointEntry.cleared with
    state := .armed, key, subscribers := [p], countdown := initialCountdown key.trigger }

/-- The body of a DEFINE POINT answer: indicator, point index, sequence (R14, R205). -/
def defineBody (indicator : Byte) (i : PointIdx) (sequence : BitVec 16) : List Byte :=
  [indicator, byteOf i.val] ++ bytes16 sequence.toNat

/-- The port joins a matching entry in slot `k` (R11). -/
def joinPoint (p : Port) (k : SlotIdx) (i : PointIdx) (c : Conditioning) (s : State) : State :=
  (s.setSlot p k (some (newSubscription i c))).modPoint i (fun e => { e with subscribers := e.subscribers ++ [p] })

/-- A FREE entry is created for the port, with its subscription in slot `k` (R13). -/
def createPoint (p : Port) (k : SlotIdx) (i : PointIdx) (f : DefineFields) (s : State) : State :=
  (s.setPoint i (newPoint p f.key)).setSlot p k (some (newSubscription i f.conditioning))

/-- DEFINE POINT: BAD_FIELD, NO_SLOT, the search, the urgent room check, the search for a FREE entry, in this order
(R9 to R14). -/
def serveDefinePoint (p : Port) (body : List Byte) (s : State) : State × Answer :=
  match readDefine body with
  | none => (s, refusal .badField)
  | some f =>
    match lowestFreeSlot s p with
    | none => (s, refusal .noSlot)
    | some k =>
      match matchingPoint s f.key with
      | some i =>
        if p ∈ (s.point i).subscribers then
          (s, { status := .alreadySubscribed, body := defineBody 0 i (s.point i).sequence })
        else (joinPoint p k i f.conditioning s, okAnswer (defineBody 2 i (s.point i).sequence))
      | none =>
        if f.key.urgent ∧ Config.urgentRoom ≤ s.urgentInUse then (s, refusal .noUrgentRoom)
        else match lowestFreePoint s with
          | none => (s, refusal .noRoom)
          | some i => (createPoint p k i f s, okAnswer (defineBody 1 i 0))

/-! ### Requests on behalf of a subscriber (R16) -/

/-- The three checks of R16 on the point index in byte 0, in order. -/
def subscribedPoint (p : Port) (body : List Byte) (s : State) : Except Status PointIdx :=
  match pointIndexOf (byteAt body 0) with
  | none => .error .badField
  | some i =>
    if live (s.point i) then
      if p ∈ (s.point i).subscribers then .ok i else .error .notSubscribed
    else .error .noSuchPoint

/-- The removal of the port's subscription to point `i`, wherever its slot is (R17). -/
def leavePoint (p : Port) (i : PointIdx) (s : State) : State :=
  match slotOf s p i with
  | some k => removeSubscription p k s
  | none => s

/-- LEAVE POINT (R16 to R18). -/
def serveLeavePoint (p : Port) (body : List Byte) (s : State) : State × Answer :=
  match subscribedPoint p body s with
  | .error e => (s, refusal e)
  | .ok i =>
    let t := leavePoint p i s
    (t, okAnswer [pointStateCode (t.point i).state])

/-- PAUSE SUBSCRIPTION (R22). -/
def servePause (p : Port) (body : List Byte) (s : State) : State × Answer :=
  match subscribedPoint p body s with
  | .error e => (s, refusal e)
  | .ok i => (modSubscription p i (fun u => { u with state := .paused }) s, okAnswer [])

/-- What RESUME SUBSCRIPTION does to a subscription: a PAUSED one becomes ACTIVE with counters 0 and FIRST pending, an
ACTIVE one is unchanged (R23). -/
def resumed (u : Subscription) : Subscription :=
  match u.state with
  | .active => u
  | .paused => { u with state := .active, missed := 0, counter := 0, firstPending := true }

/-- RESUME SUBSCRIPTION (R23). -/
def serveResume (p : Port) (body : List Byte) (s : State) : State × Answer :=
  match subscribedPoint p body s with
  | .error e => (s, refusal e)
  | .ok i => (modSubscription p i resumed s, okAnswer [])

/-- SET CONDITIONING: its field checks come before the checks of R16 (R24). -/
def serveSetConditioning (p : Port) (body : List Byte) (s : State) : State × Answer :=
  match readConditioning body 1 with
  | none => (s, refusal .badField)
  | some c =>
    match subscribedPoint p body s with
    | .error e => (s, refusal e)
    | .ok i =>
      (modSubscription p i (fun u =>
        { u with offset := c.offset, multiplier := c.multiplier, shift := c.shift, decimation := c.decimation,
                 counter := 0 }) s, okAnswer [])

/-! ### Status requests (R26, R27) -/

/-- POINT STATUS (R26). -/
def servePointStatus (_p : Port) (body : List Byte) (s : State) : State × Answer :=
  match pointIndexOf (byteAt body 0) with
  | none => (s, refusal .badField)
  | some i => (s, okAnswer (pointStatusBody (s.point i)))

/-- LIST SUBSCRIPTIONS (R27). -/
def serveListSubscriptions (p : Port) (_body : List Byte) (s : State) : State × Answer := (s, okAnswer (listBody s p))

/-! ### SAMPLE NOW (R39) -/

/-- The body of a SAMPLE NOW answer: the point's state and missed count after the request (R39, R205). -/
def sampleBody (e : PointEntry) : List Byte := [pointStateCode e.state, byteOf e.missed]

/-- SAMPLE NOW: the checks of R39, then one trigger, taken by an ARMED point and lost by a busy one. -/
def serveSampleNow (p : Port) (body : List Byte) (s : State) : State × Answer :=
  match subscribedPoint p body s with
  | .error e => (s, refusal e)
  | .ok i =>
    if (s.point i).key.trigger = .demand then
      let t := triggerPoint i s
      let status : Status := if (s.point i).state = .armed then .ok else .triggerLost
      (t, { status, body := sampleBody (t.point i) })
    else (s, refusal .notDemand)

end Sys2Proof.Machine
end

