-- ==== Sys2Proof/Machine/PortRequests.lean ====
section
/-!
DEFINITION. What the host port and the session answer: ATTACH, DETACH, PING and PART STATUS (chapter 9).  A `serve`
definition is the owner's taking of a request that has passed the common checks of R181: the new state and the answer.
-/

namespace Sys2Proof.Machine

/-- ATTACH: BAD_FIELD, then ALREADY_ATTACHED, then a session starts; the body carries the new session id and the
inherited claims (R183). -/
def serveAttach (p : Port) (body : List Byte) (s : State) : State × Answer :=
  match readAttach body with
  | none => (s, refusal .badField)
  | some f =>
    if s.attached p then (s, refusal .alreadyAttached)
    else
      let t := startSession p f s
      (t, okAnswer [(t.port p).sessionId, maskByte (t.linesHolding (.host p))])

/-- DETACH: CLAIMS_HELD when the port or one of its monitors holds a claim; otherwise the first stage of the session end
is taken, and the second waits for the end of the response (R187). -/
def serveDetach (p : Port) (_body : List Byte) (s : State) : State × Answer :=
  if holdsHostClaim p s || holdsMonitorClaim p s then (s, refusal .claimsHeld)
  else ((teardownBlocks p s).modPort p (fun h => { h with detaching := true }), okAnswer [])

/-- PING: timebase, session state and session id (R184). -/
def servePing (p : Port) (_body : List Byte) (s : State) : State × Answer :=
  (s, okAnswer (bytes32 s.timebase.toNat ++ [sessionCode (s.port p).session, (s.port p).sessionId]))

/-- PART STATUS (R193). -/
def servePartStatus (_p : Port) (_body : List Byte) (s : State) : State × Answer := (s, okAnswer (partStatusBody s))

end Sys2Proof.Machine
end

