-- ==== Sys2Proof/Machine/Link.lean ====
section
/-!
DEFINITION. The link of a host port (chapter 9): a good frame and its answer, the BUSY reply, the duplicate cache, the
frame receiver, and the end of a response.
-/

namespace Sys2Proof.Machine

/-! ### Executing a request (R177 to R181) -/

/-- The owner takes a request that has passed the common checks (step 3 of R177). -/
def serve : Request → Port → List Byte → State → State × Answer
  | .attach => serveAttach
  | .detach => serveDetach
  | .ping => servePing
  | .partStatus => servePartStatus
  | .definePoint => serveDefinePoint
  | .leavePoint => serveLeavePoint
  | .pauseSubscription => servePause
  | .resumeSubscription => serveResume
  | .setConditioning => serveSetConditioning
  | .pointStatus => servePointStatus
  | .listSubscriptions => serveListSubscriptions
  | .sampleNow => serveSampleNow
  | .calibrate => serveCalibrate
  | .trimStatus => serveTrimStatus
  | .readResults => serveReadResults
  | .ackResults => serveAckResults
  | .readEvents => serveReadEvents
  | .createMonitor => serveCreateMonitor
  | .deleteMonitor => serveDeleteMonitor
  | .clearMonitorClaim => serveClearMonitorClaim
  | .monitorStatus => serveMonitorStatus
  | .claimLine => serveClaimLine
  | .releaseLine => serveReleaseLine
  | .releaseStart => serveReleaseStart
  | .releaseOrphan => serveReleaseOrphan
  | .lineStatus => serveLineStatus
  | .takeTrip => serveTakeTrip
  | .setTrip => serveSetTrip
  | .giveTrip => serveGiveTrip
  | .clearTrip => serveClearTrip
  | .tripStatus => serveTripStatus

/-- A DETACHED port does not execute this CODE (check 1 of R181; it holds for a CODE that names no request too). -/
def sessionRefuses (p : Port) (request : Option Request) (s : State) : Bool :=
  !s.attached p && !(request.map servedDetached).getD false

/-- The common checks in their order, then the owner: session, known code, length, owner (R181). -/
def answerRequest (p : Port) (code : Byte) (body : List Byte) (s : State) : State × Answer :=
  let request := requestOf code
  if sessionRefuses p request s then (s, refusal .notAttached)
  else match request with
    | none => (s, refusal .unknownRequest)
    | some r => if body.length = requestLength r then serve r p body s else (s, refusal .badLength)

/-- The cached response that a frame matches by TAG and CRC, if any (R180). -/
def cacheHit (h : HostPort) (tag : Byte) (crc : BitVec 16) : Option (List Byte) :=
  match h.cache with
  | some c => if c.tag = tag ∧ c.crc = crc then some c.response else none
  | none => none

/-- The transmitter begins to send a response (R177). -/
def transmission (bytes : List Byte) : Transmission := { bytes, elapsed := 0 }

/-- A good frame is taken in READY: the port becomes EXECUTING with its supervision timer stopped; then the cached
response is sent again, or the request is executed and its response sent and cached (R177, R180, R185). -/
def executeFrame (p : Port) (tag code : Byte) (body : List Byte) (s : State) : State :=
  let crc := crc16 (requestCovered tag code body)
  let s₁ := s.modPort p (fun h => { h with request := .executing, supervision := none })
  match cacheHit (s.port p) tag crc with
  | some response => s₁.modPort p (fun h => { h with sending := some (transmission response) })
  | none =>
    let (s₂, a) := answerRequest p code body s₁
    let response := responseFrame tag code a
    s₂.modPort p (fun h => { h with cache := some { tag, crc, response }, sending := some (transmission response) })

/-- A good frame completes while the port is EXECUTING: its BUSY reply waits, or the frame is discarded and counted
when one waits already (R179). -/
def busyFrameTaken (p : Port) (tag code : Byte) (s : State) : State :=
  match (s.port p).busy with
  | none => s.modPort p (fun h => { h with busy := some (tag, code) })
  | some _ => countFramingError p s

/-- The frame receiver returns to HUNTING and its inter-byte timer stops (R174, R175). -/
def receiverHunts (p : Port) (s : State) : State :=
  s.modPort p (fun h => { h with receiver := .hunting false, interByte := none })

/-- A good frame completes on port `p` (R174, R177, R179). -/
def goodFrame (p : Port) (tag code : Byte) (body : List Byte) (s : State) : State :=
  let t := receiverHunts p s
  match (t.port p).request with
  | .ready => executeFrame p tag code body t
  | .executing => busyFrameTaken p tag code t

/-! ### The frame receiver (R174 to R176) -/

/-- A partial frame is discarded and one framing error is counted (R174). -/
def discardFrame (p : Port) (s : State) : State := countFramingError p (receiverHunts p s)

/-- A bad start byte in HUNTING: the first of a run is counted (R174). -/
def badStartByte (p : Port) (run : Bool) (s : State) : State :=
  let t := s.modPort p (fun h => { h with receiver := .hunting true })
  if run then t else countFramingError p t

/-- The receiver moves on within a frame, and the inter-byte timer is loaded (R174, R175). -/
def receiverMoves (p : Port) (r : Receiver) (s : State) : State :=
  s.modPort p (fun h => { h with receiver := r, interByte := some Config.interByteTime })

/-- The second CRC byte is in: the frame is good, or it is discarded (R174).  LEN is at least 2, so TAG and CODE are
present. -/
def frameComplete (p : Port) (len : Byte) (taken : List Byte) (high low : Byte) (s : State) : State :=
  match taken with
  | tag :: code :: body =>
    if crcBytes (len :: taken) = [high, low] then goodFrame p tag code body s else discardFrame p s
  | _ => discardFrame p s

/-- The receiver takes a byte with a good stop bit (R174). -/
def takeByte (p : Port) (b : Byte) (s : State) : State :=
  match (s.port p).receiver with
  | .hunting run => if b = 0xA5 then receiverMoves p .length s else badStartByte p run s
  | .length =>
    if 2 ≤ b.toNat ∧ b.toNat ≤ Config.lenTop then receiverMoves p (.collecting b []) s else discardFrame p s
  | .collecting len taken =>
    if taken.length + 1 = len.toNat then receiverMoves p (.checking len (taken ++ [b]) none) s
    else receiverMoves p (.collecting len (taken ++ [b])) s
  | .checking len taken none => receiverMoves p (.checking len taken (some b)) s
  | .checking len taken (some high) => frameComplete p len taken high b s

/-- The receiver takes a byte error: a bad start byte in HUNTING, the end of a partial frame elsewhere (R174). -/
def takeByteError (p : Port) (s : State) : State :=
  match (s.port p).receiver with
  | .hunting run => badStartByte p run s
  | .length | .collecting .. | .checking .. => discardFrame p s

/-- The bytes of the partial frame that the receiver holds, from the start byte on. -/
def receiverHolds : Receiver → List Byte
  | .hunting _ => []
  | .length => [0xA5]
  | .collecting len taken => 0xA5 :: len :: taken
  | .checking len taken high => 0xA5 :: len :: (taken ++ high.toList)

/-- The bytes the receiver holds are the beginning of this good frame, so that the frame can complete on the port
(notes/assumptions/9.md). -/
def frameCanComplete (p : Port) (tag code : Byte) (body : List Byte) (s : State) : Bool :=
  bodyFits body && (receiverHolds (s.port p).receiver).isPrefixOf (requestFrame tag code body)

/-! ### The end of a response (R177, R179, R185, R188) -/

/-- The waiting BUSY reply is sent, or the port becomes READY and its supervision timer is loaded (R177, R179,
R185). -/
def afterResponse (p : Port) (s : State) : State :=
  match (s.port p).busy with
  | some (tag, code) => s.modPort p (fun h => { h with busy := none, sending := some (transmission (busyFrame tag code)) })
  | none => s.modPort p (fun h =>
      { h with
        request := .ready
        sending := none
        supervision := if h.session = .attached ∧ h.interval ≠ 0 then some (h.interval * 10000) else none })

/-- The last byte of a response has been sent: the second stage of a DETACH first, when this was its response (R188),
then R177. -/
def responseEnds (p : Port) (s : State) : State :=
  afterResponse p (if (s.port p).detaching then teardownPort .peerLeft p s else s)

/-- The session of port `p` is lost by supervision expiry, in one act (R186, R189). -/
def sessionLost (p : Port) (s : State) : State := teardownPort .peerLost p (teardownBlocks p s)

/-- The supervision timer of port `p`, which runs while the port is ATTACHED and READY, has expired (R185, R186). -/
def supervisionExpired (p : Port) (s : State) : Bool :=
  s.attached p && (s.port p).request == .ready && expired (s.port p).supervision

/-- The inter-byte timer of port `p`, which runs outside HUNTING, expires: the partial frame is discarded (R175). -/
def interByteExpires (p : Port) (s : State) : State :=
  match (s.port p).receiver with
  | .hunting _ => s
  | .length | .collecting .. | .checking .. => if expired (s.port p).interByte then discardFrame p s else s

end Sys2Proof.Machine
end

