-- ==== Sys2Proof/Machine/Pins.lean ====
section
/-!
DEFINITION. What the part samples at its pins: the edge detectors of TRG0 to TRG5 (R33), the trip comparators (R162,
R163), the level that a conversion samples (R69, R70), and the link lines RXDn and TXDn (R173).  The pins are fields of
State that the outside drives (notes/assumptions/8.md); the CLK period of Sys2Proof/Machine/Clock.lean samples them.
-/

namespace Sys2Proof.Machine

/-! ### Trigger inputs (R33) -/

/-- The level a trigger input has after an edge (R33). -/
def levelAfter : Edge → Bool
  | .rising => true
  | .falling => false

/-- The edge that a change to this level is (R33). -/
def edgeTo (level : Bool) : Edge := if level then .rising else .falling

/-- TRGn stands at this level, and its edge detector has accepted it (R33). -/
def acceptLevel (n : TrgIdx) (level : Bool) (s : State) : State :=
  { s with
    pins := { s.pins with trg := s.pins.trg.set n level }
    trgLevels := s.trgLevels.set n level
    trgSamples := s.trgSamples.set n level }

/-- The edge that the detector of TRGn accepts at this CLK period: a level other than the accepted one, sampled on two
consecutive CLK periods (R33). -/
def edgeSampled (s : State) (n : TrgIdx) : Option Edge :=
  if s.pins.trg[n] = s.trgSamples[n] ∧ s.pins.trg[n] ≠ s.trgLevels[n] then some (edgeTo s.pins.trg[n]) else none

/-! ### Trip comparators (R162, R163) -/

/-- Pin AINi is driven to this level. -/
def State.driveAin (s : State) (i : Fin 16) (level : Level) : State :=
  { s with pins := { s.pins with ain := s.pins.ain.set i level } }

/-- The output that comparator Tk samples at its input pin under its configuration, with `near` for an input within its
resolution (R162). -/
def outputOf (k : TripIdx) (near : Bool) (s : State) : Bool :=
  let c := (s.comparator k).config
  sampleOutput k c s.pins.ain[c.input] near

/-- A further beyond sample brings the run of comparator Tk to its filter's count (R163). -/
def runCompletes (k : TripIdx) (s : State) : Bool :=
  let c := s.comparator k
  c.state == .watching && c.run + 1 == filterSamples c.config.filter

/-- A comparator after a sample that does not fire it: the present output follows the sample in every state, and in
WATCHING a beyond sample raises the run and a safe one sets it to 0 (R162, R163). -/
def sampled (output : Bool) (c : Comparator) : Comparator :=
  match c.state with
  | .off | .fired => { c with beyond := output }
  | .watching => { c with beyond := output, run := if output then c.run + 1 else 0 }

/-- One sample of comparator Tk: it fires at the sample that brings the run to the filter's count (R163, R164). -/
def takeSample (k : TripIdx) (output : Bool) (s : State) : State :=
  if runCompletes k s && output then fireComparator k (s.modComparator k (fun c => { c with beyond := true }))
  else s.modComparator k (sampled output)

/-! ### The front end (R69, R70) -/

/-- What the selected input of a conversion presents at the pins: the level of the AIN pin, or, for ZERO, the offset of
the gain stage and the converter at this draw (R69, notes/assumptions/13.md). -/
def presented (s : State) (c : Conversion) : Level :=
  if h : c.channel.val < 16 then s.pins.ain[c.channel.val] else Config.zeroOffset s.draws (gainIndex c.gain)

/-! ### The link lines (R173) -/

/-- Bits a second on the lines of every port, by the BAUD strap (R173; 00_scope.md, "Straps"). -/
def baudRate : StrapCode → Nat
  | 0 => 115200
  | 1 => 460800
  | 2 => 921600
  | 3 => 2000000

/-- The time of `n` half bits has passed after this many CLK periods. -/
def halfBitsPast (baud : StrapCode) (elapsed n : Nat) : Bool := n * Config.clkRate ≤ 2 * elapsed * baudRate baud

/-- The 8 data bits of a byte as they follow on a line, least significant first (R173). -/
def dataBits (b : Byte) : List Bool := (List.range 8).map b.getLsbD

/-- A byte on a line, true for high: start bit low, the data bits, no parity, stop bit high (R173). -/
def lineBits (b : Byte) : List Bool := false :: (dataBits b ++ [true])

/-- The byte of 8 data bits, least significant first (R173). -/
def byteOfBits (bits : List Bool) : Byte := BitVec.ofNat 8 (bits.foldr (fun b n => b.toNat + 2 * n) 0)

/-- The middle of the next bit of the arriving byte is reached at this CLK period, where its level is sampled
(notes/assumptions/14.md). -/
def bitSampled (baud : StrapCode) (x : LineByte) : Bool := halfBitsPast baud (x.elapsed + 1) (2 * x.bits.length + 1)

/-- The stop bit of the arriving byte is sampled at this CLK period (R173). -/
def stopSampled (baud : StrapCode) (x : LineByte) : Bool := x.bits.length + 1 == Config.byteBits && bitSampled baud x

/-- A line that waits for a start bit meets one at a low level (R173). -/
def awaitStart (level : Bool) : Option LineByte := if level then none else some { elapsed := 0, bits := [] }

/-- The arriving byte after one more CLK period.  A byte ends when its stop bit is sampled high; after a stop bit that is
low, a byte error, the rest of the byte time passes first, so that a line held low gives an error at each byte time
(R173). -/
def arrivingClk (baud : StrapCode) (level : Bool) (x : LineByte) : Option LineByte :=
  if x.bits.length < Config.byteBits then
    if stopSampled baud x && level then none
    else some { elapsed := x.elapsed + 1, bits := if bitSampled baud x then x.bits ++ [level] else x.bits }
  else if halfBitsPast baud (x.elapsed + 1) (2 * Config.byteBits) then awaitStart level
  else some { x with elapsed := x.elapsed + 1 }

/-- The receiver of a line after one more CLK period with this level on it (R173). -/
def lineClk (baud : StrapCode) (level : Bool) : Option LineByte → Option LineByte
  | none => awaitStart level
  | some x => arrivingClk baud level x

/-- What the line of port `p` delivers at this CLK period: a byte when its stop bit is sampled high, a byte error when it
is sampled low (R173). -/
def lineDelivers (p : Port) (s : State) : List Instr :=
  match (s.port p).rxByte with
  | none => []
  | some x =>
    if stopSampled s.baud x then
      if s.pins.rxd[p] then [.byteTaken p (byteOfBits (x.bits.drop 1))] else [.framingError p .byteError]
    else []

/-- The last bit of a response has been sent: its bytes have followed one another with no idle time (R173, R177). -/
def allSent (baud : StrapCode) (x : Transmission) : Bool :=
  halfBitsPast baud x.elapsed (2 * (Config.byteBits * x.bytes.length))

/-- A transmission after one more CLK period. -/
def sendingClk (baud : StrapCode) (x : Transmission) : Transmission :=
  if allSent baud x then x else { x with elapsed := x.elapsed + 1 }

/-- The last byte of the response of port `p` has been sent at this CLK period (R177). -/
def responseEndsNow (p : Port) (s : State) : List Instr :=
  match (s.port p).sending with
  | none => []
  | some x => if !allSent s.baud x && allSent s.baud (sendingClk s.baud x) then [.responseSent p] else []

/-- The level of TXDn, true for high: the bit under way of the response being sent, or idle high (R173). -/
def State.txdHigh (s : State) (p : Port) : Bool :=
  match (s.port p).sending with
  | none => true
  | some x => (x.bytes.flatMap lineBits).getD (x.elapsed * baudRate s.baud / Config.clkRate) true

end Sys2Proof.Machine
end

