-- ==== Sys2Proof/Machine/Clock.lean ====
section
/-!
DEFINITION. Time: what one CLK period does when no command waits.  The timebase and the timers that count its ticks
(R31, R32, R175, R185), the samples at the pins (R33, R162, R173), the conversion in progress (R70, R72), the bytes on
the lines (R173), and the events that come about, which become commands.  spec/opcode_table.json has no row for a CLK
period (notes/assumptions/5.md).
-/

namespace Sys2Proof.Machine

/-! ### Timers -/

/-- A running timer loses one tick; at 0 its expiry waits to be taken (R32). -/
def timerTick : Option Nat → Option Nat
  | some (n + 1) => some n
  | t => t

/-- The tick that brings a timer to 0 (R32). -/
def timerExpires (t : Option Nat) : Bool := t == some 1

/-- This CLK period is a tick of the timebase: the 48th since the last (R31). -/
def ticks (s : State) : Bool := !(s.clkPhase + 1 < 48 : Bool)

/-- The timers of a point entry at a tick (R32, R38). -/
def pointTick (e : PointEntry) : PointEntry :=
  { e with countdown := timerTick e.countdown, delayTimer := timerTick e.delayTimer }

/-- The timers of a host port at a tick (R175, R185). -/
def portTick (h : HostPort) : HostPort :=
  { h with interByte := timerTick h.interByte, supervision := timerTick h.supervision }

/-- Every point timer loses one tick. -/
def tickPoints (s : State) : State := allPoints.foldl (fun s i => s.modPoint i pointTick) s

/-- Every port timer loses one tick. -/
def tickPorts (s : State) : State := allPorts.foldl (fun s p => s.modPort p portTick) s

/-- One tick of the timebase: it counts, wrapping, and every running timer loses one tick (R31, R32). -/
def timebaseTick (s : State) : State :=
  let t := tickPorts (tickPoints s)
  { t with clkPhase := 0, timebase := s.timebase + 1 }

/-- One CLK period at the timebase (R31). -/
def clkTimebase (s : State) : State := if ticks s then timebaseTick s else { s with clkPhase := s.clkPhase + 1 }

/-! ### Samples at the pins -/

/-- One CLK period of the conversion in progress: at the sample instant the timebase is read and the sample stage takes
the amplified level (R70, R72).  The count stops at the end of the conversion, where it completes. -/
def conversionClk (cdiv : StrapCode) (now : TimeReading) (input : Level) (c : Conversion) : Conversion :=
  if c.elapsed < conversionTime c * cclkPeriods cdiv then
    if c.elapsed + 1 = settleTime c * cclkPeriods cdiv then
      { c with elapsed := c.elapsed + 1, reading := some now, held := some (amplifiedLevel c.channel c.gain input) }
    else { c with elapsed := c.elapsed + 1 }
  else c

/-- The output of comparator Tk at this CLK period; within the resolution it is a free value, of the draw at which
State.draws stands after the period (R162). -/
def outputNow (k : TripIdx) (s : State) : Bool := outputOf k (Config.nearOutput (s.draws + 1) k) s

/-- This CLK period's sample fires comparator Tk (R163). -/
def firesNow (k : TripIdx) (s : State) : Bool := runCompletes k s && outputNow k s

/-- The comparators sample their outputs; a sample that is to fire one is taken at its TRIP_FIRING (R162, R163). -/
def sampleComparators (s : State) : State :=
  allComparators.foldl (fun t k =>
    t.modComparator k (fun c => if firesNow k s then c else sampled (outputNow k s) c)) s

/-- The lines of a port after one more CLK period (R173). -/
def linesClk (baud : StrapCode) (level : Bool) (h : HostPort) : HostPort :=
  { h with rxByte := lineClk baud level h.rxByte, sending := h.sending.map (sendingClk baud) }

/-- The link lines of every port (R173). -/
def clkLinks (s : State) : State :=
  allPorts.foldl (fun t p => t.modPort p (linesClk s.baud s.pins.rxd[p])) s

/-! ### What comes about in a CLK period -/

/-- The expiries of the trigger unit, in ascending point index (R32). -/
def pointExpiries (s : State) : List Instr :=
  allPoints.flatMap (fun i =>
    (if timerExpires (s.point i).countdown then [Instr.periodicExpiry i] else [])
      ++ (if timerExpires (s.point i).delayTimer then [Instr.delayExpiry i] else []))

/-- The expiry of an inter-byte timer and what the line delivers in the same CLK period: either is taken first, and a
byte that is taken first reloads or stops the timer, so that the expiry does not occur (R175). -/
def receiverEvents (p : Port) (s : State) : List Instr :=
  if ticks s && timerExpires (s.port p).interByte then
    if !(lineDelivers p s).isEmpty && Config.byteFirst s.draws p then lineDelivers p s
    else .interByteTimeout p :: lineDelivers p s
  else lineDelivers p s

/-- The expiry of a supervision timer. -/
def supervisionEvents (p : Port) (s : State) : List Instr :=
  if ticks s && timerExpires (s.port p).supervision then [.supervisionExpiry p] else []

/-- An accepted edge on TRGn. -/
def edgeEvents (n : TrgIdx) (s : State) : List Instr := ((edgeSampled s n).map (Instr.trgEdge n)).toList

/-- A firing of comparator Tk. -/
def firingEvents (k : TripIdx) (s : State) : List Instr := if firesNow k s then [.tripFiring k] else []

/-- The completion of the conversion in progress: its last CLK period (R70). -/
def completionEvents (s : State) : List Instr :=
  match s.conversion with
  | none => []
  | some c =>
    if c.elapsed + 1 = conversionTime c * cclkPeriods s.cdiv then [.conversionCompletion (presented s c)] else []

/-- The events of this CLK period whose order the manual leaves open, in groups of those whose order is fixed. -/
def clkGroups (s : State) : List (List Instr) :=
  allPorts.map (receiverEvents · s) ++ allPorts.map (supervisionEvents · s) ++ allPorts.map (responseEndsNow · s) ++
    allTriggers.map (edgeEvents · s) ++ allComparators.map (firingEvents · s) ++ [completionEvents s]

/-- A group of commands joins a line of commands at place `k`, or at its end when the line is shorter. -/
def insertAt (group : List Instr) : List Instr → Nat → List Instr
  | [], _ => group
  | x :: xs, 0 => group ++ x :: xs
  | x :: xs, k + 1 => x :: insertAt group xs k

/-- The `j`-th and later groups join the line, each at a place the manual leaves open (R32, R175, R206); an empty group
needs no place. -/
def joinGroups (draw : Nat) : Nat → List (List Instr) → List Instr → List Instr
  | _, [], line => line
  | j, [] :: gs, line => joinGroups draw (j + 1) gs line
  | j, g :: gs, line => joinGroups draw (j + 1) gs (insertAt g line (Config.eventPlace draw j))

/-- The events of this CLK period, in the order in which they are taken. -/
def clkEvents (s : State) : List Instr :=
  joinGroups s.draws 0 (clkGroups s) (if ticks s then pointExpiries s else [])

/-! ### One CLK period -/

/-- The timers, the detectors, the comparators, the lines and the conversion after one CLK period. -/
def clkAdvance (s : State) : State :=
  let t := clkLinks (sampleComparators (clkTimebase s))
  { t with
    trgSamples := s.pins.trg
    conversion := s.conversion.map (fun c => conversionClk s.cdiv t.timebase (presented s c) c) }

/-- One CLK period of the part: what is clocked advances, and the events that come about become commands; nothing runs
while RST_N is low (R31, R85, R172). -/
def clkPeriod (s : State) : State :=
  if s.resetLow then s
  else { clkAdvance s with draws := s.draws + 1, pending := s.pending ++ clkEvents s }

/-- What the part does while no command waits: a grant decision that is due is taken (R88); otherwise one CLK period
passes (notes/assumptions/5.md, 15.md). -/
def withNoCommand (s : State) : State := if s.decisionDue && !s.resetLow then takeDecision s else clkPeriod s

end Sys2Proof.Machine
end

