-- ==== Sys2Proof/Machine/Triggers.lean ====
section
/-!
DEFINITION. What a trigger edge, a periodic expiry and a delay expiry do at the points (chapter 2), and which point a command
enqueues as a trigger before anything else.
-/

namespace Sys2Proof.Machine

/-! ### Edges (R33, R34) -/

/-- An edge selection matches an edge (R34). -/
def edgeMatches : EdgeSelect → Edge → Bool
  | .rise, .rising | .fall, .falling | .both, _ => true
  | .rise, .falling | .fall, .rising => false

/-- The divider of the point when the edge on TRGn reaches it: a LINE point on that input whose selection matches, in
one of the five live states (R34). -/
def edgeReaches (n : TrgIdx) (edge : Edge) (e : PointEntry) : Option Nat :=
  match e.key.trigger with
  | .line input select divider => if live e ∧ input = n ∧ edgeMatches select edge then some divider else none
  | .periodic _ | .demand => none

/-- An edge advances the divider counter of a point it reaches, and produces a trigger where the counter reaches the
divider (R34). -/
def edgeAtPoint (n : TrgIdx) (edge : Edge) (i : PointIdx) (s : State) : State :=
  match edgeReaches n edge (s.point i) with
  | none => s
  | some divider =>
    if (s.point i).divider + 1 = divider then triggerPoint i (s.modPoint i (fun e => { e with divider := 0 }))
    else s.modPoint i (fun e => { e with divider := e.divider + 1 })

/-- An edge is accepted on TRGn, and reaches the points in ascending index (R33, R34). -/
def edgeAccepted (n : TrgIdx) (edge : Edge) (s : State) : State :=
  allPoints.foldl (fun s i => edgeAtPoint n edge i s) (acceptLevel n (levelAfter edge) s)

/-- An edge on TRGn is a change of the accepted level, so one to the level accepted already does not occur (R33). -/
def edgeTaken (n : TrgIdx) (edge : Edge) (s : State) : State :=
  if s.trgLevels[n] = levelAfter edge then s else edgeAccepted n edge s

/-! ### Expiries (R36, R38) -/

/-- The periodic countdown of point `i` that has reached 0 is reloaded with 8 × P, and a trigger is produced.  A
countdown that was cleared or loaded anew since does not expire: a point created anew in the entry starts its own (R13,
R38). -/
def periodicExpires (i : PointIdx) (s : State) : State :=
  match (s.point i).key.trigger with
  | .periodic period =>
    if live (s.point i) && expired (s.point i).countdown then
      triggerPoint i (s.modPoint i (fun e => { e with countdown := some (8 * period) }))
    else s
  | .line .. | .demand => s

/-- The delay timer of a DELAYING point that has reached 0 expires, and the point becomes DUE.  A timer that was cancelled
or loaded anew since does not expire (R36). -/
def delayExpires (i : PointIdx) (s : State) : State :=
  if (s.point i).state = .delaying ∧ expired (s.point i).delayTimer then becomeDue i s else s

/-! ### The point that a trigger enqueues first (R34, R38, R39) -/

/-- The edge produces a trigger for the entry, which enqueues it at once (R34, R35). -/
def edgeEnqueues (n : TrgIdx) (edge : Edge) (e : PointEntry) : Bool :=
  enqueuesAtOnce e && edgeReaches n edge e == some (e.divider + 1)

/-- The periodic expiry of the entry occurs and enqueues it at once (R35, R38). -/
def expiryEnqueues (e : PointEntry) : Bool :=
  match e.key.trigger with
  | .periodic _ => expired e.countdown && enqueuesAtOnce e
  | .line .. | .demand => false

/-- The port executes this frame: it is READY, and the frame repeats no cached request (R177, R180). -/
def executesFrame (p : Port) (tag code : Byte) (body : List Byte) (s : State) : Bool :=
  (s.port p).request == .ready && (cacheHit (s.port p) tag (crc16 (requestCovered tag code body))).isNone

/-- The point that a SAMPLE NOW frame on port `p` enqueues at once: one that passes every check (R39, R181). -/
def sampleEnqueues (p : Port) (tag : Byte) (body : List Byte) (s : State) : Option PointIdx :=
  if executesFrame p tag (requestCode .sampleNow) body s && s.attached p &&
      body.length == requestLength .sampleNow then
    match subscribedPoint p body s with
    | .ok i => if (s.point i).key.trigger = .demand ∧ enqueuesAtOnce (s.point i) then some i else none
    | .error _ => none
  else none

/-- The point that a byte on port `p` enqueues at once: it completes the good frame of such a SAMPLE NOW (R174). -/
def byteEnqueues (p : Port) (b : Byte) (s : State) : Option PointIdx :=
  match (s.port p).receiver with
  | .checking len (tag :: code :: body) (some high) =>
    if code = requestCode .sampleNow ∧ crcBytes (len :: tag :: code :: body) = [high, b] then
      sampleEnqueues p tag body s
    else none
  | _ => none

/-- The point that the command, as a trigger, enqueues at once and before any other: of the points an edge reaches, the first
in ascending index (R34). -/
def enqueuedFirst (s : State) : Instr → Option PointIdx
  | .trgEdge n edge =>
    if s.trgLevels[n] = levelAfter edge then none else allPoints.find? (fun i => edgeEnqueues n edge (s.point i))
  | .periodicExpiry i => if expiryEnqueues (s.point i) then some i else none
  | .sampleNow p tag body =>
    if frameCanComplete p tag (requestCode .sampleNow) body s then sampleEnqueues p tag body s else none
  | .byteTaken p b => byteEnqueues p b s
  | .fullReset | .resetRelease .. | .delayExpiry _ | .conversionCompletion _ | .tripFiring _ | .framingError ..
  | .interByteTimeout _ | .busyReply .. | .responseSent _ | .supervisionExpiry _ | .unknownRequest ..
  | .comparatorSample .. | .attach .. | .detach .. | .ping .. | .partStatus .. | .definePoint .. | .leavePoint ..
  | .pauseSubscription .. | .resumeSubscription .. | .setConditioning .. | .pointStatus .. | .listSubscriptions ..
  | .calibrate .. | .trimStatus .. | .readResults .. | .ackResults .. | .readEvents .. | .createMonitor ..
  | .deleteMonitor .. | .clearMonitorClaim .. | .monitorStatus .. | .claimLine .. | .releaseLine .. | .releaseStart ..
  | .releaseOrphan .. | .lineStatus .. | .takeTrip .. | .setTrip .. | .giveTrip .. | .clearTrip .. | .tripStatus .. => none

/-- The point that the next command in line enqueues first, as a trigger. -/
def nextEnqueued (s : State) : Option PointIdx := s.pending.head?.bind (enqueuedFirst s)

end Sys2Proof.Machine
end

