-- ==== Sys2Proof/Machine/Completion.lean ====
section
/-!
DEFINITION. The completion of a conversion at the scheduler (R57), with the one enqueue that may come between a finalize and
its grant decision (R88).
-/

namespace Sys2Proof.Machine

/-- The next command in line is a trigger of point `i`, just finalized, that enqueues it before any other; it may be taken
before the grant decision or after it, and the choice is a free value (R88, notes/assumptions/15.md). -/
def decisionWaits (i : PointIdx) (s : State) : Bool :=
  nextEnqueued s == some i && Config.decisionWaits s.draws s.pending.length

/-- A burst ends, and the grant decision that follows is taken; after a finalize it may be left to the point's enqueue (R57,
R88). -/
def burstEnds (subject : Subject) (s : State) : State :=
  let t := endBurst subject s
  match subject with
  | .point i => if decisionWaits i t then leaveDecisionDue t else grantDecision t
  | .job _ => grantDecision t

/-- The completion of the conversion of burst `b` with this code: the five cases of R57. -/
def completeConversion (b : Burst) (code : ConverterCode) (s : State) : State :=
  if subjectRetiring b.subject s then grantDecision (freeSubject b.subject s)
  else
    let t := takeCode b.subject code (sampleReading s) s
    if conversionsDone b.subject t = b.length then burstEnds b.subject t
    else if b.burstClass = .background ∧ t.urgentQueue ≠ [] then suspendBurst b t
    else beginConversionOf b.subject t

end Sys2Proof.Machine
end

