-- ==== Sys2Proof/Machine/FrameRows.lean ====
section
/-!
DEFINITION. The meanings of the rows that are good frames: one definition for each request of R199, UNKNOWN_REQUEST and
BUSY_REPLY.  The event is the completion of the good frame on the port (R174); what a request does is in its owner's
`serve` definition, and what the port does around it in Sys2Proof/Machine/Link.lean.
-/

namespace Sys2Proof.Machine

/-- The outcome of every command: while RST_N is low nothing but the reset commands has an effect
(notes/assumptions/1.md); otherwise the next state. -/
def whenReleased (f : State → State) (s : State) : Host.Outcome State Fault Refusal :=
  if s.resetLow then .next s else .next (f s)

/-- A good frame completes on port `p`, when the bytes the receiver holds let it (R174, notes/assumptions/9.md). -/
def frameRow (p : Port) (tag code : Byte) (body : List Byte) : State → Host.Outcome State Fault Refusal :=
  whenReleased (fun s => if frameCanComplete p tag code body s then goodFrame p tag code body s else s)

/-- ATTACH (R183). -/
def execAttach (p : Port) (tag : Byte) (body : List Byte) (s : State) : Host.Outcome State Fault Refusal :=
  frameRow p tag (requestCode .attach) body s

/-- DETACH (R187). -/
def execDetach (p : Port) (tag : Byte) (body : List Byte) (s : State) : Host.Outcome State Fault Refusal :=
  frameRow p tag (requestCode .detach) body s

/-- PING (R184). -/
def execPing (p : Port) (tag : Byte) (body : List Byte) (s : State) : Host.Outcome State Fault Refusal :=
  frameRow p tag (requestCode .ping) body s

/-- PART STATUS (R193). -/
def execPartStatus (p : Port) (tag : Byte) (body : List Byte) (s : State) : Host.Outcome State Fault Refusal :=
  frameRow p tag (requestCode .partStatus) body s

/-- DEFINE POINT (R9 to R14). -/
def execDefinePoint (p : Port) (tag : Byte) (body : List Byte) (s : State) : Host.Outcome State Fault Refusal :=
  frameRow p tag (requestCode .definePoint) body s

/-- LEAVE POINT (R16 to R18). -/
def execLeavePoint (p : Port) (tag : Byte) (body : List Byte) (s : State) : Host.Outcome State Fault Refusal :=
  frameRow p tag (requestCode .leavePoint) body s

/-- PAUSE SUBSCRIPTION (R22). -/
def execPauseSubscription (p : Port) (tag : Byte) (body : List Byte) (s : State) : Host.Outcome State Fault Refusal :=
  frameRow p tag (requestCode .pauseSubscription) body s

/-- RESUME SUBSCRIPTION (R23). -/
def execResumeSubscription (p : Port) (tag : Byte) (body : List Byte) (s : State) : Host.Outcome State Fault Refusal :=
  frameRow p tag (requestCode .resumeSubscription) body s

/-- SET CONDITIONING (R24). -/
def execSetConditioning (p : Port) (tag : Byte) (body : List Byte) (s : State) : Host.Outcome State Fault Refusal :=
  frameRow p tag (requestCode .setConditioning) body s

/-- POINT STATUS (R26). -/
def execPointStatus (p : Port) (tag : Byte) (body : List Byte) (s : State) : Host.Outcome State Fault Refusal :=
  frameRow p tag (requestCode .pointStatus) body s

/-- LIST SUBSCRIPTIONS (R27). -/
def execListSubscriptions (p : Port) (tag : Byte) (body : List Byte) (s : State) : Host.Outcome State Fault Refusal :=
  frameRow p tag (requestCode .listSubscriptions) body s

/-- SAMPLE NOW (R39). -/
def execSampleNow (p : Port) (tag : Byte) (body : List Byte) (s : State) : Host.Outcome State Fault Refusal :=
  frameRow p tag (requestCode .sampleNow) body s

/-- CALIBRATE (R77). -/
def execCalibrate (p : Port) (tag : Byte) (body : List Byte) (s : State) : Host.Outcome State Fault Refusal :=
  frameRow p tag (requestCode .calibrate) body s

/-- TRIM STATUS (R83). -/
def execTrimStatus (p : Port) (tag : Byte) (body : List Byte) (s : State) : Host.Outcome State Fault Refusal :=
  frameRow p tag (requestCode .trimStatus) body s

/-- READ RESULTS (R110 to R113). -/
def execReadResults (p : Port) (tag : Byte) (body : List Byte) (s : State) : Host.Outcome State Fault Refusal :=
  frameRow p tag (requestCode .readResults) body s

/-- ACK RESULTS (R114). -/
def execAckResults (p : Port) (tag : Byte) (body : List Byte) (s : State) : Host.Outcome State Fault Refusal :=
  frameRow p tag (requestCode .ackResults) body s

/-- READ EVENTS (R121). -/
def execReadEvents (p : Port) (tag : Byte) (body : List Byte) (s : State) : Host.Outcome State Fault Refusal :=
  frameRow p tag (requestCode .readEvents) body s

/-- CREATE MONITOR (R128, R129). -/
def execCreateMonitor (p : Port) (tag : Byte) (body : List Byte) (s : State) : Host.Outcome State Fault Refusal :=
  frameRow p tag (requestCode .createMonitor) body s

/-- DELETE MONITOR (R140). -/
def execDeleteMonitor (p : Port) (tag : Byte) (body : List Byte) (s : State) : Host.Outcome State Fault Refusal :=
  frameRow p tag (requestCode .deleteMonitor) body s

/-- CLEAR MONITOR CLAIM (R138). -/
def execClearMonitorClaim (p : Port) (tag : Byte) (body : List Byte) (s : State) : Host.Outcome State Fault Refusal :=
  frameRow p tag (requestCode .clearMonitorClaim) body s

/-- MONITOR STATUS (R144). -/
def execMonitorStatus (p : Port) (tag : Byte) (body : List Byte) (s : State) : Host.Outcome State Fault Refusal :=
  frameRow p tag (requestCode .monitorStatus) body s

/-- CLAIM LINE (R151). -/
def execClaimLine (p : Port) (tag : Byte) (body : List Byte) (s : State) : Host.Outcome State Fault Refusal :=
  frameRow p tag (requestCode .claimLine) body s

/-- RELEASE LINE (R152). -/
def execReleaseLine (p : Port) (tag : Byte) (body : List Byte) (s : State) : Host.Outcome State Fault Refusal :=
  frameRow p tag (requestCode .releaseLine) body s

/-- RELEASE START (R153). -/
def execReleaseStart (p : Port) (tag : Byte) (body : List Byte) (s : State) : Host.Outcome State Fault Refusal :=
  frameRow p tag (requestCode .releaseStart) body s

/-- RELEASE ORPHAN (R154). -/
def execReleaseOrphan (p : Port) (tag : Byte) (body : List Byte) (s : State) : Host.Outcome State Fault Refusal :=
  frameRow p tag (requestCode .releaseOrphan) body s

/-- LINE STATUS (R155). -/
def execLineStatus (p : Port) (tag : Byte) (body : List Byte) (s : State) : Host.Outcome State Fault Refusal :=
  frameRow p tag (requestCode .lineStatus) body s

/-- TAKE TRIP (R165). -/
def execTakeTrip (p : Port) (tag : Byte) (body : List Byte) (s : State) : Host.Outcome State Fault Refusal :=
  frameRow p tag (requestCode .takeTrip) body s

/-- SET TRIP (R166). -/
def execSetTrip (p : Port) (tag : Byte) (body : List Byte) (s : State) : Host.Outcome State Fault Refusal :=
  frameRow p tag (requestCode .setTrip) body s

/-- GIVE TRIP (R167). -/
def execGiveTrip (p : Port) (tag : Byte) (body : List Byte) (s : State) : Host.Outcome State Fault Refusal :=
  frameRow p tag (requestCode .giveTrip) body s

/-- CLEAR TRIP (R168). -/
def execClearTrip (p : Port) (tag : Byte) (body : List Byte) (s : State) : Host.Outcome State Fault Refusal :=
  frameRow p tag (requestCode .clearTrip) body s

/-- TRIP STATUS (R170). -/
def execTripStatus (p : Port) (tag : Byte) (body : List Byte) (s : State) : Host.Outcome State Fault Refusal :=
  frameRow p tag (requestCode .tripStatus) body s

/-- UNKNOWN_REQUEST: a good frame whose CODE names no request (R181).  With a CODE that names one this is not the event
of this row, and nothing happens. -/
def execUnknownRequest (p : Port) (tag code : Byte) (body : List Byte) (s : State) :
    Host.Outcome State Fault Refusal :=
  if (requestOf code).isNone then frameRow p tag code body s else .next s

/-- BUSY_REPLY: a good frame completes while the port is EXECUTING (R179).  On a READY port this event does not occur,
and nothing happens. -/
def execBusyReply (p : Port) (tag code : Byte) (body : List Byte) (s : State) : Host.Outcome State Fault Refusal :=
  match (s.port p).request with
  | .executing => frameRow p tag code body s
  | .ready => .next s

end Sys2Proof.Machine
end

