-- ==== Sys2Proof/Machine/EventRows.lean ====
section
/-!
DEFINITION. The meanings of the rows that are events at the part's pins, timers, converter and comparators.  An event
that cannot occur in the state at hand (the expiry of a timer that has not reached 0, an edge to the level accepted
already, the completion of a conversion where none is in progress) has no effect (notes/assumptions/3.md).
-/

namespace Sys2Proof.Machine

/-! ### Reset -/

/-- FULL_RESET: every block takes its reset value and RST_N is low (R30, R45, R67, R85, R102, R125, R146, R160, R172,
R194).  The input pins stay as the outside drives them; the commands still waiting and the model's own draw counter are
not the part's and stay. -/
def execFullReset (s : State) : Host.Outcome State Fault Refusal :=
  .next { State.reset with pins := s.pins, draws := s.draws, pending := s.pending }

/-- RESET_RELEASE: the straps are sampled, the timebase begins to count from 0, and the edge detectors take the levels
present on TRG0 to TRG5 as their accepted levels (R31, R33, R51, R85, R173).  With RST_N high already, the event does
not occur. -/
def execResetRelease (share cdiv baud : StrapCode) (trgLevels : Vector Bool 6) (s : State) :
    Host.Outcome State Fault Refusal :=
  if s.resetLow then
    .next { s with
      resetLow := false, share, cdiv, baud, clkPhase := 0, timebase := 0
      pins := { s.pins with trg := trgLevels }, trgLevels, trgSamples := trgLevels }
  else .next s

/-! ### Triggers -/

/-- TRG_EDGE (R33, R34). -/
def execTrgEdge (n : TrgIdx) (edge : Edge) (s : State) : Host.Outcome State Fault Refusal :=
  whenReleased (edgeTaken n edge) s

/-- PERIODIC_EXPIRY (R38). -/
def execPeriodicExpiry (i : PointIdx) (s : State) : Host.Outcome State Fault Refusal :=
  whenReleased (periodicExpires i) s

/-- DELAY_EXPIRY (R36). -/
def execDelayExpiry (i : PointIdx) (s : State) : Host.Outcome State Fault Refusal := whenReleased (delayExpires i) s

/-! ### Converter -/

/-- CONVERSION_COMPLETION: the code of the level sampled goes to the holding burst (R57, R69). -/
def execConversionCompletion (level : Level) (s : State) : Host.Outcome State Fault Refusal :=
  whenReleased (fun s => match s.converter with
    | some b => completeConversion b (completionCode b level s) s
    | none => s) s

/-! ### Trip comparators -/

/-- TRIP_FIRING: the comparator takes the sample that is to fire it, of its input pin against its configuration as that
stands when the firing is taken (R162, R163).  It fires where this sample completes the run (R164).  After a SET TRIP taken
first it counts like any other sample, afresh, and in OFF it is the present output alone (R166, R169).  The output of an
input within the resolution is beyond where it completes the run, and else a free value (notes/assumptions/13.md). -/
def execTripFiring (k : TripIdx) (s : State) : Host.Outcome State Fault Refusal :=
  whenReleased (fun s => takeSample k (outputOf k (runCompletes k s || Config.nearOutput s.draws k) s) s) s

/-- COMPARATOR_SAMPLE: the input pin of the comparator stands at the level given, and the comparator samples its output
against its configuration (R162, R163). -/
def execComparatorSample (k : TripIdx) (input : SampledInput) (s : State) : Host.Outcome State Fault Refusal :=
  whenReleased (fun s =>
    let t := s.driveAin (s.comparator k).config.input input.level
    takeSample k (outputOf k input.near t) t) s

/-! ### The link -/

/-- A malformed frame, by its cause (R174, R176).  A bad start byte is taken in HUNTING alone, and a LEN out of range in
HUNTING (with the start byte before it) or LENGTH; in other states these two do not occur (notes/assumptions/3.md).  A
byte error is what the line delivers (R173).  DESIGN CHOICE (notes/assumptions/9.md): FRAMING_ERROR with the cause bad
CRC stands, in every receiver state, for the rest of a frame whose two CRC bytes differ from the computed CRC, as a
request row stands for the rest of a good frame; so it discards the partial frame, if any, and counts one framing
error. -/
def malformedFrame (p : Port) (cause : FramingCause) (s : State) : State :=
  match cause, (s.port p).receiver with
  | .badStart, .hunting run => badStartByte p run s
  | .badStart, _ => s
  | .lenOutOfRange, .hunting _ => discardFrame p s
  | .lenOutOfRange, .length => discardFrame p s
  | .lenOutOfRange, _ => s
  | .byteError, _ => takeByteError p s
  | .badCrc, _ => discardFrame p s

/-- FRAMING_ERROR (R176). -/
def execFramingError (p : Port) (cause : FramingCause) (s : State) : Host.Outcome State Fault Refusal :=
  whenReleased (malformedFrame p cause) s

/-- INTER_BYTE_TIMEOUT (R175). -/
def execInterByteTimeout (p : Port) (s : State) : Host.Outcome State Fault Refusal := whenReleased (interByteExpires p) s

/-- RESPONSE_SENT (R177); a READY port sends no response. -/
def execResponseSent (p : Port) (s : State) : Host.Outcome State Fault Refusal :=
  whenReleased (fun s => match (s.port p).request with
    | .executing => responseEnds p s
    | .ready => s) s

/-- SUPERVISION_EXPIRY: the session of a port whose supervision timer has expired is lost (R186). -/
def execSupervisionExpiry (p : Port) (s : State) : Host.Outcome State Fault Refusal :=
  whenReleased (fun s => if supervisionExpired p s then sessionLost p s else s) s

/-- BYTE_TAKEN: the receiver takes a byte with a good stop bit (R174).  A byte that completes a frame or is an error has
the effect R174 gives that byte. -/
def execByteTaken (p : Port) (b : Byte) (s : State) : Host.Outcome State Fault Refusal := whenReleased (takeByte p b) s

end Sys2Proof.Machine
end

