-- ==== Sys2Proof/Machine/Dispatch.lean ====
section
/-! DEFINITION. The dispatch: one arm for each constructor of Instr, in the order of spec/opcode_table.json. -/

namespace Sys2Proof.Machine

def exec (i : Instr) (s : State) : Host.Outcome State Fault Refusal :=
  match i with
  | .fullReset => Sys2Proof.Machine.execFullReset s
  | .resetRelease share cdiv baud trgLevels => Sys2Proof.Machine.execResetRelease share cdiv baud trgLevels s
  | .trgEdge n edge => Sys2Proof.Machine.execTrgEdge n edge s
  | .periodicExpiry q => Sys2Proof.Machine.execPeriodicExpiry q s
  | .delayExpiry q => Sys2Proof.Machine.execDelayExpiry q s
  | .conversionCompletion level => Sys2Proof.Machine.execConversionCompletion level s
  | .tripFiring k => Sys2Proof.Machine.execTripFiring k s
  | .framingError p cause => Sys2Proof.Machine.execFramingError p cause s
  | .interByteTimeout p => Sys2Proof.Machine.execInterByteTimeout p s
  | .busyReply p tag code body => Sys2Proof.Machine.execBusyReply p tag code body s
  | .responseSent p => Sys2Proof.Machine.execResponseSent p s
  | .supervisionExpiry p => Sys2Proof.Machine.execSupervisionExpiry p s
  | .attach p tag body => Sys2Proof.Machine.execAttach p tag body s
  | .detach p tag body => Sys2Proof.Machine.execDetach p tag body s
  | .ping p tag body => Sys2Proof.Machine.execPing p tag body s
  | .partStatus p tag body => Sys2Proof.Machine.execPartStatus p tag body s
  | .definePoint p tag body => Sys2Proof.Machine.execDefinePoint p tag body s
  | .leavePoint p tag body => Sys2Proof.Machine.execLeavePoint p tag body s
  | .pauseSubscription p tag body => Sys2Proof.Machine.execPauseSubscription p tag body s
  | .resumeSubscription p tag body => Sys2Proof.Machine.execResumeSubscription p tag body s
  | .setConditioning p tag body => Sys2Proof.Machine.execSetConditioning p tag body s
  | .pointStatus p tag body => Sys2Proof.Machine.execPointStatus p tag body s
  | .listSubscriptions p tag body => Sys2Proof.Machine.execListSubscriptions p tag body s
  | .sampleNow p tag body => Sys2Proof.Machine.execSampleNow p tag body s
  | .calibrate p tag body => Sys2Proof.Machine.execCalibrate p tag body s
  | .trimStatus p tag body => Sys2Proof.Machine.execTrimStatus p tag body s
  | .readResults p tag body => Sys2Proof.Machine.execReadResults p tag body s
  | .ackResults p tag body => Sys2Proof.Machine.execAckResults p tag body s
  | .readEvents p tag body => Sys2Proof.Machine.execReadEvents p tag body s
  | .createMonitor p tag body => Sys2Proof.Machine.execCreateMonitor p tag body s
  | .deleteMonitor p tag body => Sys2Proof.Machine.execDeleteMonitor p tag body s
  | .clearMonitorClaim p tag body => Sys2Proof.Machine.execClearMonitorClaim p tag body s
  | .monitorStatus p tag body => Sys2Proof.Machine.execMonitorStatus p tag body s
  | .claimLine p tag body => Sys2Proof.Machine.execClaimLine p tag body s
  | .releaseLine p tag body => Sys2Proof.Machine.execReleaseLine p tag body s
  | .releaseStart p tag body => Sys2Proof.Machine.execReleaseStart p tag body s
  | .releaseOrphan p tag body => Sys2Proof.Machine.execReleaseOrphan p tag body s
  | .lineStatus p tag body => Sys2Proof.Machine.execLineStatus p tag body s
  | .takeTrip p tag body => Sys2Proof.Machine.execTakeTrip p tag body s
  | .setTrip p tag body => Sys2Proof.Machine.execSetTrip p tag body s
  | .giveTrip p tag body => Sys2Proof.Machine.execGiveTrip p tag body s
  | .clearTrip p tag body => Sys2Proof.Machine.execClearTrip p tag body s
  | .tripStatus p tag body => Sys2Proof.Machine.execTripStatus p tag body s
  | .unknownRequest p tag code body => Sys2Proof.Machine.execUnknownRequest p tag code body s
  | .comparatorSample k input => Sys2Proof.Machine.execComparatorSample k input s
  | .byteTaken p b => Sys2Proof.Machine.execByteTaken p b s

end Sys2Proof.Machine
end

