-- ==== Sys2Proof/Safety.lean ====
section
/-!
DEFINITION. What counts as a safe state: the laws that the manual says hold at all times, and the conditions on single
registers that its tables give, each as a decidable predicate on State.  They are stated of every state, not of runs
from reset.
-/

namespace Sys2Proof.Safety

open Sys2Proof.Machine

/-! ### Bounds of buffers and counters -/

/-- R103, R104: in a ring, window plus unsent is at most 64 records, the window is at most 15, and the two lost counts
stay in their ranges. -/
abbrev RingBounds (r : Ring) : Prop :=
  r.window.length + r.unsent.length ≤ 64 ∧ r.window.length ≤ 15 ∧ r.pendingLost ≤ 255 ∧ r.totalLost ≤ 65535

/-- R118: an event queue holds at most 16 events, and its lost-event count is at most 255. -/
abbrev QueueBounds (q : EventQueue) : Prop := q.events.length ≤ 16 ∧ q.lost ≤ 255

/-- R4, R86, R87: the missed count is at most 255, the accumulator holds no more than the codes counted can give, and
the burst has a timestamp exactly when a conversion has been counted. -/
abbrev EntryBounds (e : PointEntry) : Prop :=
  e.missed ≤ 255 ∧ e.accumulator ≤ 4095 * e.done ∧ (e.stamp = none ↔ e.done = 0)

/-- R7, R94: a subscription's missed accumulator is at most 255, and its decimation counter is below d. -/
abbrev SubscriptionBounds (u : Subscription) : Prop := u.missed ≤ 255 ∧ u.counter < u.decimation

/-- R173, R176: the framing-error count is at most 65,535, and no more than the ten bits of a byte are sampled. -/
abbrev PortBounds (h : HostPort) : Prop := h.framingErrors ≤ 65535 ∧ ∀ x ∈ h.rxByte, x.bits.length ≤ 10

/-- The bounds of every buffer and counter of the part; R31: at most 47 CLK periods stand since the last tick. -/
abbrev BoundsLaw (s : State) : Prop :=
  (∀ p : Port, RingBounds (s.ring p) ∧ QueueBounds (s.queue p) ∧ PortBounds (s.port p)) ∧
  (∀ i : PointIdx, EntryBounds (s.point i)) ∧
  (∀ p : Port, ∀ k : SlotIdx, ∀ u ∈ s.slot p k, SubscriptionBounds u) ∧
  s.clkPhase ≤ 47

/-! ### Monitors, claims and comparators -/

/-- R137: a FOLLOW monitor holds its claim exactly while it is OUT, a LATCH monitor holds it while it is OUT, and a NONE
monitor never. -/
def claimFits (m : Monitor) : Bool :=
  match m.action with
  | .none => !m.claimHeld
  | .follow _ => m.claimHeld == (m.state == .out)
  | .latch _ => m.state != .out || m.claimHeld

/-- R126, R137: the count follows the state, and claim held follows action and state. -/
abbrev MonitorLaw (m : Monitor) : Prop :=
  1 ≤ m.qualify ∧
  (m.state = .inside → m.count = 0) ∧
  (m.state = .qualifying → 1 ≤ m.count ∧ m.count < m.qualify) ∧
  (m.state = .out → m.count = m.qualify) ∧
  claimFits m = true

/-- R137, R141: MONITOR k stands in the claim set of a line exactly when monitor k is in use, claim held is yes and the
line is the monitor's. -/
abbrev MonitorClaimLaw (s : State) : Prop :=
  ∀ k : MonitorIdx, ∀ l : LineIdx, s.claims l (.monitor k) = true ↔ (s.monitor k).bind heldLine = some l

/-- R161, R166: TRIP k stands in the claim set of a line exactly when the line is one of the claimed lines of comparator
k, and a comparator that is not FIRED has no claimed lines. -/
abbrev TripClaimLaw (s : State) : Prop :=
  ∀ k : TripIdx, (∀ l : LineIdx, s.claims l (.trip k) = (s.comparator k).claimed.getLsbD l) ∧
    ((s.comparator k).state ≠ .fired → (s.comparator k).claimed = 0)

/-- R163: the run is 0 outside WATCHING, and below the filter's count in WATCHING. -/
abbrev RunLaw (c : Comparator) : Prop :=
  (c.state ≠ .watching → c.run = 0) ∧ (c.state = .watching → c.run < filterSamples c.config.filter)

/-- The laws of the monitors, the claim sets and the comparators. -/
abbrev ClaimLaws (s : State) : Prop :=
  (∀ k : MonitorIdx, ∀ m ∈ s.monitor k, MonitorLaw m) ∧ MonitorClaimLaw s ∧ TripClaimLaw s ∧
  (∀ k : TripIdx, RunLaw (s.comparator k))

/-! ### Sessions and receivers -/

/-- R177, R179, R185: a READY port sends nothing, has no BUSY reply waiting and is not between the stages of a DETACH;
an EXECUTING port is sending a response and its supervision timer does not run. -/
abbrev RequestLaw (h : HostPort) : Prop :=
  (h.request = .ready → h.sending = none ∧ h.busy = none ∧ h.detaching = false) ∧
  (h.request = .executing → h.sending.isSome ∧ h.supervision = none)

/-- R182, R185, R190: a port between the stages of a DETACH is ATTACHED; a DETACHED port's ring and event queue hold
nothing and its supervision timer does not run. -/
abbrev DetachedLaw (s : State) (p : Port) : Prop :=
  ((s.port p).detaching = true → s.attached p = true) ∧
  (s.attached p = false →
    (s.ring p).window = [] ∧ (s.ring p).unsent = [] ∧ (s.ring p).pendingLost = 0 ∧ s.queue p = .empty ∧
    (s.port p).supervision = none)

/-- R165, R187, R190: a DETACHED port, and a port between the stages of a DETACH, has no subscription, is no
comparator's holder and has no QUEUED calibration job. -/
abbrev OwnershipLaw (s : State) (p : Port) : Prop :=
  (s.attached p = false ∨ (s.port p).detaching = true) →
    (∀ k : SlotIdx, s.slot p k = none) ∧ (∀ k : TripIdx, (s.comparator k).holder ≠ some p) ∧
    (∀ g ∈ allGains, ¬((s.job g).state = .queued ∧ (s.job g).requester = some p))

/-- R174: LEN is 2 to 250, fewer than LEN bytes are held in COLLECTING and LEN bytes in CHECKING. -/
def receiverFits : Receiver → Bool
  | .hunting _ | .length => true
  | .collecting len taken => 2 ≤ len.toNat && len.toNat ≤ 250 && taken.length < len.toNat
  | .checking len taken _ => 2 ≤ len.toNat && len.toNat ≤ 250 && taken.length == len.toNat

/-- The receiver is HUNTING (R174). -/
def hunting : Receiver → Bool
  | .hunting _ => true
  | .length | .collecting .. | .checking .. => false

/-- R174, R175: the receiver's bytes fit its state, and the inter-byte timer runs exactly outside HUNTING. -/
abbrev ReceiverLaw (h : HostPort) : Prop :=
  receiverFits h.receiver = true ∧ (h.interByte = none ↔ hunting h.receiver = true)

/-- The laws of the host ports and their sessions. -/
abbrev SessionLaws (s : State) : Prop :=
  ∀ p : Port, RequestLaw (s.port p) ∧ DetachedLaw s p ∧ OwnershipLaw s p ∧ ReceiverLaw (s.port p)

/-! ### Points, subscriptions and waiting places -/

/-- R5: an entry is FREE exactly when its list is empty and it is not RETIRING, and a RETIRING entry's list is empty;
no list holds a port twice. -/
abbrev ListLaw (e : PointEntry) : Prop :=
  (e.state = .free ↔ e.subscribers = [] ∧ e.state ≠ .retiring) ∧
  (e.state = .retiring → e.subscribers = []) ∧
  e.subscribers.Nodup

/-- R7: a port stands in a point's list exactly when its table holds a subscription to the point, and no table holds
the same point twice. -/
abbrev SubscriptionLaw (s : State) : Prop :=
  (∀ p : Port, ∀ i : PointIdx,
    p ∈ (s.point i).subscribers ↔ ∃ k : SlotIdx, (s.slot p k).map (·.point) = some i) ∧
  (∀ p : Port, ∀ k l : SlotIdx, ∀ u ∈ s.slot p k, ∀ v ∈ s.slot p l, u.point = v.point → k = l)

/-- R129: a monitor's creator is in its point's subscriber list. -/
abbrev CreatorLaw (s : State) : Prop :=
  ∀ k : MonitorIdx, ∀ m ∈ s.monitor k, m.creator ∈ (s.point m.point).subscribers

/-- R12: no more than 8 non-FREE point entries are urgent. -/
abbrev UrgentLaw (s : State) : Prop := s.urgentInUse ≤ 8

/-- R43: the divider counter and the countdown of a live entry are those of its trigger kind. -/
def triggerFits (e : PointEntry) : Bool :=
  match e.key.trigger with
  | .line _ _ divider => e.divider < divider && e.countdown.isNone
  | .periodic _ => e.divider == 0 && e.countdown.isSome
  | .demand => e.divider == 0 && e.countdown.isNone

/-- R41, R43: trigger state fits the kind in a live entry and is cleared in a FREE or RETIRING one; a delay timer runs
exactly in DELAYING. -/
abbrev TriggerLaw (e : PointEntry) : Prop :=
  (e.delayTimer ≠ none ↔ e.state = .delaying) ∧
  (live e = false → e.divider = 0 ∧ e.countdown = none) ∧
  (live e = true → triggerFits e = true)

/-- R50: where point i stands follows its state. -/
abbrev PlaceLaw (s : State) (i : PointIdx) : Prop :=
  (i ∈ s.urgentQueue ↔ (s.point i).state = .due ∧ (s.point i).key.urgent = true) ∧
  (∀ p : Port, Subject.point i ∈ s.fifo p ↔
    (s.point i).state = .due ∧ (s.point i).key.urgent = false ∧ s.sponsor i = some p) ∧
  (s.converter.map (·.subject) = some (.point i) ↔ (s.point i).state = .converting ∨ (s.point i).state = .retiring) ∧
  (s.suspended.map (·.subject) = some (.point i) ↔ (s.point i).state = .suspended)

/-- R50, R76: where a calibration job stands follows its state, and a job has a requester exactly when it is not
NONE. -/
abbrev JobLaw (s : State) (g : Gain) : Prop :=
  (∀ p : Port, Subject.job g ∈ s.fifo p ↔ (s.job g).state = .queued ∧ (s.job g).requester = some p) ∧
  (s.converter.map (·.subject) = some (.job g) ↔ (s.job g).state = .running) ∧
  (s.suspended.map (·.subject) = some (.job g) ↔ (s.job g).state = .suspended) ∧
  ((s.job g).state = .none ↔ (s.job g).requester = none)

/-- The subject of a burst is an urgent point (R46). -/
def urgentSubject (subject : Subject) (s : State) : Bool :=
  match subject with
  | .point i => (s.point i).key.urgent
  | .job _ => false

/-- R46, R58: a burst has its subject's length, conversions remain, and it is URGENT exactly when its subject is an
urgent point. -/
abbrev BurstLaw (s : State) (b : Burst) : Prop :=
  b.length = burstLength b.subject s ∧ conversionsDone b.subject s < b.length ∧
  (b.burstClass = .urgent ↔ urgentSubject b.subject s = true)

/-- R46, R70: the conversion in progress is of the subject of the holding burst. -/
abbrev ConversionLaw (s : State) : Prop :=
  ∀ b ∈ s.converter, ∀ c ∈ s.conversion, c.channel = subjectChannel b.subject s ∧ c.gain = subjectGain b.subject s ∧
    c.settle = subjectSettle b.subject s

/-- R46, R49, R52: the holding and the suspended burst fit; a suspended burst is BACKGROUND and waits behind an URGENT
one; an IDLE converter means that nothing waits, but between a finalize and its grant decision, where the next command in
line enqueues a point and so brings the decision (R88, notes/assumptions/15.md); a conversion is in progress exactly while
the converter is BUSY, and is that of the holding burst. -/
abbrev ConverterLaw (s : State) : Prop :=
  (∀ b ∈ s.converter, BurstLaw s b) ∧ (∀ b ∈ s.suspended, BurstLaw s b ∧ b.burstClass = .background) ∧
  (s.suspended ≠ none → s.decisionDue = true ∨ s.converter.map (·.burstClass) = some .urgent) ∧
  (s.converter = none → s.decisionDue = false →
    s.urgentQueue = [] ∧ s.suspended = none ∧ ∀ p : Port, s.fifo p = []) ∧
  (s.decisionDue = true → s.converter = none ∧ s.resetLow = false ∧ (nextEnqueued s).isSome = true) ∧
  (s.converter = none ↔ s.conversion = none) ∧ ConversionLaw s

/-- The laws that join the point table, the subscription tables, the trigger unit, the scheduler and the monitors'
creators. -/
abbrev TableLaws (s : State) : Prop :=
  (∀ i : PointIdx, ListLaw (s.point i) ∧ TriggerLaw (s.point i) ∧ PlaceLaw s i) ∧
  SubscriptionLaw s ∧ CreatorLaw s ∧ UrgentLaw s ∧
  s.urgentQueue.Nodup ∧ (∀ p : Port, (s.fifo p).Nodup) ∧
  (∀ g ∈ allGains, JobLaw s g) ∧ ConverterLaw s

/-- Every law together. -/
abbrev AllLaws (s : State) : Prop := BoundsLaw s ∧ ClaimLaws s ∧ SessionLaws s ∧ TableLaws s

end Sys2Proof.Safety
end

