-- ==== Sys2Proof/Certificates/Slice0/Obligations.lean ====
section
/-!
DEFINITION. The statements for the provers: first the vocabulary they share, then one definition `Obligations.<Name>` for
each statement, in the order of OBLIGATIONS.json.
-/

namespace Sys2Proof.Statement

open Sys2Proof.Machine

/-! ### Frames -/

/-- The frame that a request row carries: port, TAG, the CODE of R199, body. -/
def requestRow : Instr → Option (Port × Byte × Byte × List Byte)
  | .attach p tag body => some (p, tag, 0x01, body)
  | .detach p tag body => some (p, tag, 0x02, body)
  | .ping p tag body => some (p, tag, 0x03, body)
  | .partStatus p tag body => some (p, tag, 0x04, body)
  | .definePoint p tag body => some (p, tag, 0x10, body)
  | .leavePoint p tag body => some (p, tag, 0x11, body)
  | .pauseSubscription p tag body => some (p, tag, 0x12, body)
  | .resumeSubscription p tag body => some (p, tag, 0x13, body)
  | .setConditioning p tag body => some (p, tag, 0x14, body)
  | .pointStatus p tag body => some (p, tag, 0x15, body)
  | .listSubscriptions p tag body => some (p, tag, 0x16, body)
  | .sampleNow p tag body => some (p, tag, 0x17, body)
  | .calibrate p tag body => some (p, tag, 0x20, body)
  | .trimStatus p tag body => some (p, tag, 0x21, body)
  | .readResults p tag body => some (p, tag, 0x30, body)
  | .ackResults p tag body => some (p, tag, 0x31, body)
  | .readEvents p tag body => some (p, tag, 0x32, body)
  | .createMonitor p tag body => some (p, tag, 0x40, body)
  | .deleteMonitor p tag body => some (p, tag, 0x41, body)
  | .clearMonitorClaim p tag body => some (p, tag, 0x42, body)
  | .monitorStatus p tag body => some (p, tag, 0x43, body)
  | .claimLine p tag body => some (p, tag, 0x50, body)
  | .releaseLine p tag body => some (p, tag, 0x51, body)
  | .releaseStart p tag body => some (p, tag, 0x52, body)
  | .releaseOrphan p tag body => some (p, tag, 0x53, body)
  | .lineStatus p tag body => some (p, tag, 0x54, body)
  | .takeTrip p tag body => some (p, tag, 0x60, body)
  | .setTrip p tag body => some (p, tag, 0x61, body)
  | .giveTrip p tag body => some (p, tag, 0x62, body)
  | .clearTrip p tag body => some (p, tag, 0x63, body)
  | .tripStatus p tag body => some (p, tag, 0x64, body)
  | .fullReset | .resetRelease .. | .trgEdge .. | .periodicExpiry _ | .delayExpiry _ | .conversionCompletion _
  | .tripFiring _ | .framingError .. | .interByteTimeout _ | .busyReply .. | .responseSent _ | .supervisionExpiry _
  | .unknownRequest .. | .comparatorSample .. | .byteTaken .. => none

/-- The frame of a request row or of UNKNOWN_REQUEST. -/
def requestFrameOf : Instr → Option (Port × Byte × Byte × List Byte)
  | .unknownRequest p tag code body => some (p, tag, code, body)
  | c => requestRow c

/-- The frame of any row that is a good frame, BUSY_REPLY among them. -/
def goodFrameOf : Instr → Option (Port × Byte × Byte × List Byte)
  | .busyReply p tag code body => some (p, tag, code, body)
  | c => requestFrameOf c

/-- The table of R199: CODE, body length, and whether a DETACHED port executes the request. -/
def codeTable : List (Nat × Nat × Bool) :=
  [(0x01, 3, true), (0x02, 0, false), (0x03, 0, true), (0x04, 0, true), (0x10, 20, false), (0x11, 1, false),
   (0x12, 1, false), (0x13, 1, false), (0x14, 8, false), (0x15, 1, false), (0x16, 0, false), (0x17, 1, false),
   (0x20, 1, false), (0x21, 0, false), (0x30, 3, false), (0x31, 1, false), (0x32, 1, false), (0x40, 11, false),
   (0x41, 1, false), (0x42, 1, false), (0x43, 0, false), (0x50, 1, false), (0x51, 1, false), (0x52, 1, false),
   (0x53, 2, false), (0x54, 0, false), (0x60, 1, false), (0x61, 7, false), (0x62, 1, false), (0x63, 1, false),
   (0x64, 0, false)]

/-- A good frame arrives on a READY port of a part out of reset and is no duplicate of the cached request (R177,
R180). -/
abbrev Arrives (p : Port) (tag code : Byte) (body : List Byte) (s : State) : Prop :=
  s.resetLow = false ∧ frameCanComplete p tag code body s = true ∧ (s.port p).request = .ready ∧
  ∀ e ∈ (s.port p).cache, e.tag = tag → e.crc ≠ crc16 (requestCovered tag code body)

/-- A good frame of a request arrives on an ATTACHED port. -/
abbrev Asks (p : Port) (tag code : Byte) (body : List Byte) (s : State) : Prop :=
  Arrives p tag code body s ∧ s.attached p = true

/-- The state in which the owner takes a request of port `p`: the receiver HUNTING, the port EXECUTING, its supervision
timer stopped (R174, R177, R185). -/
def atOwner (p : Port) (s : State) : State :=
  s.modPort p (fun h => { h with receiver := .hunting false, interByte := none, request := .executing, supervision := none })

/-- The port then sends the response and keeps it in its duplicate cache (R177, R180). -/
def answered (p : Port) (tag code : Byte) (body : List Byte) (a : Answer) (t : State) : State :=
  t.modPort p (fun h =>
    { h with cache := some { tag, crc := crc16 (requestCovered tag code body), response := responseFrame tag code a },
             sending := some { bytes := responseFrame tag code a, elapsed := 0 } })

/-- The request is refused with this status and an empty body, and changes nothing but the port that answers it. -/
abbrev Refuses (c : Instr) (p : Port) (tag code : Byte) (body : List Byte) (e : Status) (s : State) : Prop :=
  exec c s = .next (answered p tag code body (refusal e) (atOwner p s))

/-- The bytes are taken one after another by the receiver of port `p`. -/
def takeAll (p : Port) : List Byte → State → Host.Outcome State Fault Refusal
  | [], s => .next s
  | b :: bs, s => match exec (.byteTaken p b) s with
    | .next t => takeAll p bs t
    | .fault r => .fault r
    | .refused r => .refused r

/-- A BUSY reply, byte for byte (R179, R197): 5A hex, LEN 3, TAG, CODE, STATUS BUSY, CRC. -/
def busyBytes (tag code : Byte) : List Byte := 0x5A :: ([3, tag, code, 3] ++ crcBytes [3, tag, code, 3])

/-- One framing error more, saturating (R176). -/
def oneErrorMore (n : Nat) : Nat := min (n + 1) 65535

/-! ### Fields, records and bodies (R195, R201, R202, R205) -/

/-- The bytes of a 16-bit field, most significant first (R195). -/
def two (n : Nat) : List Byte := [BitVec.ofNat 8 (n / 256), BitVec.ofNat 8 n]

/-- The bytes of a 32-bit field, most significant first (R195). -/
def four (n : Nat) : List Byte :=
  [BitVec.ofNat 8 (n / 16777216), BitVec.ofNat 8 (n / 65536), BitVec.ofNat 8 (n / 256), BitVec.ofNat 8 n]

/-- A byte that is 0 for no and 1 for yes. -/
def yes (b : Bool) : Byte := if b then 1 else 0

/-- A port field: FF hex for none (R195). -/
def portField : Option Port → Byte
  | some p => BitVec.ofNat 8 p.val
  | none => 0xFF

/-- The point state code (R205). -/
def stateByte : PointState → Byte
  | .free => 0
  | .armed => 1
  | .delaying => 2
  | .due => 3
  | .converting => 4
  | .suspended => 5
  | .retiring => 6

/-- Bytes 0 to 12 of a DEFINE POINT body (R203). -/
def keyLayout (k : Key) : List Byte :=
  [BitVec.ofNat 8 k.channel.val, BitVec.ofNat 8 (match k.gain with | .g1 => 0 | .g2 => 1 | .g4 => 2 | .g8 => 3),
   BitVec.ofNat 8 k.settle.val,
   BitVec.ofNat 8 (match k.oversample with | .n1 => 1 | .n2 => 2 | .n4 => 4 | .n8 => 8 | .n16 => 16)] ++
  (match k.trigger with
    | .line input edge divider =>
      [0, BitVec.ofNat 8 input.val, (match edge with | .rise => 0 | .fall => 1 | .both => 2),
       BitVec.ofNat 8 divider] ++ two 0
    | .periodic period => [1, 0, 0, 0] ++ two period
    | .demand => [2, 0, 0, 0] ++ two 0) ++
  two k.delay ++ [if k.urgent then 1 else 0]

/-- A result record, 16 bytes (R201): point, flags, sequence, timestamp, value16, scaled, missed, lost. -/
def recordLayout (r : Record) : List Byte :=
  [BitVec.ofNat 8 r.point.val,
   (if r.sat then 1 else 0) + (if r.trim then 2 else 0) + (if r.clamp then 4 else 0) + (if r.resumed then 8 else 0) +
     (if r.first then 16 else 0)] ++
  two r.sequence.toNat ++ four r.timestamp.toNat ++ two r.value16.toNat ++ four r.scaled.toNat ++
  [BitVec.ofNat 8 r.missed, BitVec.ofNat 8 r.lost]

/-- An event record, 8 bytes (R202): kind, subject, value, timestamp. -/
def eventLayout (e : Event) : List Byte :=
  [(match e.kind with
    | .trip => 1 | .recover => 2 | .lineAsserted => 3 | .lineReleased => 4 | .tripFired => 5 | .tripCleared => 6
    | .calDone => 7 | .peerLost => 8 | .peerLeft => 9), BitVec.ofNat 8 e.subject] ++
  two e.value ++ four e.timestamp.toNat

/-- A PART STATUS port entry, 10 bytes (R205). -/
def portLayout (s : State) (p : Port) : List Byte :=
  [yes (s.attached p), (s.port p).sessionId] ++ two (s.urgentGrant p).toNat ++ two (s.wheelGrant p).toNat ++
  two (s.port p).framingErrors ++ two (s.ring p).totalLost

/-- The PART STATUS body, 50 bytes (R205). -/
def partLayout (s : State) : List Byte :=
  [BitVec.ofNat 8 s.share.val, BitVec.ofNat 8 s.cdiv.val, BitVec.ofNat 8 s.baud.val] ++
  portLayout s 0 ++ portLayout s 1 ++ portLayout s 2 ++ portLayout s 3 ++
  [yes s.converter.isSome] ++ four s.timebase.toNat ++
  [BitVec.ofNat 8 (allPoints.filter (fun i => (s.point i).state ≠ .free)).length,
   BitVec.ofNat 8 (allPoints.filter (fun i => (s.point i).state ≠ .free ∧ (s.point i).key.urgent = true)).length]

/-- The POINT STATUS body, 22 bytes (R205). -/
def pointLayout (e : PointEntry) : List Byte :=
  [stateByte e.state] ++ (if e.state = .free then List.replicate 13 0 else keyLayout e.key) ++
  [BitVec.ofNat 8 e.subscribers.length] ++
  (e.subscribers.map (fun p : Port => (BitVec.ofNat 8 p.val : Byte)) ++ List.replicate 4 0xFF).take 4 ++
  two e.sequence.toNat ++ [BitVec.ofNat 8 e.missed]

/-- A LIST SUBSCRIPTIONS slot entry, 13 bytes (R205). -/
def slotLayout (k : SlotIdx) (u : Subscription) : List Byte :=
  [BitVec.ofNat 8 k.val, BitVec.ofNat 8 u.point.val, (match u.state with | .active => 0 | .paused => 1)] ++
  two u.offset.toNat ++ two u.multiplier.toNat ++ [BitVec.ofNat 8 u.shift] ++ two u.decimation ++
  [BitVec.ofNat 8 u.counter, BitVec.ofNat 8 u.missed, yes u.firstPending]

/-- The LIST SUBSCRIPTIONS body (R205): the count, then the occupied slots in slot order. -/
def listLayout (s : State) (p : Port) : List Byte :=
  BitVec.ofNat 8 (allSlots.filter (fun k => (s.slot p k).isSome)).length ::
    allSlots.flatMap (fun k => match s.slot p k with
      | some u => slotLayout k u
      | none => [])

/-- A TRIM STATUS gain entry, 6 bytes (R205). -/
def trimLayout (s : State) (g : Gain) : List Byte :=
  [(match (s.trimEntry g).state with | .uncalibrated => (0 : Byte) | .valid => 1)] ++ two (s.trimEntry g).trim ++
  [(match (s.job g).state with | .none => 0 | .queued => 1 | .running => 2 | .suspended => 3),
   portField (s.job g).requester, BitVec.ofNat 8 (s.job g).done]

/-- A MONITOR STATUS entry, 16 bytes (R205). -/
def monitorLayout : Option Monitor → List Byte
  | none => List.replicate 16 0
  | some m =>
    [1, BitVec.ofNat 8 m.creator.val, BitVec.ofNat 8 m.point.val] ++ two m.low ++ two m.high ++ two m.hysteresis ++
    [BitVec.ofNat 8 m.qualify] ++
    (match m.action with
      | .none => [0, 0]
      | .follow l => [1, BitVec.ofNat 8 l.val]
      | .latch l => [2, BitVec.ofNat 8 l.val]) ++
    [yes m.broadcast, (match m.state with | .inside => 0 | .qualifying => 1 | .out => 2), BitVec.ofNat 8 m.count,
     yes m.claimHeld]

/-- A LINE STATUS entry, 4 bytes (R205): asserted, claimant count, and the claimants, claimant `x` in bit `x`. -/
def lineLayout (set : ClaimSet) : List Byte :=
  let claimants := (List.finRange 15).filter (fun x : Fin 15 => set[x])
  [yes !claimants.isEmpty, BitVec.ofNat 8 claimants.length] ++ two (claimants.map (fun x => 2 ^ x.val)).sum

/-- A TRIP STATUS entry, 9 bytes (R205). -/
def tripLayout (c : Comparator) : List Byte :=
  [(match c.state with | .off => 0 | .watching => 1 | .fired => 2), portField c.holder,
   BitVec.ofNat 8 c.config.input.val, BitVec.ofNat 8 c.config.step.val,
   (match c.config.polarity with | .above => 0 | .below => 1),
   (match c.config.filter with | .f0 => 0 | .f1 => 1 | .f4 => 2 | .f16 => 3),
   c.config.mask.setWidth 8, c.claimed.setWidth 8, yes c.beyond]

/-! ### Levels and codes (R69, R162) -/

/-- The level at the converter: a pin's level times the gain; VREF/2 times the gain for REF; for ZERO the offset. -/
def amplified (channel : Channel) (gain : Gain) (l : Level) : Level :=
  let factor : Int := match gain with | .g1 => 1 | .g2 => 2 | .g4 => 4 | .g8 => 8
  if channel = 16 then l else if channel = 17 then { num := factor, den := 1 } else { num := l.num * factor, den := l.den }

/-- The code of an amplified level, by the table of R69. -/
def codeOf (l : Level) : ConverterCode :=
  if l.num ≤ 0 then 0
  else if 4095 * ((l.den : Int) + 1) ≤ l.num * 4096 then 4095
  else BitVec.ofNat 12 (l.num.toNat * 4096 / (l.den + 1))

/-- The code of the conversion that completes: of the level the sample stage holds, or of `level` at the selected input
where the model's clock has not reached the sample instant (notes/assumptions/6.md). -/
def codeAt (channel : Channel) (gain : Gain) (level : Level) (s : State) : ConverterCode :=
  codeOf ((s.conversion.bind (·.held)).getD (amplified channel gain level))

/-- The input is beyond the threshold (2k + 1)/128 of VREF (R162). -/
def isBeyond (c : TripConfig) (l : Level) : Bool :=
  match c.polarity with
  | .above => (2 * (c.step.val : Int) + 1) * ((l.den : Int) + 1) < 128 * l.num
  | .below => 128 * l.num < (2 * (c.step.val : Int) + 1) * ((l.den : Int) + 1)

/-- The input lies within the comparator's resolution of the threshold (R162; the resolution is a free value,
notes/assumptions/13.md). -/
def inDoubt (k : TripIdx) (c : TripConfig) (l : Level) : Bool :=
  (((128 * l.num - (2 * (c.step.val : Int) + 1) * ((l.den : Int) + 1)).natAbs : Nat) : Int) *
      (((Config.resolution k).den : Int) + 1)
    ≤ (Config.resolution k).num * (128 * ((l.den : Int) + 1))

/-- The output of a comparator on a sample: either one within the resolution, where it is `near` (R162). -/
def outputAt (k : TripIdx) (c : TripConfig) (l : Level) (near : Bool) : Bool :=
  if inDoubt k c l then near else isBeyond c l

/-- The consecutive beyond samples that fire a comparator (R163). -/
def fireCount (c : TripConfig) : Nat := match c.filter with | .f0 => 1 | .f1 => 48 | .f4 => 192 | .f16 => 768

/-! ### Events -/

/-- Events are offered one after another to the queue of port `q`; a DETACHED port takes none (R120). -/
def offered (s : State) (q : Port) (events : List Event) : EventQueue :=
  if s.attached q then events.foldl queuePut (s.queue q) else s.queue q

/-- An event formed now. -/
def eventNow (s : State) (kind : EventKind) (subject value : Nat) : Event := { kind, subject, value, timestamp := s.timebase }

/-- The LINE_ASSERTED events of adding a claimant to the lines of a mask: one for each line that was released, in
ascending order (R148, R150). -/
def assertedEvents (s : State) (mask : LineMask) : List Event :=
  ((allLines.filter (fun l : LineIdx => mask.getLsbD l)).filter (fun l => !s.lineAsserted l)).map
    (fun l => eventNow s .lineAsserted l.val 1)

/-- The LINE_RELEASED events of removing a claimant from the lines of a mask: one for each line that it alone held, in
ascending order (R149, R150). -/
def releasedEvents (s : State) (mask : LineMask) (c : Claimant) : List Event :=
  ((allLines.filter (fun l : LineIdx => mask.getLsbD l)).filter (fun l => s.claims l c && claimCount (s.line l) == 1)).map
    (fun l => eventNow s .lineReleased l.val 0)

/-- `t` is `s` but that claimant `c` was added to the lines of the mask, after the events `first`, with the line events
that follow. -/
abbrev ClaimsAdded (mask : LineMask) (c : Claimant) (first : List Event) (s t : State) : Prop :=
  (∀ l : LineIdx, ∀ k : Fin 15, (t.line l)[k] = ((s.line l)[k] || (k == claimantIndex c && mask.getLsbD l))) ∧
  (∀ q : Port, t.queue q = offered s q (first ++ assertedEvents s mask))

/-- `t` is `s` but that claimant `c` was removed from the lines of the mask, after the events `first`, with the line
events that follow. -/
abbrev ClaimsRemoved (mask : LineMask) (c : Claimant) (first : List Event) (s t : State) : Prop :=
  (∀ l : LineIdx, ∀ k : Fin 15, (t.line l)[k] = ((s.line l)[k] && !(k == claimantIndex c && mask.getLsbD l))) ∧
  (∀ q : Port, t.queue q = offered s q (first ++ releasedEvents s mask c))

/-- The lines that hold the claimant, as a mask (R195). -/
def linesWith (s : State) (c : Claimant) : LineMask := maskOfLines (fun l => s.claims l c)

/-- The asserted lines, as a mask. -/
def linesUp (s : State) : LineMask := maskOfLines (fun l => s.lineAsserted l)

/-! ### Points, triggers and departures -/

/-- The port subscribes to point `i`, live, in slot `k` alone. -/
abbrev Subscribes (p : Port) (i : PointIdx) (k : SlotIdx) (s : State) : Prop :=
  live (s.point i) = true ∧ p ∈ (s.point i).subscribers ∧
  ∀ j : SlotIdx, (s.slot p j).map (·.point) = some i ↔ j = k

/-- A trigger makes the entry DUE: it is ARMED with delay 0 (R35). -/
def goesDue (e : PointEntry) : Bool := e.state == .armed && e.key.delay == 0

/-- What a trigger does to the entry it reaches, while the converter is BUSY (R35, R41). -/
def triggered (e : PointEntry) : PointEntry :=
  match e.state with
  | .armed =>
    if e.key.delay = 0 then { e with state := .due, delayTimer := none }
    else { e with state := .delaying, delayTimer := some e.key.delay }
  | .delaying | .due | .converting | .suspended => { e with missed := min (e.missed + 1) 255 }
  | .free | .retiring => e

/-- Whether an edge reaches the entry (R34): its divider. -/
def edgeDivider (n : TrgIdx) (edge : Edge) (e : PointEntry) : Option Nat :=
  match e.key.trigger, e.state with
  | _, .free | _, .retiring => none
  | .line input .both divider, _ => if input = n then some divider else none
  | .line input .rise divider, _ => if input = n ∧ edge = .rising then some divider else none
  | .line input .fall divider, _ => if input = n ∧ edge = .falling then some divider else none
  | .periodic _, _ | .demand, _ => none

/-- The edge produces a trigger for the entry (R34). -/
def edgeTriggers (n : TrgIdx) (edge : Edge) (e : PointEntry) : Bool := edgeDivider n edge e == some (e.divider + 1)

/-- What an edge does to an entry, while the converter is BUSY (R34). -/
def edged (n : TrgIdx) (edge : Edge) (e : PointEntry) : PointEntry :=
  match edgeDivider n edge e with
  | none => e
  | some divider =>
    if e.divider + 1 = divider then triggered { e with divider := 0 } else { e with divider := e.divider + 1 }

/-- The points for which the edge makes work, in ascending index. -/
def edgeWork (n : TrgIdx) (edge : Edge) (s : State) : List PointIdx :=
  allPoints.filter (fun i => edgeTriggers n edge (s.point i) && goesDue (s.point i))

/-- The urgent points of a list. -/
def urgentOf (s : State) (work : List PointIdx) : List PointIdx := work.filter (fun i => (s.point i).key.urgent)

/-- The non-urgent points of a list that port `q` sponsors, as entries of its pending FIFO. -/
def pendingOf (s : State) (q : Port) (work : List PointIdx) : List Subject :=
  (work.filter (fun i => !(s.point i).key.urgent && (s.point i).subscribers.head? == some q)).map .point

/-- Nothing waits for the converter, and it is IDLE, with no grant decision due. -/
abbrev NothingWaits (s : State) : Prop :=
  s.converter = none ∧ s.decisionDue = false ∧ s.urgentQueue = [] ∧ s.suspended = none ∧ ∀ q : Port, s.fifo q = []

/-- What follows an enqueue that leaves `u`, from state `s`: a grant decision where it finds the converter IDLE, and nothing
where it finds it BUSY (R52). -/
def enqueuedThen (s u : State) : State :=
  if s.converter = none then grantDecision { u with decisionDue := false } else u

/-- A SAMPLE NOW frame on port `p` enqueues point `i` at once: the port executes it, and it passes every check (R39, R180,
R181). -/
def samples (i : PointIdx) (p : Port) (tag : Byte) (body : List Byte) (s : State) : Bool :=
  body == [BitVec.ofNat 8 i.val] && (s.port p).request == .ready && s.attached p &&
  (s.port p).cache.all (fun x => !(x.tag == tag && x.crc == crc16 (requestCovered tag 0x17 body))) &&
  (s.point i).subscribers.contains p && (s.point i).key.trigger == .demand && goesDue (s.point i)

/-- The next command in line is a trigger of point `i` that enqueues it at once, before any other point: an edge, its
periodic expiry, a SAMPLE NOW, or the byte that completes the frame of one (R34, R38, R39). -/
def enqueuedNext (i : PointIdx) (s : State) : Bool :=
  match s.pending with
  | .trgEdge n edge :: _ => s.trgLevels[n] != (edge == .rising) && (edgeWork n edge s).head? == some i
  | .periodicExpiry j :: _ =>
    j == i && (s.point i).countdown == some 0 && goesDue (s.point i) &&
      (match (s.point i).key.trigger with | .periodic _ => true | _ => false)
  | .sampleNow p tag body :: _ => frameCanComplete p tag 0x17 body s && samples i p tag body s
  | .byteTaken p b :: _ =>
    match (s.port p).receiver with
    | .checking len [tag, code, index] (some high) =>
      code == 0x17 && crcBytes [len, tag, code, index] == [high, b] && samples i p tag [index] s
    | _ => false
  | _ => false

/-- What follows the finalize of point `i` that leaves `u`: the grant decision; or, where the next command enqueues the point
again and the model's free choice lets that come first, a converter that is free with its decision due (R57, R88;
notes/assumptions/15.md). -/
def finalizedThen (i : PointIdx) (u : State) : State :=
  if enqueuedNext i u = true ∧ Config.decisionWaits u.draws u.pending.length = true then
    { u with converter := none, conversion := none, decisionDue := true }
  else grantDecision u

/-- The class of a point's burst (R46). -/
def classOf (e : PointEntry) : BurstClass := if e.key.urgent then .urgent else .background

/-- An entry whose burst has just been granted (R55). -/
def granted (e : PointEntry) : PointEntry :=
  { e with state := .converting, delayTimer := none, accumulator := 0, done := 0, stamp := none, satSoFar := false,
           resumedSoFar := false }

/-- The conversion of a point that begins in state `s` (R70, R71). -/
def firstConversion (e : PointEntry) (s : State) : Conversion where
  channel := e.key.channel
  gain := e.key.gain
  settle := e.key.settle
  gainSwitch := e.key.gain != s.lastGain
  elapsed := 0
  reading := none
  held := none

/-- The slots of the share wheel for each SHARE code (R51). -/
def wheelRow : StrapCode → List Port
  | 0 => [0, 1, 2, 3, 0, 1, 2, 3]
  | 1 => [0, 1, 0, 2, 0, 1, 0, 3]
  | 2 => [0, 1, 0, 1, 2, 0, 1, 3]
  | 3 => [0, 1, 0, 1, 0, 1, 0, 1]

/-- The port of slot `k` of the wheel. -/
def onWheel (share : StrapCode) (k : WheelSlot) : Port := (wheelRow share).getD k.val 0

/-- The slots of the wheel in scanning order: from the one after the position round to the position (R54). -/
def scanSlots (position : WheelSlot) : List WheelSlot :=
  (List.range 8).map (fun k => ⟨(position.val + 1 + k) % 8, by omega⟩)

/-- A burst of `b` holds the converter and its conversion `c` begins (R55, R70, R71). -/
abbrev Begins (b : Burst) (c : Conversion) (t : State) : Prop :=
  t.converter = some b ∧ t.conversion = some c ∧ t.lastGain = c.gain

/-- The wheel position after a grant that the scans make to this port: the first slot in scanning order that is the
port's, and the position unchanged where the port has no slot (R54). -/
def positionAfter (p : Option Port) (s : State) : WheelSlot :=
  ((scanSlots s.wheelPosition).find? (fun k => p == some (onWheel s.share k))).getD s.wheelPosition

/-- Point `i`, which alone waits, is granted: its burst begins, billed to its sponsor's urgent grants when it is urgent,
and otherwise, under the scans, to its wheel grants (R53, R55, R56). -/
abbrev GrantedAlone (i : PointIdx) (s t : State) : Prop :=
  let e := s.point i
  let sponsor := e.subscribers.head?
  Begins { subject := .point i, burstClass := classOf e, length := oversampleCount e.key.oversample }
    (firstConversion e s) t ∧
  (∀ q : Port, t.urgentGrant q = s.urgentGrant q + (if e.key.urgent ∧ sponsor = some q then 1 else 0)) ∧
  (∀ q : Port, t.wheelGrant q = s.wheelGrant q + (if e.key.urgent = false ∧ sponsor = some q then 1 else 0)) ∧
  t.wheelPosition = if e.key.urgent then s.wheelPosition else positionAfter sponsor s

/-- An entry whose list port `p` has left (R17, R18). -/
def departed (p : Port) (e : PointEntry) : PointEntry :=
  if p ∈ e.subscribers then
    match e.subscribers.erase p with
    | [] => if e.state = .converting then
        { e with state := .retiring, subscribers := [], divider := 0, countdown := none, delayTimer := none }
      else .cleared
    | rest => { e with subscribers := rest }
  else e

/-- The monitor entry after its creator `p` has left the points for which `on` holds (R142). -/
def monitorLeft (p : Port) (on : PointIdx → Bool) (m : Option Monitor) : Option Monitor :=
  m.filter (fun m => !(m.creator == p && on m.point))

/-- A monitor of `p` on such a point holds a claim on line `l` (R141). -/
def convertsTo (p : Port) (on : PointIdx → Bool) (s : State) (l : LineIdx) : Bool :=
  allMonitors.any (fun k => (s.monitor k).any (fun m => m.creator == p && on m.point && heldLine m == some l))

/-- The monitors that `p` created on such points are deleted, with their held claims turned into HOST claims of `p`;
no event is formed and no line changes (R141, R142). -/
abbrev MonitorsLeave (p : Port) (on : PointIdx → Bool) (s t : State) : Prop :=
  (∀ k : MonitorIdx, t.monitor k = monitorLeft p on (s.monitor k)) ∧
  (∀ l : LineIdx, ∀ h : Port, t.claims l (.host h) = (s.claims l (.host h) || (h == p && convertsTo p on s l))) ∧
  (∀ l : LineIdx, ∀ k : MonitorIdx, t.claims l (.monitor k) = (s.claims l (.monitor k) && (t.monitor k).isSome)) ∧
  (∀ l : LineIdx, t.claims l .start = s.claims l .start ∧ t.lineAsserted l = s.lineAsserted l ∧
    ∀ k : TripIdx, t.claims l (.trip k) = s.claims l (.trip k)) ∧
  t.queues = s.queues

/-- The non-urgent DUE points that pass from sponsor `p` to `q`, in the slot order of `p` (R6, R63, R65). -/
def handedOver (p q : Port) (s : State) : List Subject :=
  allSlots.filterMap (fun k => (s.slot p k).bind (fun u =>
    let e := s.point u.point
    if e.state = .due ∧ e.key.urgent = false ∧ e.subscribers.head? = some p ∧ (e.subscribers.erase p).head? = some q
    then some (.point u.point) else none))

/-- The suspended burst belongs to a point whose only subscriber is `p`. -/
def suspendedLeaves (p : Port) (s : State) : Bool :=
  s.suspended.any (fun b => match b.subject with
    | .point i => (s.point i).subscribers == [p]
    | .job _ => false)

/-- Rows 1 to 3 of R189: the port leaves every point, its QUEUED calibration jobs return to NONE and its comparators
become unheld; nothing else changes. -/
abbrev Departs (p : Port) (s t : State) : Prop :=
  t = { s with points := t.points, subs := t.subs, urgentQueue := t.urgentQueue, fifos := t.fifos,
               suspended := t.suspended, jobs := t.jobs, monitors := t.monitors, lines := t.lines,
               comparators := t.comparators } ∧
  (∀ i : PointIdx, t.point i = departed p (s.point i)) ∧
  (∀ q : Port, t.slots q = if q = p then Vector.replicate 16 none else s.slots q) ∧
  t.urgentQueue = s.urgentQueue.filter (fun i => (s.point i).subscribers != [p]) ∧
  (∀ q : Port, t.fifo q = if q = p then [] else s.fifo q ++ handedOver p q s) ∧
  t.suspended = (if suspendedLeaves p s then none else s.suspended) ∧
  (∀ g ∈ allGains, t.job g =
    if (s.job g).state = .queued ∧ (s.job g).requester = some p then .idle else s.job g) ∧
  (∀ k : TripIdx, t.comparator k =
    { s.comparator k with holder := if (s.comparator k).holder = some p then none else (s.comparator k).holder }) ∧
  MonitorsLeave p (fun _ => true) s t

/-- A port whose session has ended (R188 to R190). -/
def endedPort (h : HostPort) : HostPort :=
  { h with cache := none, supervision := none, session := .detached, detaching := false }

/-- A ring whose session has ended (R124). -/
def endedRing (r : Ring) : Ring := { r with window := [], unsent := [], pendingLost := 0 }

end Sys2Proof.Statement

open Sys2Proof Sys2Proof.Machine Sys2Proof.Safety Sys2Proof.Statement

/-! ### Steps, reset and time -/

/-- A step takes the command at the front of the queue and runs it with the queue's rest (the queue is the model's,
notes/assumptions/7.md). -/
def Obligations.StepRunsFrontCommand : Prop :=
  ∀ (c : Instr) (rest : List Instr) (s : State),
    step { s with pending := c :: rest } = exec c { s with pending := rest }

/-- Every command answers a next state in every state, and leaves the queue of waiting commands and the model's own
draw counter alone.  The model's own choice (notes/assumptions/3.md): so does an event that cannot occur in the state at
hand. -/
def Obligations.EveryCommandAnswersNext : Prop :=
  ∀ (c : Instr) (s : State), ∃ t, exec c s = .next t ∧ t.pending = s.pending ∧ t.draws = s.draws

/-- Every block's values after full reset (R30, R45, R67, R85, R102, R125, R146, R160, R172, R194), and the outputs. -/
abbrev Sys2Proof.Statement.FullResetValues (t : State) : Prop :=
  t.resetLow = true ∧ t.timebase = 0 ∧
  (∀ i : PointIdx, (t.point i).state = .free ∧ (t.point i).subscribers = [] ∧ (t.point i).sequence = 0 ∧
    (t.point i).missed = 0 ∧ (t.point i).divider = 0 ∧ (t.point i).countdown = none ∧
    (t.point i).delayTimer = none ∧ (t.point i).accumulator = 0 ∧ (t.point i).done = 0 ∧
    (t.point i).stamp = none ∧ (t.point i).satSoFar = false ∧ (t.point i).resumedSoFar = false) ∧
  (∀ p : Port, ∀ k : SlotIdx, t.slot p k = none) ∧
  t.urgentQueue = [] ∧ (∀ p : Port, t.fifo p = []) ∧ t.suspended = none ∧ t.converter = none ∧
  t.conversion = none ∧ t.decisionDue = false ∧ t.wheelPosition = 7 ∧ (∀ p : Port, t.urgentGrant p = 0 ∧ t.wheelGrant p = 0) ∧
  t.lastGain = .g1 ∧
  (∀ g ∈ allGains, t.trimEntry g = { state := .uncalibrated, trim := 0 } ∧
    t.job g = { state := .none, requester := none, done := 0, partialSum := 0 }) ∧
  (∀ p : Port, (t.ring p).window = [] ∧ (t.ring p).unsent = [] ∧ (t.ring p).token = 0 ∧
    (t.ring p).pendingLost = 0 ∧ (t.ring p).totalLost = 0 ∧ (t.queue p).events = [] ∧ (t.queue p).lost = 0) ∧
  (∀ k : MonitorIdx, t.monitor k = none) ∧
  (∀ l : LineIdx, ∀ k : Fin 15, (t.line l)[k] = (k == 0)) ∧
  (∀ k : TripIdx, (t.comparator k).config = { input := 0, step := 0, polarity := .above, filter := .f0, mask := 0 } ∧
    (t.comparator k).state = .off ∧ (t.comparator k).holder = none ∧ (t.comparator k).run = 0 ∧
    (t.comparator k).claimed = 0) ∧
  (∀ p : Port, (t.port p).receiver = .hunting false ∧ (t.port p).interByte = none ∧ (t.port p).framingErrors = 0 ∧
    (t.port p).request = .ready ∧ (t.port p).busy = none ∧ (t.port p).cache = none ∧
    (t.port p).session = .detached ∧ (t.port p).sessionId = 0 ∧ (t.port p).supervision = none ∧
    (t.port p).rxByte = none ∧ (t.port p).sending = none) ∧
  (∀ l : LineIdx, t.inhHigh l = true) ∧
  (∀ p : Port, t.alertAsserted p = false ∧ t.txdIdle p = true ∧ t.txdHigh p = true)

/-- FULL_RESET brings every block to the values its chapter gives for full reset, from any state, and State.reset has
the same values: points FREE, slots free, queues empty, converter IDLE, wheel position 7, counters 0, last gain 1, trims
UNCALIBRATED, jobs NONE, rings and event queues empty, monitors free, every claim set {START}, comparators OFF, ports
DETACHED and READY, INH high, ALERT deasserted, TXD idle high.  That RST_N is still low right after full reset is the model's
choice (notes/assumptions/1.md). -/
def Obligations.FullResetValuesOfEveryBlock : Prop :=
  FullResetValues State.reset ∧ ∀ (s : State), ∃ t, exec .fullReset s = .next t ∧ FullResetValues t

/-- RESET_RELEASE samples the straps and takes the trigger levels present as accepted levels; the timebase begins to
count from 0; nothing else changes, and a line held by START stays asserted on both sides of the release.  The model's
own choices: that a whole period passes before the first tick, and the detectors' latest samples, at the release
(notes/assumptions/2.md); that the row brings the levels its pins stand at (8.md); and that while RST_N is low no command
but FULL_RESET and RESET_RELEASE changes anything, and no time passes (1.md). -/
def Obligations.ResetIsHeldUntilItsRelease : Prop :=
  ∀ (share cdiv baud : StrapCode) (levels : Vector Bool 6) (s : State), s.resetLow = true →
    exec (.resetRelease share cdiv baud levels) s =
      .next { s with resetLow := false, share := share, cdiv := cdiv, baud := baud, clkPhase := 0, timebase := 0,
                     pins := { s.pins with trg := levels }, trgLevels := levels, trgSamples := levels } ∧
    (∀ l : LineIdx, s.claims l .start = true → s.inhHigh l = true ∧ s.lineAsserted l = true) ∧
    (∀ c : Instr, c ≠ .fullReset → (∀ sh cd bd lv, c ≠ .resetRelease sh cd bd lv) → exec c s = .next s) ∧
    (s.pending = [] → step s = .next s)

/-- CLK periods from the beginning of a conversion to its sample instant: CDIV gives 2, 4, 8 or 16 CLK periods to a CCLK
period; a gain switch takes 4 CCLK and settling 2 + settle code CCLK (R70). -/
def Sys2Proof.Statement.settledAt (cdiv : StrapCode) (c : Conversion) : Nat :=
  ((if c.gainSwitch then 4 else 0) + (2 + c.settle.val)) * 2 ^ (cdiv.val + 1)

/-- CLK periods from the beginning of a conversion to its completion: the approximation takes 13 CCLK more (R70). -/
def Sys2Proof.Statement.completedAt (cdiv : StrapCode) (c : Conversion) : Nat :=
  settledAt cdiv c + 13 * 2 ^ (cdiv.val + 1)

/-- What the channel of a conversion presents: the level of its AIN pin, or for ZERO the offset (R68, R69). -/
def Sys2Proof.Statement.inputOf (s : State) (c : Conversion) : Level :=
  if h : c.channel.val < 16 then s.pins.ain[c.channel.val]
  else Config.zeroOffset s.draws (match c.gain with | .g1 => 0 | .g2 => 1 | .g4 => 2 | .g8 => 3)

/-- The conversion in progress after one more CLK period, with the timebase at `now`: at the sample instant the timebase
is read and the amplified level is held; the count stops at the completion (R70, R72). -/
def Sys2Proof.Statement.converted (cdiv : StrapCode) (now : TimeReading) (input : Level) (c : Conversion) : Conversion :=
  if c.elapsed + 1 = settledAt cdiv c then
    { c with elapsed := c.elapsed + 1, reading := some now, held := some (amplified c.channel c.gain input) }
  else if c.elapsed < completedAt cdiv c then { c with elapsed := c.elapsed + 1 }
  else c

/-- The output that comparator Tk samples at the next CLK period, after which State.draws stands one higher (R162). -/
def Sys2Proof.Statement.sampleOf (s : State) (k : TripIdx) : Bool :=
  let c := (s.comparator k).config
  outputAt k c s.pins.ain[c.input] (Config.nearOutput (s.draws + 1) k)

/-- That sample fires comparator Tk: it completes the run (R163). -/
def Sys2Proof.Statement.firesAt (s : State) (k : TripIdx) : Bool :=
  let c := s.comparator k
  c.state == .watching && sampleOf s k && c.run + 1 == fireCount c.config

/-- A comparator after a sample (R162, R163). -/
def Sys2Proof.Statement.counted (output : Bool) (c : Comparator) : Comparator :=
  { c with beyond := output,
           run := if c.state = .watching then (if output then c.run + 1 else 0) else c.run }

/-- Bits a second of the lines (R173). -/
def Sys2Proof.Statement.rate (baud : StrapCode) : Nat := [115200, 460800, 921600, 2000000].getD baud.val 0

/-- The middle of the next bit of the arriving byte is reached with the next CLK period, of 48 million a second. -/
def Sys2Proof.Statement.middle (baud : StrapCode) (x : LineByte) : Bool :=
  (2 * x.bits.length + 1) * 48000000 ≤ 2 * (x.elapsed + 1) * rate baud

/-- The line receiver after one more CLK period at this level: a low level while it waits is a start bit; each bit is
sampled once, at its middle; a stop bit that is high ends the byte, and after one that is low the rest of the byte time
passes (R173; notes/assumptions/14.md). -/
def Sys2Proof.Statement.received (baud : StrapCode) (high : Bool) : Option LineByte → Option LineByte
  | none => if high then none else some { elapsed := 0, bits := [] }
  | some x =>
    if x.bits.length < 10 then
      if x.bits.length = 9 ∧ middle baud x = true ∧ high = true then none
      else some { elapsed := x.elapsed + 1, bits := if middle baud x then x.bits ++ [high] else x.bits }
    else if 20 * 48000000 ≤ 2 * (x.elapsed + 1) * rate baud then
      if high then none else some { elapsed := 0, bits := [] }
    else some { elapsed := x.elapsed + 1, bits := x.bits }

/-- The transmitter after one more CLK period: it counts until the 10 bits of every byte have been sent (R173). -/
def Sys2Proof.Statement.transmitted (baud : StrapCode) (x : Transmission) : Transmission :=
  if x.elapsed * rate baud < 10 * x.bytes.length * 48000000 then { x with elapsed := x.elapsed + 1 } else x

/-- A timer after this CLK period. -/
def Sys2Proof.Statement.timed (s : State) (timer : Option Nat) : Option Nat :=
  if s.clkPhase = 47 then timer.map (· - 1) else timer

/-- With no command waiting, a step takes a grant decision that is due; with none due it is one CLK period.  Every 48th is a tick: the timebase counts one, wrapping, and every running periodic countdown, delay timer,
inter-byte timer and supervision timer loses one.  In every one the edge detectors take their samples, the comparators
theirs (one that is to fire is taken at its TRIP_FIRING), the conversion counts and at its sample instant reads the timebase
and holds the amplified level, and the lines go on; TXDn carries start bit, data bits from the least significant, stop bit,
of one byte after another.  Nothing else changes.  The model's choices: that the row-less CLK period is this step, and that
a sample instant on a tick reads the advanced count (notes/assumptions/5.md); the pins as fields of State (8.md); the CLK
periods at which the bits of a response stand on TXDn and end (10.md); the offset of ZERO and the output within the
resolution as free values (13.md); the line receiver between its rules (14.md); a decision that is due while no command waits, which no run
brings about, is taken by this step (15.md). -/
def Obligations.ClkPeriodAdvancesTheClockedParts : Prop :=
  (∀ (s : State), s.resetLow = false → s.pending = [] → s.decisionDue = true →
    step s = .next (grantDecision { s with decisionDue := false })) ∧
  ∀ (s : State), s.resetLow = false → s.pending = [] → s.decisionDue = false → s.clkPhase ≤ 47 →
    ∃ t, step s = .next t ∧
      t = { s with clkPhase := if s.clkPhase = 47 then 0 else s.clkPhase + 1,
                   timebase := if s.clkPhase = 47 then s.timebase + 1 else s.timebase,
                   trgSamples := s.pins.trg,
                   conversion := s.conversion.map (fun c => converted s.cdiv t.timebase (inputOf s c) c),
                   points := t.points, comparators := t.comparators, ports := t.ports, pending := t.pending,
                   draws := s.draws + 1 } ∧
      (∀ i : PointIdx, t.point i =
        { s.point i with countdown := timed s (s.point i).countdown, delayTimer := timed s (s.point i).delayTimer }) ∧
      (∀ k : TripIdx, t.comparator k =
        if firesAt s k then s.comparator k else counted (sampleOf s k) (s.comparator k)) ∧
      (∀ p : Port, t.port p =
        { s.port p with interByte := timed s (s.port p).interByte, supervision := timed s (s.port p).supervision,
                        rxByte := received s.baud s.pins.rxd[p] (s.port p).rxByte,
                        sending := (s.port p).sending.map (transmitted s.baud) }) ∧
      (∀ p : Port, (s.port p).sending = none → s.txdHigh p = true) ∧
      (∀ p : Port, ∀ x ∈ (s.port p).sending, ∀ n j : Nat, ∀ b ∈ x.bytes[n]?, j < 10 →
        x.elapsed * rate s.baud / 48000000 = 10 * n + j →
        s.txdHigh p = if j = 0 then false else if j = 9 then true else b.getLsbD (j - 1))

/-- The point whose timer an expiry is. -/
def Sys2Proof.Statement.expiryPoint : Instr → Option PointIdx
  | .periodicExpiry i | .delayExpiry i => some i
  | _ => none

/-- The line of port `p` ends a byte at the next CLK period: the nine bits before its stop bit are held, and the middle
of the stop bit is reached. -/
abbrev Sys2Proof.Statement.StopBitNow (p : Port) (x : LineByte) (s : State) : Prop :=
  (s.port p).rxByte = some x ∧ x.bits.length = 9 ∧ middle s.baud x = true

/-- The line of port `p` delivers a byte or a byte error at the next CLK period, and the model's free choice is that the
frame receiver takes it before an expiry at the same tick (R175; notes/assumptions/4.md). -/
abbrev Sys2Proof.Statement.TakenBeforeExpiry (p : Port) (s : State) : Prop :=
  (∃ x, StopBitNow p x s) ∧ Config.byteFirst s.draws p = true

/-- What comes about in one CLK period, each once, as the commands then waiting.  At a tick, each timer that reaches 0
expires; an inter-byte timer does not where a byte that ends in the same period is taken first.  In every period: an edge,
where a level other than the accepted one is sampled a second time; the sample that completes a comparator's run; the
completion of a conversion; the byte whose stop bit is sampled high, bit k of it the (k + 1)th after the start bit, and a
byte error where it is low; the end of a response.  Expiries of points stand in ascending index, and an inter-byte expiry
before the byte.  The model's choices: the other places among them are free (notes/assumptions/4.md); the row-less CLK
period is this step, and what comes about in it becomes commands (5.md); what the pins stand at is the outside's (8.md);
the CLK period that ends a response (10.md); the output within a comparator's resolution and the offset that ZERO presents
are free values (13.md); the bits of an arriving byte are sampled at their middles (14.md). -/
def Obligations.ClkPeriodQueuesWhatComesAbout : Prop :=
  ∀ (s : State), s.resetLow = false → s.pending = [] → s.decisionDue = false → s.clkPhase ≤ 47 →
    ∃ t, step s = .next t ∧ t.pending.Nodup ∧
      (t.pending.filterMap Sys2Proof.Statement.expiryPoint).Pairwise (· ≤ ·) ∧
      (∀ p : Port, ∀ c : Instr, (∃ b, c = .byteTaken p b) ∨ c = .framingError p .byteError →
        c ∈ t.pending → .interByteTimeout p ∈ t.pending → [.interByteTimeout p, c].Sublist t.pending) ∧
      ∀ c : Instr, c ∈ t.pending ↔
        (s.clkPhase = 47 ∧
          ((∃ i : PointIdx, c = .periodicExpiry i ∧ (s.point i).countdown = some 1) ∨
           (∃ i : PointIdx, c = .delayExpiry i ∧ (s.point i).delayTimer = some 1) ∨
           (∃ p : Port, c = .interByteTimeout p ∧ (s.port p).interByte = some 1 ∧ ¬TakenBeforeExpiry p s) ∨
           (∃ p : Port, c = .supervisionExpiry p ∧ (s.port p).supervision = some 1))) ∨
        (∃ n : TrgIdx, c = .trgEdge n (if s.pins.trg[n] then .rising else .falling) ∧
          s.pins.trg[n] = s.trgSamples[n] ∧ s.pins.trg[n] ≠ s.trgLevels[n]) ∨
        (∃ k : TripIdx, c = .tripFiring k ∧ firesAt s k = true) ∨
        (∃ x ∈ s.conversion, c = .conversionCompletion (inputOf s x) ∧ x.elapsed + 1 = completedAt s.cdiv x) ∨
        (∃ p x b, c = .byteTaken p b ∧ StopBitNow p x s ∧ s.pins.rxd[p] = true ∧
          ∀ k < 8, x.bits[k + 1]? = some (b.getLsbD k)) ∨
        (∃ p x, c = .framingError p .byteError ∧ StopBitNow p x s ∧ s.pins.rxd[p] = false) ∨
        (∃ p, ∃ x ∈ (s.port p).sending, c = .responseSent p ∧
          x.elapsed * rate s.baud < 10 * x.bytes.length * 48000000 ∧
          10 * x.bytes.length * 48000000 ≤ (x.elapsed + 1) * rate s.baud)

/-! ### The link -/

/-- Taking the remaining bytes of a good frame one after another has the effect of the row of that frame: every request
row (with the CODE of R199), UNKNOWN_REQUEST, and on an EXECUTING port BUSY_REPLY.  That a row stands for the rest of its
frame is the model's choice (notes/assumptions/9.md). -/
def Obligations.BytesOfAFrameAreItsCommand : Prop :=
  ∀ (c : Instr) (p : Port) (tag code : Byte) (body : List Byte) (s : State),
    goodFrameOf c = some (p, tag, code, body) → c.wellFormed = true → s.resetLow = false →
    ReceiverLaw (s.port p) → frameCanComplete p tag code body s = true →
    (c = .busyReply p tag code body → (s.port p).request = .executing) →
    takeAll p ((requestFrame tag code body).drop (receiverHolds (s.port p).receiver).length) s = exec c s

/-- The frame receiver at each byte with a good stop bit that does not complete a frame with agreeing CRC bytes, at each
malformed byte and at its timeout (R174, R175).  A byte that moves the receiver on loads the inter-byte timer with 1,000
microseconds.  A LEN out of range, a byte error, a bad CRC and a timeout discard the partial frame and count one framing
error, saturating; of a run of bad start bytes the first is counted.  Nothing else of the port or the part changes.  The
model's choices: a malformed byte that cannot come in the receiver's state, and a timeout in HUNTING or of a timer that has
not reached 0, have no effect (notes/assumptions/3.md); LEN out of range in HUNTING stands for the start byte with it, and the cause bad CRC, in every
state, for the rest of a frame whose CRC bytes disagree (9.md). -/
def Obligations.ReceiverTakesBytesAndErrors : Prop :=
  ∀ (p : Port) (b : Byte) (s : State), s.resetLow = false →
    let moves := fun r => s.modPort p (fun h => { h with receiver := r, interByte := some 1000 })
    let discards := s.modPort p (fun h =>
      { h with receiver := .hunting false, interByte := none, framingErrors := oneErrorMore h.framingErrors })
    let timesOut := if (s.port p).interByte = some 0 then discards else s
    match (s.port p).receiver with
    | .hunting run =>
      let badStart := s.modPort p (fun h =>
        { h with receiver := .hunting true,
                 framingErrors := if run then h.framingErrors else oneErrorMore h.framingErrors })
      exec (.byteTaken p b) s = .next (if b = 0xA5 then moves .length else badStart) ∧
      exec (.framingError p .badStart) s = .next badStart ∧ exec (.framingError p .byteError) s = .next badStart ∧
      exec (.framingError p .lenOutOfRange) s = .next discards ∧ exec (.framingError p .badCrc) s = .next discards ∧
      exec (.interByteTimeout p) s = .next s
    | .length =>
      exec (.byteTaken p b) s = .next (if 2 ≤ b.toNat ∧ b.toNat ≤ 250 then moves (.collecting b []) else discards) ∧
      exec (.framingError p .lenOutOfRange) s = .next discards ∧
      exec (.framingError p .byteError) s = .next discards ∧ exec (.interByteTimeout p) s = .next timesOut ∧
      exec (.framingError p .badStart) s = .next s ∧ exec (.framingError p .badCrc) s = .next discards
    | .collecting len taken =>
      exec (.byteTaken p b) s = .next
        (if taken.length + 1 = len.toNat then moves (.checking len (taken ++ [b]) none)
         else moves (.collecting len (taken ++ [b]))) ∧
      exec (.framingError p .byteError) s = .next discards ∧ exec (.interByteTimeout p) s = .next timesOut ∧
      exec (.framingError p .badStart) s = .next s ∧ exec (.framingError p .lenOutOfRange) s = .next s ∧
      exec (.framingError p .badCrc) s = .next discards
    | .checking len taken high =>
      (high = none → exec (.byteTaken p b) s = .next (moves (.checking len taken (some b)))) ∧
      (∀ h ∈ high, crcBytes (len :: taken) ≠ [h, b] →
        exec (.byteTaken p b) s = .next discards) ∧
      exec (.framingError p .byteError) s = .next discards ∧ exec (.interByteTimeout p) s = .next timesOut ∧
      exec (.framingError p .badStart) s = .next s ∧ exec (.framingError p .lenOutOfRange) s = .next s ∧
      exec (.framingError p .badCrc) s = .next discards

/-- The checks the port makes itself on a fresh good frame, in their order: session, known code, length (R181, with the
table of R199).  Each refusal changes nothing but the port that answers it. -/
def Obligations.CommonChecksComeInOrder : Prop :=
  ∀ (c : Instr) (p : Port) (tag code : Byte) (body : List Byte) (s : State),
    requestFrameOf c = some (p, tag, code, body) → c.wellFormed = true → Arrives p tag code body s →
    (s.attached p = false → (∀ n, (code.toNat, n, true) ∉ codeTable) → Refuses c p tag code body .notAttached s) ∧
    (s.attached p = true → (∀ n d, (code.toNat, n, d) ∉ codeTable) → Refuses c p tag code body .unknownRequest s) ∧
    (∀ n d, (code.toNat, n, d) ∈ codeTable → (s.attached p = true ∨ d = true) → body.length ≠ n →
      Refuses c p tag code body .badLength s)

/-- Good frames that are not executed.  On a READY port, one that repeats TAG and CRC of the cached request gets the cached
response again.  On an EXECUTING port, its BUSY reply waits, or, when one waits already, the frame is discarded and
counted.  In each case nothing changes but that port, and its cache stays. -/
def Obligations.DuplicatesAndBusyFramesAreNotExecuted : Prop :=
  ∀ (c : Instr) (p : Port) (tag code : Byte) (body : List Byte) (s : State),
    goodFrameOf c = some (p, tag, code, body) → c.wellFormed = true → s.resetLow = false →
    frameCanComplete p tag code body s = true →
    ((s.port p).request = .ready → c ≠ .busyReply p tag code body → ∀ e ∈ (s.port p).cache, e.tag = tag →
      e.crc = crc16 (requestCovered tag code body) →
      exec c s = .next (s.modPort p (fun h =>
        { h with receiver := .hunting false, interByte := none, request := .executing, supervision := none,
                 sending := some { bytes := e.response, elapsed := 0 } }))) ∧
    ((s.port p).request = .executing →
      exec c s = .next (s.modPort p (fun h => match h.busy with
        | none => { h with receiver := .hunting false, interByte := none, busy := some (tag, code) }
        | some _ =>
          { h with receiver := .hunting false, interByte := none, framingErrors := oneErrorMore h.framingErrors })))

/-- At the end of a response that is not a DETACH's, a waiting BUSY reply is sent and the port stays EXECUTING; with none
waiting the port becomes READY, TXD idle, and an ATTACHED port with an interval loads its supervision timer with the
interval times 10,000 microseconds.  That the command is taken however many bits of the response have been sent is the
model's choice (notes/assumptions/3.md, 10.md). -/
def Obligations.EndOfResponse : Prop :=
  ∀ (p : Port) (s : State), s.resetLow = false → (s.port p).request = .executing → (s.port p).detaching = false →
    exec (.responseSent p) s = .next (s.modPort p (fun h => match h.busy with
      | some (tag, code) => { h with busy := none, sending := some { bytes := busyBytes tag code, elapsed := 0 } }
      | none =>
        { h with request := .ready, sending := none,
                 supervision := if h.session = .attached ∧ h.interval ≠ 0 then some (h.interval * 10000) else none }))

/-! ### Sessions -/

/-- ATTACH with fields in range starts a session on a DETACHED port: the session id rises by one, ring and event queue
are new, the interval is stored; the answer carries the id and the lines the port's HOST claims hold.  Out-of-range
fields are refused, and so is an ATTACH on an ATTACHED port. -/
def Obligations.AttachStartsASession : Prop :=
  ∀ (p : Port) (tag interval policy watermark : Byte) (s : State),
    Arrives p tag 0x01 [interval, policy, watermark] s →
    let body := [interval, policy, watermark]
    let c := Instr.attach p tag body
    if 1 < policy.toNat ∨ watermark.toNat = 0 ∨ 64 < watermark.toNat then Refuses c p tag 0x01 body .badField s
    else if s.attached p then Refuses c p tag 0x01 body .alreadyAttached s
    else exec c s = .next (answered p tag 0x01 body
      (okAnswer [(s.port p).sessionId + 1, (linesWith s (.host p)).setWidth 8])
      ((((atOwner p s).setRing p
          { window := [], unsent := [], policy := if policy = 0 then .keepOldest else .keepNewest,
            watermark := watermark.toNat, token := 0, pendingLost := 0, totalLost := 0 }).setQueue p
          { events := [], lost := 0 }).modPort p
        (fun h => { h with sessionId := h.sessionId + 1, interval := interval.toNat, session := .attached })))

/-- DETACH is refused with CLAIMS_HELD while HOST p stands in a claim set or a monitor of the port holds a claim.
Otherwise it is answered OK and rows 1 to 3 of R189 are taken before the response; the port stays ATTACHED and EXECUTING
until the response has been sent. -/
def Obligations.DetachTakesItsFirstStage : Prop :=
  ∀ (p : Port) (tag : Byte) (s : State), Asks p tag 0x02 [] s → TableLaws s → ClaimLaws s →
    ((∃ l : LineIdx, s.claims l (.host p) = true) ∨ (∃ k : MonitorIdx, ∃ m ∈ s.monitor k, m.creator = p ∧ m.claimHeld = true) →
      Refuses (.detach p tag []) p tag 0x02 [] .claimsHeld s) ∧
    ((∀ l : LineIdx, s.claims l (.host p) = false) → (∀ k : MonitorIdx, ∀ m ∈ s.monitor k, m.creator = p → m.claimHeld = false) →
      ∃ u, Departs p (atOwner p s) u ∧
        exec (.detach p tag []) s =
          .next (answered p tag 0x02 [] (okAnswer []) (u.modPort p (fun h => { h with detaching := true }))))

/-- At the end of the DETACH response the ring and the event queue are emptied (the total-lost count stays), the
duplicate cache is emptied, the port becomes DETACHED, PEER_LEFT with the session id goes to every other ATTACHED port,
and then a waiting BUSY reply is sent or the port becomes READY.  The model's choices: the window token, the policy, the
watermark and the interval keep their values, which nothing reads until the next ATTACH (notes/assumptions/12.md); the
command is taken however many bits of the response have been sent (3.md, 10.md). -/
def Obligations.DetachSecondStageAtEndOfResponse : Prop :=
  ∀ (p : Port) (s : State), s.resetLow = false → (s.port p).request = .executing → (s.port p).detaching = true →
    ∃ t, exec (.responseSent p) s = .next t ∧
      t = { s with rings := t.rings, queues := t.queues, ports := t.ports } ∧
      (∀ q : Port, t.ring q = if q = p then endedRing (s.ring p) else s.ring q) ∧
      (∀ q : Port, t.queue q = if q = p then .empty
        else offered s q [eventNow s .peerLeft p.val (s.port p).sessionId.toNat]) ∧
      (∀ q : Port, t.port q = if q = p then (match (s.port p).busy with
          | some (tag, code) =>
            { endedPort (s.port p) with busy := none, sending := some { bytes := busyBytes tag code, elapsed := 0 } }
          | none => { endedPort (s.port p) with request := .ready, sending := none })
        else s.port q) ∧
      t.alertAsserted p = false

/-- The session of an ATTACHED, READY port ends when its supervision timer expires: every row of R189 in one act.  The
claims of its monitors become HOST claims, which stay; no line changes; the other ATTACHED ports are told PEER_LOST with
the session id.  On another port, or while the timer has not reached 0, nothing happens.  The model's choices: an expiry
that does not occur has no effect (notes/assumptions/3.md); the window token, the policy, the watermark and the interval
keep their values, which nothing reads until the next ATTACH (12.md). -/
def Obligations.SupervisionExpiryEndsTheSession : Prop :=
  ∀ (p : Port) (s : State), s.resetLow = false →
    (s.attached p = false ∨ (s.port p).request = .executing ∨ (s.port p).supervision ≠ some 0 →
      exec (.supervisionExpiry p) s = .next s) ∧
    (s.attached p = true → (s.port p).request = .ready → (s.port p).supervision = some 0 → TableLaws s → ClaimLaws s →
    ∃ u t, Departs p s u ∧ exec (.supervisionExpiry p) s = .next t ∧
      t = { u with rings := t.rings, queues := t.queues, ports := t.ports } ∧
      (∀ q : Port, t.ring q = if q = p then endedRing (s.ring p) else s.ring q) ∧
      (∀ q : Port, t.queue q = if q = p then .empty
        else offered s q [eventNow s .peerLost p.val (s.port p).sessionId.toNat]) ∧
      (∀ q : Port, t.port q = if q = p then endedPort (s.port p) else s.port q) ∧
      t.alertAsserted p = false)

/-- PING, in either session state, is answered OK with the timebase, the session state and the session id; it changes
nothing but the port that answers it, and the end of its response reloads the supervision timer of an ATTACHED port with
an interval set.  That the end of the response is taken right after the request, before its bits have been sent, is the
model's choice (notes/assumptions/3.md, 10.md). -/
def Obligations.PingReportsTimeAndSession : Prop :=
  ∀ (p : Port) (tag : Byte) (s : State), Arrives p tag 0x03 [] s → (s.port p).busy = none →
    (s.port p).detaching = false →
    ∃ t u, exec (.ping p tag []) s = .next t ∧ exec (.responseSent p) t = .next u ∧
      t = answered p tag 0x03 [] (okAnswer
        [BitVec.extractLsb' 24 8 s.timebase, BitVec.extractLsb' 16 8 s.timebase, BitVec.extractLsb' 8 8 s.timebase,
         BitVec.extractLsb' 0 8 s.timebase, if s.attached p then 1 else 0, (s.port p).sessionId]) (atOwner p s) ∧
      (s.attached p = true → (s.port p).interval ≠ 0 →
        (u.port p).supervision = some ((s.port p).interval * 10000))

/-- The status requests are answered OK with the report of the state as it stands, byte for byte in the layouts of R205,
and change nothing but the port that answers: PART STATUS in either session state; POINT STATUS, LIST SUBSCRIPTIONS, TRIM STATUS, MONITOR STATUS, LINE STATUS
and TRIP STATUS on an ATTACHED port, POINT STATUS being refused with BAD_FIELD for an index above 31. -/
def Obligations.StatusRequestsChangeNothing : Prop :=
  ∀ (p : Port) (tag index : Byte) (s : State),
    (Arrives p tag 0x04 [] s →
      exec (.partStatus p tag []) s = .next (answered p tag 0x04 [] (okAnswer (partLayout s)) (atOwner p s))) ∧
    (Asks p tag 0x15 [index] s → (h : index.toNat < 32) →
      exec (.pointStatus p tag [index]) s =
        .next (answered p tag 0x15 [index] (okAnswer (pointLayout (s.point ⟨index.toNat, h⟩))) (atOwner p s))) ∧
    (Asks p tag 0x15 [index] s → 32 ≤ index.toNat → Refuses (.pointStatus p tag [index]) p tag 0x15 [index] .badField s) ∧
    (Asks p tag 0x16 [] s →
      exec (.listSubscriptions p tag []) s = .next (answered p tag 0x16 [] (okAnswer (listLayout s p)) (atOwner p s))) ∧
    (Asks p tag 0x21 [] s →
      exec (.trimStatus p tag []) s = .next (answered p tag 0x21 [] (okAnswer ([.g1, .g2, .g4, .g8].flatMap (trimLayout s))) (atOwner p s))) ∧
    (Asks p tag 0x43 [] s →
      exec (.monitorStatus p tag []) s = .next (answered p tag 0x43 [] (okAnswer (allMonitors.flatMap (fun k => monitorLayout (s.monitor k)))) (atOwner p s))) ∧
    (Asks p tag 0x54 [] s →
      exec (.lineStatus p tag []) s = .next (answered p tag 0x54 [] (okAnswer (allLines.flatMap (fun l => lineLayout (s.line l)))) (atOwner p s))) ∧
    (Asks p tag 0x64 [] s →
      exec (.tripStatus p tag []) s = .next (answered p tag 0x64 [] (okAnswer (allComparators.flatMap (fun k => tripLayout (s.comparator k)))) (atOwner p s)))

/-- Whatever a request answers, in a state within the bounds its response fits a frame: LEN, which counts TAG, CODE,
STATUS and the body, is at most 250. -/
def Obligations.EveryResponseFitsAFrame : Prop :=
  ∀ (p : Port) (code : Byte) (body : List Byte) (s : State), BoundsLaw s →
    (answerRequest p code body s).2.body.length + 3 ≤ 250

/-! ### Request bodies -/

/-- The four conditioning fields as seven bytes (R203). -/
def Sys2Proof.Statement.conditioningLayout (c : Conditioning) : List Byte :=
  two c.offset.toNat ++ two c.multiplier.toNat ++ [BitVec.ofNat 8 c.shift] ++ two c.decimation

/-- The key fields lie in the ranges of R1. -/
abbrev Sys2Proof.Statement.KeyInRange (k : Key) : Prop :=
  k.delay ≤ 1023 ∧ match k.trigger with
    | .line _ _ divider => 1 ≤ divider ∧ divider ≤ 16
    | .periodic period => 4 ≤ period ∧ period ≤ 65535
    | .demand => True

/-- The conditioning fields lie in the ranges of R7. -/
abbrev Sys2Proof.Statement.ConditioningInRange (c : Conditioning) : Prop :=
  c.shift ≤ 15 ∧ 1 ≤ c.decimation ∧ c.decimation ≤ 256

/-- Every body laid out as R203 and R204 say reads back as the fields it was made of: DEFINE POINT and SET CONDITIONING,
CREATE MONITOR, SET TRIP, READ RESULTS, RELEASE ORPHAN, with every field at every value its range admits. -/
def Obligations.RequestBodiesReadBack : Prop :=
  (∀ (key : Key) (c : Conditioning), KeyInRange key → ConditioningInRange c →
    readDefine (keyLayout key ++ conditioningLayout c) = some { key, conditioning := c }) ∧
  (∀ (i : PointIdx) (c : Conditioning), ConditioningInRange c →
    readConditioning (BitVec.ofNat 8 i.val :: conditioningLayout c) 1 = some c) ∧
  (∀ (f : MonitorFields), f.low ≤ 65535 → f.high ≤ 65535 → f.hysteresis ≤ 4095 → 1 ≤ f.qualify → f.qualify ≤ 8 →
    f.low + 2 * f.hysteresis ≤ f.high →
    readMonitor ([BitVec.ofNat 8 f.point.val] ++ two f.low ++ two f.high ++ two f.hysteresis ++
      [BitVec.ofNat 8 f.qualify] ++
      (match f.action with
        | .none => [0, 0]
        | .follow l => [1, BitVec.ofNat 8 l.val]
        | .latch l => [2, BitVec.ofNat 8 l.val]) ++
      [if f.broadcast then 1 else 0]) = some f) ∧
  (∀ (f : SetTripFields),
    readSetTrip [BitVec.ofNat 8 f.comparator.val, BitVec.ofNat 8 f.config.input.val, BitVec.ofNat 8 f.config.step.val,
      (match f.config.polarity with | .above => 0 | .below => 1),
      (match f.config.filter with | .f0 => 0 | .f1 => 1 | .f4 => 2 | .f16 => 3),
      f.config.mask.setWidth 8, if f.enable then 1 else 0] = some f) ∧
  (∀ (f : ReadResultsFields), 1 ≤ f.k → f.k ≤ 15 →
    readReadResults [BitVec.ofNat 8 f.k, if f.ack.isSome then 1 else 0, f.ack.getD 0] = some f) ∧
  (∀ (f : OrphanFields), readOrphan [BitVec.ofNat 8 f.port.val, f.mask.setWidth 8] = some f)

/-! ### Points and subscriptions -/

/-- Byte `k` of a body as a number. -/
def Sys2Proof.Statement.at8 (body : List Byte) (k : Nat) : Nat := (body.getD k 0).toNat

/-- The number in bytes `k` and `k + 1` of a body. -/
def Sys2Proof.Statement.at16 (body : List Byte) (k : Nat) : Nat := at8 body k * 256 + at8 body (k + 1)

/-- A field of a DEFINE POINT body is out of range (R9, at the byte positions of R203). -/
abbrev Sys2Proof.Statement.DefineOutOfRange (body : List Byte) : Prop :=
  17 < at8 body 0 ∨ 3 < at8 body 1 ∨ 15 < at8 body 2 ∨ at8 body 3 ∉ [1, 2, 4, 8, 16] ∨ 2 < at8 body 4 ∨
  (at8 body 4 = 0 ∧ (5 < at8 body 5 ∨ 2 < at8 body 6 ∨ at8 body 7 = 0 ∨ 16 < at8 body 7)) ∨
  (at8 body 4 = 1 ∧ at16 body 8 < 4) ∨ 1023 < at16 body 10 ∨ 1 < at8 body 12 ∨
  15 < at8 body 17 ∨ at16 body 18 = 0 ∨ 256 < at16 body 18

/-- DEFINE POINT is refused with BAD_FIELD, and changes nothing, exactly when a field of its body is out of range. -/
def Obligations.DefineRefusesFieldsOutOfRange : Prop :=
  ∀ (p : Port) (tag : Byte) (body : List Byte) (s : State), Asks p tag 0x10 body s → body.length = 20 →
    (DefineOutOfRange body → Refuses (.definePoint p tag body) p tag 0x10 body .badField s) ∧
    (¬DefineOutOfRange body → ∃ a t, a.status ≠ .badField ∧
      exec (.definePoint p tag body) s = .next (answered p tag 0x10 body a t))

/-- DEFINE POINT with its fields in range is refused with NO_SLOT, and changes nothing, when all 16 slots of the port
are occupied: also for a definition the port already subscribes to, and for one it could join. -/
def Obligations.DefineRefusedWithoutASlot : Prop :=
  ∀ (p : Port) (tag : Byte) (body : List Byte) (s : State), Asks p tag 0x10 body s → body.length = 20 →
    ¬DefineOutOfRange body → (∀ k : SlotIdx, s.slot p k ≠ none) →
    Refuses (.definePoint p tag body) p tag 0x10 body .noSlot s

/-- A subscription as DEFINE POINT creates it (R8). -/
def Sys2Proof.Statement.freshSubscription (i : PointIdx) (c : Conditioning) : Subscription where
  point := i
  state := .active
  offset := c.offset
  multiplier := c.multiplier
  shift := c.shift
  decimation := c.decimation
  counter := 0
  missed := 0
  firstPending := true

/-- Slot `k` is the lowest free slot of port `p` (R8). -/
abbrev Sys2Proof.Statement.LowestFree (p : Port) (k : SlotIdx) (s : State) : Prop :=
  s.slot p k = none ∧ ∀ j : SlotIdx, j < k → s.slot p j ≠ none

/-- An entry matches a definition (R11). -/
abbrev Sys2Proof.Statement.Matches (key : Key) (e : PointEntry) : Prop :=
  e.key = key ∧ e.state ≠ .free ∧ e.state ≠ .retiring

/-- DEFINE POINT for a definition that exactly one entry matches: a port in its list is answered ALREADY_SUBSCRIBED and
nothing changes; another port joins at the tail of the list, with a fresh subscription in its lowest free slot, and is
answered JOINED.  Both answers carry the entry's index and sequence, and nothing else of the part changes. -/
def Obligations.DefineJoinsAMatchingPoint : Prop :=
  ∀ (p : Port) (tag : Byte) (body : List Byte) (f : DefineFields) (k : SlotIdx) (i : PointIdx) (s : State),
    Asks p tag 0x10 body s → body.length = 20 → readDefine body = some f → LowestFree p k s →
    (∀ j : PointIdx, Matches f.key (s.point j) ↔ j = i) →
    (p ∈ (s.point i).subscribers →
      exec (.definePoint p tag body) s = .next (answered p tag 0x10 body
        { status := .alreadySubscribed, body := [0, BitVec.ofNat 8 i.val] ++ two (s.point i).sequence.toNat }
        (atOwner p s))) ∧
    (p ∉ (s.point i).subscribers →
      exec (.definePoint p tag body) s = .next (answered p tag 0x10 body
        (okAnswer ([2, BitVec.ofNat 8 i.val] ++ two (s.point i).sequence.toNat))
        (((atOwner p s).setSlot p k (some (freshSubscription i f.conditioning))).setPoint i
          { s.point i with subscribers := (s.point i).subscribers ++ [p] })))

/-- DEFINE POINT for a definition that no entry matches: NO_URGENT_ROOM for an urgent one while 8 non-FREE entries are
urgent; NO_ROOM when no entry is FREE; otherwise the lowest FREE entry becomes ARMED with the key fields, the port its
only subscriber, sequence and missed count 0, the countdown of a PERIODIC point at 8 times its period, and the port has a
fresh subscription in its lowest free slot.  Nothing else of the part changes. -/
def Obligations.DefineCreatesAPoint : Prop :=
  ∀ (p : Port) (tag : Byte) (body : List Byte) (f : DefineFields) (k : SlotIdx) (s : State),
    Asks p tag 0x10 body s → body.length = 20 → readDefine body = some f → LowestFree p k s →
    (∀ j : PointIdx, ¬Matches f.key (s.point j)) →
    (f.key.urgent = true → 8 ≤ s.urgentInUse →
      Refuses (.definePoint p tag body) p tag 0x10 body .noUrgentRoom s) ∧
    ((f.key.urgent = true → s.urgentInUse < 8) → (∀ j : PointIdx, (s.point j).state ≠ .free) →
      Refuses (.definePoint p tag body) p tag 0x10 body .noRoom s) ∧
    ((f.key.urgent = true → s.urgentInUse < 8) → ∀ i : PointIdx, (s.point i).state = .free →
      (∀ j : PointIdx, j < i → (s.point j).state ≠ .free) →
      exec (.definePoint p tag body) s = .next (answered p tag 0x10 body
        (okAnswer [1, BitVec.ofNat 8 i.val, 0, 0])
        (((atOwner p s).setPoint i
          { state := .armed, key := f.key, subscribers := [p], sequence := 0, missed := 0, divider := 0,
            countdown := match f.key.trigger with
              | .periodic period => some (8 * period)
              | .line .. | .demand => none,
            delayTimer := none, accumulator := 0, done := 0, stamp := none, satSoFar := false,
            resumedSoFar := false }).setSlot p k (some (freshSubscription i f.conditioning)))))

/-- The requests of chapter 1 that name a point on behalf of a subscriber. -/
abbrev Sys2Proof.Statement.SubscriberRequest (c : Instr) (p : Port) (tag code : Byte) (body : List Byte) : Prop :=
  (c = .leavePoint p tag body ∧ code = 0x11 ∧ body.length = 1) ∨
  (c = .pauseSubscription p tag body ∧ code = 0x12 ∧ body.length = 1) ∨
  (c = .resumeSubscription p tag body ∧ code = 0x13 ∧ body.length = 1) ∨
  (c = .setConditioning p tag body ∧ code = 0x14 ∧ body.length = 8)

/-- A field of the body is out of range: the index, and for SET CONDITIONING the shift or the decimation (R16, R24, at the
byte positions of R203). -/
abbrev Sys2Proof.Statement.SubscriberOutOfRange (code : Byte) (body : List Byte) : Prop :=
  31 < at8 body 0 ∨ (code = 0x14 ∧ (15 < at8 body 5 ∨ at16 body 6 = 0 ∨ 256 < at16 body 6))

/-- LEAVE POINT, PAUSE SUBSCRIPTION, RESUME SUBSCRIPTION and SET CONDITIONING are refused with BAD_FIELD for an index
above 31, and SET CONDITIONING for a shift above 15 or a decimation of 0 or above 256; then with NO_SUCH_POINT for a FREE
or RETIRING entry, then with NOT_SUBSCRIBED when the port is not in the entry's list; a refused request changes
nothing. -/
def Obligations.SubscriberRequestsAreChecked : Prop :=
  ∀ (c : Instr) (p : Port) (tag code : Byte) (body : List Byte) (s : State),
    SubscriberRequest c p tag code body → Asks p tag code body s →
    (SubscriberOutOfRange code body → Refuses c p tag code body .badField s) ∧
    (¬SubscriberOutOfRange code body → ∀ i : PointIdx, at8 body 0 = i.val →
      ((s.point i).state = .free ∨ (s.point i).state = .retiring → Refuses c p tag code body .noSuchPoint s) ∧
      ((s.point i).state ≠ .free → (s.point i).state ≠ .retiring → p ∉ (s.point i).subscribers →
        Refuses c p tag code body .notSubscribed s))

/-- LEAVE POINT by a subscriber: the slot becomes free; the port's monitors on the point are deleted, held claims becoming
HOST claims; the port leaves the list.  With others remaining, a non-urgent DUE point whose sponsor left moves to the
tail of the new sponsor's pending FIFO.  With none remaining, the entry becomes FREE, leaving its queue or the
suspended-burst slot, or RETIRING when it was CONVERTING.  The answer carries the entry's state afterwards, and nothing
else changes. -/
def Obligations.LeavePointEndsTheSubscription : Prop :=
  ∀ (p : Port) (tag : Byte) (i : PointIdx) (k : SlotIdx) (s : State),
    let body := [BitVec.ofNat 8 i.val]
    Asks p tag 0x11 body s → Subscribes p i k s → TableLaws s → ClaimLaws s →
    let last := (s.point i).subscribers = [p]
    let waits := (s.point i).state = .due ∧ (s.point i).key.urgent = false
    ∃ t, exec (.leavePoint p tag body) s =
        .next (answered p tag 0x11 body (okAnswer [stateByte (departed p (s.point i)).state]) t) ∧
      t = { atOwner p s with
              points := t.points, subs := t.subs, urgentQueue := t.urgentQueue, fifos := t.fifos,
              suspended := t.suspended, monitors := t.monitors, lines := t.lines } ∧
      (∀ j : PointIdx, t.point j = if j = i then departed p (s.point i) else s.point j) ∧
      (∀ q : Port, ∀ j : SlotIdx, t.slot q j = if q = p ∧ j = k then none else s.slot q j) ∧
      t.urgentQueue = (if last then s.urgentQueue.filter (· != i) else s.urgentQueue) ∧
      (∀ q : Port, t.fifo q =
        if waits ∧ (s.point i).subscribers.head? = some p then
          (s.fifo q).filter (· != .point i) ++
            (if ((s.point i).subscribers.erase p).head? = some q then [.point i] else [])
        else s.fifo q) ∧
      t.suspended = (if last ∧ (s.point i).state = .suspended then none else s.suspended) ∧
      MonitorsLeave p (· == i) s t

/-- PAUSE SUBSCRIPTION makes the subscription PAUSED.  RESUME SUBSCRIPTION makes a PAUSED one ACTIVE with missed
accumulator and decimation counter 0 and FIRST pending, and leaves an ACTIVE one.  SET CONDITIONING sets the four values
and the decimation counter to 0.  Each is answered OK, and nothing but that one slot changes. -/
def Obligations.PauseResumeAndConditioningActOnOneSlot : Prop :=
  ∀ (p : Port) (tag : Byte) (i : PointIdx) (k : SlotIdx) (u : Subscription) (c : Conditioning) (s : State),
    Subscribes p i k s → s.slot p k = some u → ConditioningInRange c →
    let index := [BitVec.ofNat 8 i.val]
    let fields := BitVec.ofNat 8 i.val :: conditioningLayout c
    (Asks p tag 0x12 index s → exec (.pauseSubscription p tag index) s = .next (answered p tag 0x12 index (okAnswer [])
      ((atOwner p s).setSlot p k (some { u with state := .paused })))) ∧
    (Asks p tag 0x13 index s → exec (.resumeSubscription p tag index) s = .next (answered p tag 0x13 index (okAnswer [])
      ((atOwner p s).setSlot p k (some (match u.state with
        | .active => u
        | .paused => { u with state := .active, missed := 0, counter := 0, firstPending := true }))))) ∧
    (Asks p tag 0x14 fields s → exec (.setConditioning p tag fields) s = .next (answered p tag 0x14 fields (okAnswer [])
      ((atOwner p s).setSlot p k (some
        { u with offset := c.offset, multiplier := c.multiplier, shift := c.shift, decimation := c.decimation,
                 counter := 0 }))))

/-! ### Triggers -/

/-- SAMPLE NOW makes the checks of R39 in order, each refusal changing nothing.  A request that passes is one trigger: an
ARMED point becomes DELAYING, or, with delay 0, DUE at the tail of its queue; where that enqueue finds the converter IDLE, a
grant decision follows (R52; with nothing else waiting, EnqueueIntoIdleConverterIsGranted says what it grants; between a
finalize and its decision, R88, work may wait).  In the other states the trigger is lost and counted, and answered
TRIGGER_LOST.  The answers carry state and missed count as they stand afterwards. -/
def Obligations.SampleNowTriggersADemandPoint : Prop :=
  ∀ (p : Port) (tag index : Byte) (s : State), Asks p tag 0x17 [index] s →
    let c := Instr.sampleNow p tag [index]
    (31 < index.toNat → Refuses c p tag 0x17 [index] .badField s) ∧
    ∀ i : PointIdx, index.toNat = i.val →
      let e := s.point i
      if e.state = .free ∨ e.state = .retiring then Refuses c p tag 0x17 [index] .noSuchPoint s
      else if p ∉ e.subscribers then Refuses c p tag 0x17 [index] .notSubscribed s
      else if e.key.trigger ≠ .demand then Refuses c p tag 0x17 [index] .notDemand s
      else ∃ u,
        let t := if goesDue e then enqueuedThen s u else u
        exec c s = .next (answered p tag 0x17 [index]
            { status := if e.state = .armed then .ok else .triggerLost,
              body := [stateByte (t.point i).state, BitVec.ofNat 8 (triggered e).missed] } t) ∧
          u = { atOwner p s with points := u.points, urgentQueue := u.urgentQueue, fifos := u.fifos } ∧
          (∀ j : PointIdx, u.point j = if j = i then triggered e else s.point j) ∧
          u.urgentQueue = s.urgentQueue ++ (if goesDue e then urgentOf s [i] else []) ∧
          (∀ q : Port, u.fifo q = s.fifo q ++ (if goesDue e then pendingOf s q [i] else []))

/-- TRG_EDGE, an edge away from the accepted level, reaches every live LINE point on its input whose selection matches:
the divider counter advances, and at the divider it returns to 0 and a trigger is produced.  The accepted level follows
the edge.  With the converter BUSY, or with no point that becomes DUE, those that do join the tails of their queues in
ascending index, and nothing else changes.  With the converter IDLE and nothing waiting, the first of them is granted at once
and billed, and the rest wait.  With the converter IDLE and work that waits for a decision due after a finalize (R88), that
decision follows the enqueue of the first, and the rest join the places it leaves.  The model's choices: an edge to the level
accepted already does not occur (notes/assumptions/3.md); the row brings the level its pin stands at (8.md); that the edge
comes before a decision that is due (15.md). -/
def Obligations.TriggerEdgeReachesLinePoints : Prop :=
  ∀ (n : TrgIdx) (edge : Edge) (s : State), s.resetLow = false → (∀ i : PointIdx, ListLaw (s.point i)) →
    let level := edge == .rising
    let work := edgeWork n edge s
    let accepted := { s with pins := { s.pins with trg := s.pins.trg.set n level },
                             trgLevels := s.trgLevels.set n level, trgSamples := s.trgSamples.set n level }
    (s.trgLevels[n] = level → exec (.trgEdge n edge) s = .next s) ∧
    (s.trgLevels[n] ≠ level → ∃ t, exec (.trgEdge n edge) s = .next t ∧
      (s.converter ≠ none ∨ work = [] →
        t = { accepted with points := t.points, urgentQueue := t.urgentQueue, fifos := t.fifos } ∧
        (∀ i : PointIdx, t.point i = edged n edge (s.point i)) ∧
        t.urgentQueue = s.urgentQueue ++ urgentOf s work ∧
        (∀ q : Port, t.fifo q = s.fifo q ++ pendingOf s q work)) ∧
      (∀ j rest, work = j :: rest → NothingWaits s →
        t = { accepted with
                points := t.points, urgentQueue := t.urgentQueue, fifos := t.fifos, urgentGrants := t.urgentGrants,
                wheelGrants := t.wheelGrants, wheelPosition := t.wheelPosition, converter := t.converter,
                conversion := t.conversion, lastGain := t.lastGain } ∧
        (∀ i : PointIdx, t.point i =
          if i = j then granted (edged n edge (s.point j)) else edged n edge (s.point i)) ∧
        GrantedAlone j s t ∧
        t.urgentQueue = urgentOf s rest ∧ (∀ q : Port, t.fifo q = pendingOf s q rest)) ∧
      (∀ j rest, work = j :: rest → s.converter = none → (∀ i : PointIdx, PlaceLaw s i) → ∃ u : State,
        u = { accepted with points := u.points, urgentQueue := u.urgentQueue, fifos := u.fifos } ∧
        (∀ i : PointIdx, u.point i = if i ≤ j then edged n edge (s.point i) else s.point i) ∧
        u.urgentQueue = s.urgentQueue ++ urgentOf s [j] ∧ (∀ q : Port, u.fifo q = s.fifo q ++ pendingOf s q [j]) ∧
        let w := grantDecision { u with decisionDue := false }
        t = { w with points := t.points, urgentQueue := t.urgentQueue, fifos := t.fifos } ∧
        (∀ i : PointIdx, t.point i = if i ≤ j then w.point i else edged n edge (w.point i)) ∧
        t.urgentQueue = w.urgentQueue ++ urgentOf s rest ∧ (∀ q : Port, t.fifo q = w.fifo q ++ pendingOf s q rest)))

/-- PERIODIC_EXPIRY of a live PERIODIC point whose countdown has reached 0 reloads it with 8 times the period and is a
trigger; DELAY_EXPIRY makes a DELAYING point whose timer has reached 0 DUE.  A countdown or timer that was cancelled or
loaded anew since does not expire, so that a point created anew in the entry keeps its own.  A point that becomes DUE joins
the tail of the urgent queue, or of the pending FIFO of its sponsor at that moment; where that enqueue finds the converter
IDLE, a grant decision follows (R52; with nothing else waiting, EnqueueIntoIdleConverterIsGranted says what it grants;
between a finalize and its decision, R88, work may wait).  Nothing else changes.  The model's choice: an expiry that does not
occur has no effect (notes/assumptions/3.md). -/
def Obligations.ExpiriesTriggerAndEnqueue : Prop :=
  ∀ (i : PointIdx) (s : State), s.resetLow = false →
    let e := s.point i
    (∀ period, e.key.trigger = .periodic period → live e = true → e.countdown = some 0 →
      ∃ u, exec (.periodicExpiry i) s = .next (if goesDue e then enqueuedThen s u else u) ∧
        u = { s with points := u.points, urgentQueue := u.urgentQueue, fifos := u.fifos } ∧
        (∀ j : PointIdx, u.point j =
          if j = i then triggered { e with countdown := some (8 * period) } else s.point j) ∧
        u.urgentQueue = s.urgentQueue ++ (if goesDue e then urgentOf s [i] else []) ∧
        (∀ q : Port, u.fifo q = s.fifo q ++ (if goesDue e then pendingOf s q [i] else []))) ∧
    ((∀ period, e.key.trigger ≠ .periodic period) ∨ live e = false ∨ e.countdown ≠ some 0 →
      exec (.periodicExpiry i) s = .next s) ∧
    (e.state = .delaying → e.delayTimer = some 0 →
      ∃ u, exec (.delayExpiry i) s = .next (enqueuedThen s u) ∧
        u = { s with points := u.points, urgentQueue := u.urgentQueue, fifos := u.fifos } ∧
        (∀ j : PointIdx, u.point j = if j = i then { e with state := .due, delayTimer := none } else s.point j) ∧
        u.urgentQueue = s.urgentQueue ++ urgentOf s [i] ∧
        (∀ q : Port, u.fifo q = s.fifo q ++ pendingOf s q [i])) ∧
    (e.state ≠ .delaying ∨ e.delayTimer ≠ some 0 → exec (.delayExpiry i) s = .next s)

/-- A conversion of a subject that begins in state `s`: a point's, or ZERO at the job's gain with settle code 15. -/
def Sys2Proof.Statement.conversionOf (subject : Subject) (s : State) : Conversion :=
  match subject with
  | .point i => firstConversion (s.point i) s
  | .job g =>
    { channel := 16, gain := g, settle := 15, gainSwitch := g != s.lastGain, elapsed := 0, reading := none, held := none }

/-- A pending entry of port `p` has been granted as a BACKGROUND burst: it leaves the FIFO, takes the converter and is
billed to the port's wheel grants; only its subject and the scheduler change (R53, R55, R56). -/
abbrev Sys2Proof.Statement.GrantedPending (p : Port) (subject : Subject) (rest : List Subject) (s t : State) : Prop :=
  Begins { subject, burstClass := .background, length := burstLength subject s } (conversionOf subject s) t ∧
  t = { s with points := t.points, jobs := t.jobs, fifos := t.fifos, wheelGrants := t.wheelGrants,
               converter := t.converter, conversion := t.conversion, lastGain := t.lastGain,
               wheelPosition := t.wheelPosition } ∧
  (∀ q : Port, t.fifo q = if q = p then rest else s.fifo q) ∧
  (∀ q : Port, t.wheelGrant q = if q = p then s.wheelGrant q + 1 else s.wheelGrant q) ∧
  (∀ i : PointIdx, t.point i = if subject = .point i then
    { s.point i with state := .converting, accumulator := 0, done := 0, stamp := none, satSoFar := false,
                     resumedSoFar := false } else s.point i) ∧
  (∀ g ∈ allGains, t.job g = if subject = .job g then
    { s.job g with state := .running, done := 0, partialSum := 0 } else s.job g)

/-- The grant decision looks in this order: head of the urgent queue (URGENT, billed to the sponsor's urgent grants);
suspended burst (resumed, billed to nobody); wheel scan from the slot after the position (BACKGROUND, the position becomes
the slot found); idle scan H0 to H3 (the position stays); else the converter becomes IDLE.  The granted subject takes the
converter and its conversion begins. -/
def Obligations.GrantDecisionOrder : Prop :=
  ∀ (s : State),
    let t := grantDecision s
    match s.urgentQueue, s.suspended with
    | i :: rest, _ =>
      Begins { subject := .point i, burstClass := .urgent, length := oversampleCount (s.point i).key.oversample }
        (firstConversion (s.point i) s) t ∧
      t = { s with points := t.points, urgentQueue := rest, urgentGrants := t.urgentGrants, converter := t.converter,
                   conversion := t.conversion, lastGain := t.lastGain } ∧
      (∀ q : Port, t.urgentGrant q =
        if (s.point i).subscribers.head? = some q then s.urgentGrant q + 1 else s.urgentGrant q) ∧
      (∀ j : PointIdx, t.point j = if j = i then
        { s.point i with state := .converting, accumulator := 0, done := 0, stamp := none, satSoFar := false,
                         resumedSoFar := false } else s.point j)
    | [], some b =>
      Begins b (conversionOf b.subject s) t ∧
      t = { s with points := t.points, jobs := t.jobs, suspended := none, converter := t.converter,
                   conversion := t.conversion, lastGain := t.lastGain } ∧
      (∀ i : PointIdx, t.point i =
        if b.subject = .point i then { s.point i with state := .converting } else s.point i) ∧
      (∀ g ∈ allGains, t.job g = if b.subject = .job g then { s.job g with state := .running } else s.job g)
    | [], none =>
      match (scanSlots s.wheelPosition).find? (fun k => !(s.fifo (onWheel s.share k)).isEmpty) with
      | some k => ∀ subject rest, s.fifo (onWheel s.share k) = subject :: rest →
        GrantedPending (onWheel s.share k) subject rest s t ∧ t.wheelPosition = k
      | none =>
        match [0, 1, 2, 3].find? (fun q : Port => !(s.fifo q).isEmpty) with
        | some q => ∀ subject rest, s.fifo q = subject :: rest →
          GrantedPending q subject rest s t ∧ t.wheelPosition = s.wheelPosition
        | none => t = { s with converter := none, conversion := none }

/-- An enqueue that finds the converter IDLE, with no decision due and nothing waiting, is granted at once: an ARMED point
with delay 0 at its periodic expiry or at SAMPLE NOW, a DELAYING point at its delay expiry, each timer at 0 (R36, R38), a
calibration job at CALIBRATE.  The urgent point is billed to its sponsor's urgent grants, the others, under the scans, to the
wheel grants of the sponsor or requester.  Nothing else changes. -/
def Obligations.EnqueueIntoIdleConverterIsGranted : Prop :=
  ∀ (s : State), NothingWaits s →
    let scheduled := fun (u t : State) =>
      t = { u with points := t.points, jobs := t.jobs, urgentGrants := t.urgentGrants, wheelGrants := t.wheelGrants,
                   wheelPosition := t.wheelPosition, converter := t.converter, conversion := t.conversion,
                   lastGain := t.lastGain }
    (∀ i : PointIdx, (s.point i).subscribers ≠ [] →
      let e := s.point i
      let holds := fun (u t : State) (e' : PointEntry) =>
        scheduled u t ∧ t.jobs = s.jobs ∧ GrantedAlone i s t ∧
        (∀ j : PointIdx, t.point j = if j = i then granted e' else s.point j)
      (s.resetLow = false → e.state = .delaying → e.delayTimer = some 0 →
        ∃ t, exec (.delayExpiry i) s = .next t ∧ holds s t e) ∧
      (∀ period, s.resetLow = false → e.state = .armed → e.key.trigger = .periodic period → e.key.delay = 0 →
        e.countdown = some 0 → ∃ t, exec (.periodicExpiry i) s = .next t ∧ holds s t { e with countdown := some (8 * period) }) ∧
      (∀ (p : Port) (tag : Byte), Asks p tag 0x17 [BitVec.ofNat 8 i.val] s → e.state = .armed →
        e.key.trigger = .demand → e.key.delay = 0 → p ∈ e.subscribers →
        ∃ t, exec (.sampleNow p tag [BitVec.ofNat 8 i.val]) s =
          .next (answered p tag 0x17 [BitVec.ofNat 8 i.val] (okAnswer [4, BitVec.ofNat 8 e.missed]) t) ∧
          holds (atOwner p s) t e)) ∧
    (∀ (p : Port) (tag : Byte) (g : Gain), Asks p tag 0x20 [BitVec.ofNat 8 (gainIndex g).val] s →
      (s.job g).state = .none →
      ∃ t, exec (.calibrate p tag [BitVec.ofNat 8 (gainIndex g).val]) s =
          .next (answered p tag 0x20 [BitVec.ofNat 8 (gainIndex g).val] (okAnswer []) t) ∧
        scheduled (atOwner p s) t ∧ t.points = s.points ∧ t.urgentGrants = s.urgentGrants ∧
        Begins { subject := .job g, burstClass := .background, length := 16 } (conversionOf (.job g) s) t ∧
        (∀ h ∈ allGains, t.job h = if h = g then
          { state := .running, requester := some p, done := 0, partialSum := 0 } else s.job h) ∧
        (∀ q : Port, t.wheelGrant q = s.wheelGrant q + (if q = p then 1 else 0)) ∧
        t.wheelPosition = positionAfter (some p) s)

/-- CALIBRATE is refused with BAD_FIELD for a gain code above 3 and with CAL_BUSY unless the job of the gain is NONE;
otherwise the job becomes QUEUED with the port as requester at the tail of its pending FIFO, and where that enqueue finds the
converter IDLE a grant decision follows.  Nothing else changes. -/
def Obligations.CalibrateQueuesAJob : Prop :=
  ∀ (p : Port) (tag code : Byte) (s : State), Asks p tag 0x20 [code] s →
    let c := Instr.calibrate p tag [code]
    (3 < code.toNat → Refuses c p tag 0x20 [code] .badField s) ∧
    ∀ g ∈ allGains, code.toNat = (gainIndex g).val →
      ((s.job g).state ≠ .none → Refuses c p tag 0x20 [code] .calBusy s) ∧
      ((s.job g).state = .none →
        exec c s = .next (answered p tag 0x20 [code] (okAnswer []) (enqueuedThen s
          (((atOwner p s).setJob g { s.job g with state := .queued, requester := some p }).setFifo p
            (s.fifo p ++ [.job g])))))

/-! ### Conversions -/

/-- CONVERSION_COMPLETION short of the end of a burst.  A RETIRING point becomes FREE, its code is discarded and a grant
decision follows.  Otherwise the code is counted, and when conversions remain: a BACKGROUND burst with the urgent queue
non-empty is suspended (RESUMED-so-far set) and the head of the urgent queue is granted; any other burst begins its next
conversion.  The code is that of R69 for the level held at the sample instant, and the burst's timestamp is the first
conversion's reading; that a completion before the model's clock has reached the sample instant reads the timebase and
the level as they then stand is the model's choice (notes/assumptions/6.md). -/
def Obligations.CompletionFreesSuspendsOrContinues : Prop :=
  ∀ (level : Level) (b : Burst) (i : PointIdx) (s : State), s.resetLow = false → s.converter = some b →
    b.subject = .point i →
    let e := s.point i
    let code := codeAt e.key.channel e.key.gain level s
    let stamp := some (e.stamp.getD (((s.conversion.bind (·.reading))).getD s.timebase))
    let counted := { e with accumulator := e.accumulator + code.toNat, done := e.done + 1, stamp := stamp,
                            satSoFar := e.satSoFar || code == 0 || code == 4095 }
    (e.state = .retiring →
      exec (.conversionCompletion level) s = .next (grantDecision (s.setPoint i .cleared))) ∧
    (e.state ≠ .retiring → e.done + 1 ≠ b.length →
      (b.burstClass = .background ∧ s.urgentQueue ≠ [] →
        exec (.conversionCompletion level) s = .next (grantDecision
          { s.setPoint i { counted with state := .suspended, resumedSoFar := true } with suspended := some b })) ∧
      (b.burstClass = .urgent ∨ s.urgentQueue = [] →
        exec (.conversionCompletion level) s = .next
          { s.setPoint i counted with conversion := some (firstConversion e s), lastGain := e.key.gain }))

/-- The same for a calibration burst: the code, the offset's at ZERO, goes into the partial sum; with conversions remaining
the job is suspended for urgent work or goes on; at the 16th the calibration completes: the trim entry of the gain becomes VALID with the sum
held to 2,047, CAL_DONE goes to every ATTACHED port, the job returns to NONE, and a grant decision follows.  (The
code of a completion before the model's sample instant: notes/assumptions/6.md.) -/
def Obligations.CalibrationCountsAndCompletes : Prop :=
  ∀ (level : Level) (b : Burst) (g : Gain) (s : State), s.resetLow = false → s.converter = some b →
    b.subject = .job g →
    let j := s.job g
    let code := codeAt 16 g level s
    let counted := { j with done := j.done + 1, partialSum := j.partialSum + code.toNat }
    (j.done + 1 ≠ b.length → b.burstClass = .background ∧ s.urgentQueue ≠ [] →
      exec (.conversionCompletion level) s = .next (grantDecision
        { s.setJob g { counted with state := .suspended } with suspended := some b })) ∧
    (j.done + 1 ≠ b.length → b.burstClass = .urgent ∨ s.urgentQueue = [] →
      exec (.conversionCompletion level) s = .next
        { s.setJob g counted with conversion := some (conversionOf (.job g) s), lastGain := g }) ∧
    (j.done + 1 = b.length →
      ∃ u, exec (.conversionCompletion level) s = .next (grantDecision u) ∧
        u = { s with trims := u.trims, jobs := u.jobs, queues := u.queues } ∧
        (∀ h ∈ allGains, u.trimEntry h =
          if h = g then { state := .valid, trim := min (j.partialSum + code.toNat) 2047 } else s.trimEntry h) ∧
        (∀ h ∈ allGains, u.job h =
          if h = g then { state := .none, requester := none, done := 0, partialSum := 0 } else s.job h) ∧
        (∀ q : Port, u.queue q =
          offered s q [eventNow s .calDone (gainIndex g).val (min (j.partialSum + code.toNat) 2047)]))

/-! ### Finalize -/

/-- The result of a burst that ends with accumulator `sum` (R89 to R91). -/
def Sys2Proof.Statement.resultWith (e : PointEntry) (sum : Nat) (sat : Bool) (stamp : TimeReading) (t : TrimEntry) : Result :=
  let average := sum * 16 / oversampleCount e.key.oversample
  let trim := if t.state = .valid then t.trim else 0
  { value16 := average - trim, sat := sat, trim := t.state == .uncalibrated, clamp := decide (average < trim),
    resumed := e.resumedSoFar, sequence := e.sequence + 1, timestamp := stamp }

/-- The result at a completion with this code (R87, R89 to R91). -/
def Sys2Proof.Statement.resultAt (i : PointIdx) (code : ConverterCode) (s : State) : Result :=
  let e := s.point i
  resultWith e (e.accumulator + code.toNat) (e.satSoFar || code == 0 || code == 4095)
    (e.stamp.getD (((s.conversion.bind (·.reading))).getD s.timebase)) (s.trimEntry e.key.gain)

/-- The missed accumulator after the transfer of the point's missed count (R92). -/
def Sys2Proof.Statement.missedAfter (e : PointEntry) (u : Subscription) : Nat := min (u.missed + e.missed) 255

/-- The subscription delivers a record at this finalize (R94). -/
def Sys2Proof.Statement.delivers (u : Subscription) : Bool := u.state == .active && u.counter + 1 == u.decimation

/-- A subscription after a finalize of its point (R92, R94, R95). -/
def Sys2Proof.Statement.afterFinalize (e : PointEntry) (u : Subscription) : Subscription :=
  if u.state = .paused then { u with missed := missedAfter e u }
  else if u.counter + 1 = u.decimation then { u with missed := 0, counter := 0, firstPending := false }
  else { u with missed := missedAfter e u, counter := u.counter + 1 }

/-- The record of a finalize for a subscription (R95, R96): scaled is value16 less the offset, times the multiplier,
divided by 2 to the shift and rounded toward minus infinity. -/
def Sys2Proof.Statement.recordOf (i : PointIdx) (e : PointEntry) (r : Result) (u : Subscription) : Record where
  point := i
  sequence := r.sequence
  timestamp := r.timestamp
  value16 := BitVec.ofNat 16 r.value16
  scaled := BitVec.ofInt 32 (Int.fdiv (((r.value16 : Int) - (u.offset.toNat : Int)) * u.multiplier.toInt) (2 ^ u.shift))
  missed := missedAfter e u
  lost := 0
  sat := r.sat
  trim := r.trim
  clamp := r.clamp
  resumed := r.resumed
  first := u.firstPending

/-- The completion of the last conversion of the burst of point `i` is due. -/
abbrev Sys2Proof.Statement.LastConversion (i : PointIdx) (s : State) : Prop :=
  s.resetLow = false ∧ s.converter.map (·.subject) = some (.point i) ∧ (s.point i).state = .converting ∧
  (s.point i).done + 1 = oversampleCount (s.point i).key.oversample

/-- The completion of the last conversion of a burst finalizes the point, and then a grant decision is taken.  The sequence
advances; the missed count goes to every subscription of the point; each ACTIVE subscription counts, and at its
decimation forms a record that goes to its port's ring; the point becomes ARMED.  Beside the point's entry, its
subscriptions and their rings, only the monitors of the point act.  The model's choices: the timestamp and the code
of a conversion whose sample instant its clock has not reached (notes/assumptions/6.md); whether the decision is taken
before or after a trigger that is next in line (15.md). -/
def Obligations.FinalizeDeliversRecords : Prop :=
  ∀ (i : PointIdx) (level : Level) (s : State), LastConversion i s → TableLaws s → SessionLaws s →
    let e := s.point i
    let code := codeAt e.key.channel e.key.gain level s
    let r := resultAt i code s
    ∃ u, exec (.conversionCompletion level) s = .next (finalizedThen i u) ∧
      u = { s with points := u.points, subs := u.subs, rings := u.rings, queues := u.queues, monitors := u.monitors,
                   lines := u.lines } ∧
      (∀ j : PointIdx, u.point j = if j = i then
        { e with state := .armed, sequence := e.sequence + 1, missed := 0, accumulator := e.accumulator + code.toNat,
                 done := e.done + 1, stamp := some r.timestamp, satSoFar := r.sat } else s.point j) ∧
      (∀ p : Port, ∀ k : SlotIdx, u.slot p k =
        (s.slot p k).map (fun v => if v.point = i then afterFinalize e v else v)) ∧
      (∀ p : Port, ∀ k : SlotIdx, ∀ v ∈ s.slot p k, v.point = i →
        u.ring p = if delivers v then ringArrive (s.ring p) (recordOf i e r v) else s.ring p) ∧
      (∀ p : Port, p ∉ e.subscribers → u.ring p = s.ring p) ∧
      ((∀ k : MonitorIdx, ∀ m ∈ s.monitor k, m.point ≠ i) →
        u.monitors = s.monitors ∧ u.lines = s.lines ∧ u.queues = s.queues)

/-- The result lies outside the window (R127). -/
def Sys2Proof.Statement.outside (m : Monitor) (v : Nat) : Bool := v < m.low || m.high < v

/-- The result lies inside the recovery window, from low + h to high - h (R127). -/
def Sys2Proof.Statement.recovers (m : Monitor) (v : Nat) : Bool :=
  m.low + m.hysteresis ≤ v && v + m.hysteresis ≤ m.high

/-- A monitor after it evaluates a result (R132 to R135). -/
def Sys2Proof.Statement.evaluated (m : Monitor) (v : Nat) : Monitor :=
  match m.state with
  | .inside | .qualifying =>
    if outside m v then
      if m.count + 1 = m.qualify then
        { m with state := .out, count := m.qualify, claimHeld := (actionLine m.action).isSome }
      else { m with state := .qualifying, count := m.count + 1 }
    else { m with state := .inside, count := 0 }
  | .out =>
    if recovers m v then
      { m with state := .inside, count := 0,
               claimHeld := match m.action with
                 | .follow _ => false
                 | .latch _ | .none => m.claimHeld }
    else m

/-- The events of one monitor's evaluation at a port's queue, before its line event (R134 to R136). -/
def Sys2Proof.Statement.monitorEvents (k : MonitorIdx) (m : Monitor) (v : Nat) (q : Port) (s : State) : List Event :=
  if m.broadcast = true ∨ q = m.creator then
    match m.state, (evaluated m v).state with
    | .inside, .out | .qualifying, .out => [eventNow s .trip k.val v]
    | .out, .inside => [eventNow s .recover k.val v]
    | _, _ => []
  else []

/-- Claimant `x` stands in the claim set of line `l` when monitor `k` evaluates result `v` of point `i`: the monitors of the
point below `k` have evaluated it (R131). -/
def Sys2Proof.Statement.standsBefore (i : PointIdx) (k : MonitorIdx) (v : Nat) (s : State) (l : LineIdx) (x : Fin 15) : Bool :=
  match allMonitors.find? (fun j => claimantIndex (.monitor j) == x && j < k) with
  | none => (s.line l)[x]
  | some j => match s.monitor j with
    | none => (s.line l)[x]
    | some m => if m.point = i then heldLine (evaluated m v) == some l else (s.line l)[x]

/-- A claimant beside monitor `k` stands in the claim set of line `l` when it evaluates. -/
def Sys2Proof.Statement.heldByOthers (i : PointIdx) (k : MonitorIdx) (v : Nat) (s : State) (l : LineIdx) : Bool :=
  (List.finRange 15).any (fun x => x != claimantIndex (.monitor k) && standsBefore i k v s l x)

/-- The line event of one monitor's evaluation: LINE_ASSERTED when it takes a claim on a released line, LINE_RELEASED
when it gives up the last claim on a line (R148, R149). -/
def Sys2Proof.Statement.monitorLineEvents (i : PointIdx) (k : MonitorIdx) (m : Monitor) (v : Nat) (s : State) : List Event :=
  match actionLine m.action with
  | none => []
  | some l =>
    if heldByOthers i k v s l then []
    else match m.claimHeld, (evaluated m v).claimHeld with
      | false, true => [eventNow s .lineAsserted l.val 1]
      | true, false => [eventNow s .lineReleased l.val 0]
      | _, _ => []

/-- The events of monitor `k` at a result `v` of point `i`, as they come to the queue of port `q` (R134 to R136). -/
def Sys2Proof.Statement.eventsOfMonitor (i : PointIdx) (v : Nat) (q : Port) (s : State) (k : MonitorIdx) : List Event :=
  match s.monitor k with
  | none => []
  | some m => if m.point = i then monitorEvents k m v q s ++ monitorLineEvents i k m v s else []

/-- At a finalize every monitor of the point evaluates value16, whatever its creator's subscription does: its state, count
and claim held follow R132 to R135, and MONITOR k stands in the claim set of its line exactly as claim held says
afterwards.  No other monitor and no other claimant changes.  The events come in ascending monitor index: the TRIP or
RECOVER of each to its creator, an ATTACHED port, under BROADCAST to every ATTACHED port, then the line event its claim
causes, to every ATTACHED port, before the events of the next.  (The code of a completion before the model's sample
instant: notes/assumptions/6.md; the grant decision that follows: 15.md.) -/
def Obligations.MonitorsEvaluateEachResult : Prop :=
  ∀ (i : PointIdx) (level : Level) (s : State), LastConversion i s → TableLaws s → ClaimLaws s → SessionLaws s →
    let v := (resultAt i (codeAt (s.point i).key.channel (s.point i).key.gain level s) s).value16
    ∃ u, exec (.conversionCompletion level) s = .next (finalizedThen i u) ∧
      (∀ k : MonitorIdx, u.monitor k = (s.monitor k).map (fun m => if m.point = i then evaluated m v else m)) ∧
      (∀ l : LineIdx, ∀ k : MonitorIdx, u.claims l (.monitor k) = ((u.monitor k).bind heldLine == some l)) ∧
      (∀ l : LineIdx, u.claims l .start = s.claims l .start ∧
        (∀ h : Port, u.claims l (.host h) = s.claims l (.host h)) ∧
        (∀ k : TripIdx, u.claims l (.trip k) = s.claims l (.trip k))) ∧
      (∀ k : MonitorIdx, ∀ m ∈ s.monitor k, s.attached m.creator = true) ∧
      (∀ q : Port, u.queue q = offered s q (allMonitors.flatMap (eventsOfMonitor i v q s)))

/-! ### Rings and event queues -/

/-- A record that arrives at a ring holding fewer than 64 records is stored at the tail of the unsent region with the
pending-lost count in its lost field, and the pending-lost count becomes 0.  At a ring of 64 records, KEEP_OLDEST drops
it and KEEP_NEWEST removes the oldest unsent record and stores it; either way one record more counts as lost, in both
counts, saturating.  The window and the rest of the ring are unchanged.  A record delivered to an ATTACHED port changes
nothing but its ring so, and leaves ALERT asserted exactly when the unsent count then stands at the watermark or above or
an event waits; to a DETACHED port it changes nothing, and ALERT is deasserted. -/
def Obligations.RecordArrivesAtARing : Prop :=
  ∀ (r : Ring) (x : Record), RingBounds r →
    let lost := min (r.pendingLost + 1) 255
    let total := min (r.totalLost + 1) 65535
    (r.window.length + r.unsent.length < 64 →
      ringArrive r x = { r with unsent := r.unsent ++ [{ x with lost := r.pendingLost }], pendingLost := 0 }) ∧
    (r.window.length + r.unsent.length = 64 → r.policy = .keepOldest →
      ringArrive r x = { r with pendingLost := lost, totalLost := total }) ∧
    (r.window.length + r.unsent.length = 64 → r.policy = .keepNewest →
      ∃ oldest rest, r.unsent = oldest :: rest ∧
        ringArrive r x = { r with unsent := rest ++ [{ x with lost := lost }], pendingLost := 0, totalLost := total }) ∧
    ∀ (p : Port) (s : State), s.ring p = r →
      let t := deliverRecord p x s
      let unsent := r.unsent.length + (if r.window.length + r.unsent.length < 64 then 1 else 0)
      (s.attached p = true → t = s.setRing p (ringArrive r x) ∧
        (t.alertAsserted p = true ↔ r.watermark ≤ unsent ∨ (s.queue p).events ≠ [])) ∧
      (s.attached p = false → t = s ∧ t.alertAsserted p = false)

/-- The body of a READ RESULTS response (R110, R205): flags, token, records returned, unsent count, pending-lost count,
records. -/
def Sys2Proof.Statement.windowReport (flags : Byte) (r : Ring) : List Byte :=
  [flags, r.token, BitVec.ofNat 8 r.window.length, BitVec.ofNat 8 r.unsent.length, BitVec.ofNat 8 r.pendingLost] ++
    r.window.flatMap recordLayout

/-- The ring after a new window of up to `k` records has been formed (R109). -/
def Sys2Proof.Statement.formed (r : Ring) (k : Nat) : Ring :=
  { r with window := r.unsent.take k, unsent := r.unsent.drop k,
           token := if r.unsent.isEmpty then r.token else r.token + 1 }

/-- READ RESULTS is refused with BAD_FIELD when k is 0 or above 15 or the acknowledgement kind is unknown.  With a window
outstanding whose token is acknowledged it is released and a new one formed; with another acknowledgement or none it is
sent again, RESENT set; with none outstanding a new one is formed, a token being ignored, ACK_IGNORED set.  Nothing but
the port's ring changes. -/
def Obligations.ReadResultsHandlesTheWindow : Prop :=
  ∀ (p : Port) (tag k kind token : Byte) (s : State),
    let body := [k, kind, token]
    Asks p tag 0x30 body s →
    let c := Instr.readResults p tag body
    let r := s.ring p
    let answers := fun (flags : Byte) (r' : Ring) => exec c s =
      .next (answered p tag 0x30 body (okAnswer (windowReport flags r')) ((atOwner p s).setRing p r'))
    if k.toNat = 0 ∨ 15 < k.toNat ∨ 1 < kind.toNat then Refuses c p tag 0x30 body .badField s
    else if r.window = [] then answers (if kind = 1 then 2 else 0) (formed r k.toNat)
    else if kind = 1 ∧ token = r.token then answers 0 (formed r k.toNat)
    else answers 1 r

/-- ACK RESULTS releases the outstanding window its token names, and forms no new one; otherwise it is answered STALE_ACK
and the ring is unchanged.  The OK answer carries the unsent and the pending-lost count, the STALE_ACK answer the token and
the number of records in the window. -/
def Obligations.AckResultsReleasesTheWindow : Prop :=
  ∀ (p : Port) (tag token : Byte) (s : State), Asks p tag 0x31 [token] s →
    let r := s.ring p
    (r.window ≠ [] → token = r.token →
      exec (.ackResults p tag [token]) s = .next (answered p tag 0x31 [token]
        (okAnswer [BitVec.ofNat 8 r.unsent.length, BitVec.ofNat 8 r.pendingLost])
        ((atOwner p s).setRing p { r with window := [] }))) ∧
    (r.window = [] ∨ token ≠ r.token →
      exec (.ackResults p tag [token]) s = .next (answered p tag 0x31 [token]
        { status := .staleAck, body := [r.token, BitVec.ofNat 8 r.window.length] } (atOwner p s)))

/-- READ EVENTS is refused with BAD_FIELD when its maximum is 0 or above 16.  Otherwise the oldest events up to the
maximum leave the queue, the lost-event count is read and set to 0, and the answer carries the number returned, the count
read, the number left and the events, oldest first.  Nothing but the port's queue changes. -/
def Obligations.ReadEventsTakesTheOldest : Prop :=
  ∀ (p : Port) (tag maximum : Byte) (s : State), Asks p tag 0x32 [maximum] s →
    let q := s.queue p
    let n := maximum.toNat
    if n = 0 ∨ 16 < n then Refuses (.readEvents p tag [maximum]) p tag 0x32 [maximum] .badField s
    else exec (.readEvents p tag [maximum]) s = .next (answered p tag 0x32 [maximum]
      (okAnswer ([BitVec.ofNat 8 (min n q.events.length), BitVec.ofNat 8 q.lost, BitVec.ofNat 8 (q.events.length - n)] ++
        (q.events.take n).flatMap eventLayout))
      ((atOwner p s).setQueue p { events := q.events.drop n, lost := 0 }))

/-- An event that is formed goes, with the timebase as its timestamp, to each port it is meant for: an ATTACHED port's
queue of fewer than 16 events takes it at the tail, a full one drops it and counts the loss, saturating, and a DETACHED
port neither takes nor counts it.  No queue affects another, and nothing else changes.  ALERT is then asserted at every
ATTACHED port that the event was meant for. -/
def Obligations.EventIsOfferedToEachQueue : Prop :=
  ∀ (kind : EventKind) (subject value : Nat) (dest : Port → Bool) (s : State),
    let t := formEvent kind subject value dest s
    let e : Event := { kind := kind, subject := subject, value := value, timestamp := s.timebase }
    t = { s with queues := t.queues } ∧
    ∀ q : Port,
      if dest q = true ∧ s.attached q = true then
        if (s.queue q).events.length < 16 then
          t.queue q = { s.queue q with events := (s.queue q).events ++ [e] } ∧ t.alertAsserted q = true
        else t.queue q = { s.queue q with lost := min ((s.queue q).lost + 1) 255 } ∧ t.alertAsserted q = true
      else t.queue q = s.queue q ∧ t.alertAsserted q = s.alertAsserted q

/-! ### Monitors -/

/-- A field of a CREATE MONITOR body is out of range (R128, at the byte positions of R204). -/
abbrev Sys2Proof.Statement.MonitorOutOfRange (body : List Byte) : Prop :=
  31 < at8 body 0 ∨ 4095 < at16 body 5 ∨ at8 body 7 = 0 ∨ 8 < at8 body 7 ∨ 2 < at8 body 8 ∨
  ((at8 body 8 = 1 ∨ at8 body 8 = 2) ∧ 3 < at8 body 9) ∨ at16 body 3 < at16 body 1 + 2 * at16 body 5

/-- CREATE MONITOR is refused, changing nothing, with BAD_FIELD for a field out of range, NO_SUCH_POINT for a FREE or
RETIRING entry, NOT_SUBSCRIBED for a port not in the list and NO_MONITOR_ROOM when all eight entries are in use, in this
order.  Otherwise the lowest free entry takes the fields, the port its creator, IN with count 0 and no claim; no event and
no claim follows. -/
def Obligations.CreateMonitorTakesTheLowestEntry : Prop :=
  ∀ (p : Port) (tag : Byte) (body : List Byte) (s : State), Asks p tag 0x40 body s → body.length = 11 →
    let c := Instr.createMonitor p tag body
    (MonitorOutOfRange body → Refuses c p tag 0x40 body .badField s) ∧
    (¬MonitorOutOfRange body → readMonitor body ≠ none) ∧
    ∀ f : MonitorFields, readMonitor body = some f →
      ¬MonitorOutOfRange body ∧ f.point.val = at8 body 0 ∧ f.low = at16 body 1 ∧ f.high = at16 body 3 ∧
      f.hysteresis = at16 body 5 ∧ f.qualify = at8 body 7 ∧
      if (s.point f.point).state = .free ∨ (s.point f.point).state = .retiring
      then Refuses c p tag 0x40 body .noSuchPoint s
      else if p ∉ (s.point f.point).subscribers then Refuses c p tag 0x40 body .notSubscribed s
      else
        ((∀ k : MonitorIdx, s.monitor k ≠ none) → Refuses c p tag 0x40 body .noMonitorRoom s) ∧
        ∀ k : MonitorIdx, s.monitor k = none → (∀ j : MonitorIdx, j < k → s.monitor j ≠ none) →
          exec c s = .next (answered p tag 0x40 body (okAnswer [BitVec.ofNat 8 k.val])
            ((atOwner p s).setMonitor k (some
              { creator := p, point := f.point, low := f.low, high := f.high, hysteresis := f.hysteresis,
                qualify := f.qualify, action := f.action, broadcast := f.broadcast, state := .inside, count := 0,
                claimHeld := false })))

/-- DELETE MONITOR is refused with BAD_FIELD, NO_SUCH_MONITOR and NOT_CREATOR in this order, changing nothing.  Otherwise
the entry becomes free; a held claim becomes a HOST claim of the creator on the same line, which stays asserted, with no
event; the answer says whether a claim was converted, and names its line.  Nothing else changes. -/
def Obligations.DeleteMonitorConvertsItsClaim : Prop :=
  ∀ (p : Port) (tag index : Byte) (s : State), Asks p tag 0x41 [index] s → ClaimLaws s →
    let c := Instr.deleteMonitor p tag [index]
    (7 < index.toNat → Refuses c p tag 0x41 [index] .badField s) ∧
    ∀ k : MonitorIdx, index.toNat = k.val →
      (s.monitor k = none → Refuses c p tag 0x41 [index] .noSuchMonitor s) ∧
      ∀ m ∈ s.monitor k,
        (m.creator ≠ p → Refuses c p tag 0x41 [index] .notCreator s) ∧
        (m.creator = p →
          ∃ t, exec c s = .next (answered p tag 0x41 [index] (okAnswer (match heldLine m with
              | some l => [1, BitVec.ofNat 8 l.val]
              | none => [0, 0xFF])) t) ∧
            t = { atOwner p s with monitors := t.monitors, lines := t.lines } ∧
            (∀ j : MonitorIdx, t.monitor j = if j = k then none else s.monitor j) ∧
            (∀ l : LineIdx, ∀ x : Fin 15, (t.line l)[x] =
              if heldLine m = some l ∧ x = claimantIndex (.host p) then true
              else if heldLine m = some l ∧ x = claimantIndex (.monitor k) then false
              else (s.line l)[x]) ∧
            (∀ l : LineIdx, t.lineAsserted l = s.lineAsserted l))

/-- CLEAR MONITOR CLAIM is refused with BAD_FIELD, NO_SUCH_MONITOR, NOT_CREATOR and STILL_OUT in this order, changing
nothing.  Otherwise a held claim leaves its line, with LINE_RELEASED when it was the last, and claim held becomes no; the
monitor's state and count stay; the answer says whether a claim was released, and names its line.  Nothing else
changes. -/
def Obligations.ClearMonitorClaimReleasesALatch : Prop :=
  ∀ (p : Port) (tag index : Byte) (s : State), Asks p tag 0x42 [index] s → ClaimLaws s →
    let c := Instr.clearMonitorClaim p tag [index]
    (7 < index.toNat → Refuses c p tag 0x42 [index] .badField s) ∧
    ∀ k : MonitorIdx, index.toNat = k.val →
      (s.monitor k = none → Refuses c p tag 0x42 [index] .noSuchMonitor s) ∧
      ∀ m ∈ s.monitor k,
        if m.creator ≠ p then Refuses c p tag 0x42 [index] .notCreator s
        else if m.state = .out then Refuses c p tag 0x42 [index] .stillOut s
        else match heldLine m with
          | none => exec c s = .next (answered p tag 0x42 [index] (okAnswer [0, 0xFF]) (atOwner p s))
          | some l =>
            ∃ t, exec c s = .next (answered p tag 0x42 [index] (okAnswer [1, BitVec.ofNat 8 l.val]) t) ∧
              t = { atOwner p s with monitors := t.monitors, lines := t.lines, queues := t.queues } ∧
              (∀ j : MonitorIdx, t.monitor j = if j = k then some { m with claimHeld := false } else s.monitor j) ∧
              ClaimsRemoved (maskOfLines (· == l)) (.monitor k) [] s t

/-! ### Lines -/

/-- A claimant that is added to a claim set it stands in changes nothing.  Otherwise it enters the set; when the set was
empty, LINE_ASSERTED with the line as subject and value 1 is offered to every ATTACHED port, and when it was not, no event
is formed.  No other line and nothing else changes. -/
def Obligations.ClaimIsAddedToASet : Prop :=
  ∀ (l : LineIdx) (c : Claimant) (s : State),
    let t := addClaim l c s
    if (s.line l)[claimantIndex c] = true then t = s
    else t = { s with lines := t.lines, queues := t.queues } ∧
      (∀ j : LineIdx, t.line j = if j = l then (s.line l).set (claimantIndex c) true else s.line j) ∧
      t.lineAsserted l = true ∧
      (∀ q : Port, t.queue q = offered s q (if s.lineAsserted l then [] else [eventNow s .lineAsserted l.val 1]))

/-- A claimant that is removed from a claim set it does not stand in changes nothing.  Otherwise it leaves the set; when
the set is then empty, LINE_RELEASED with the line as subject and value 0 is offered to every ATTACHED port, and when
others remain, the line stays asserted and no event is formed.  No other line and nothing else changes. -/
def Obligations.ClaimIsRemovedFromASet : Prop :=
  ∀ (l : LineIdx) (c : Claimant) (s : State),
    let t := removeClaim l c s
    if (s.line l)[claimantIndex c] = false then t = s
    else t = { s with lines := t.lines, queues := t.queues } ∧
      (∀ j : LineIdx, t.line j = if j = l then (s.line l).set (claimantIndex c) false else s.line j) ∧
      (t.lineAsserted l = false ↔ ∀ x : Fin 15, x ≠ claimantIndex c → (s.line l)[x] = false) ∧
      (∀ q : Port, t.queue q = offered s q (if t.lineAsserted l then [] else [eventNow s .lineReleased l.val 0]))

/-- CLAIM LINE is refused with BAD_FIELD when bits 4 to 7 of the mask are not 0.  Otherwise HOST p joins the claim set of
each line of the mask in ascending order; the answer carries the lines it was added to and the lines it stands in
afterwards.  No other claimant and nothing else changes. -/
def Obligations.ClaimLineAddsTheHostClaim : Prop :=
  ∀ (p : Port) (tag mask : Byte) (s : State), Asks p tag 0x50 [mask] s →
    let c := Instr.claimLine p tag [mask]
    let lines := mask.setWidth 4
    if 15 < mask.toNat then Refuses c p tag 0x50 [mask] .badField s
    else ∃ t, exec c s = .next (answered p tag 0x50 [mask]
          (okAnswer [(lines &&& ~~~linesWith s (.host p)).setWidth 8, (lines ||| linesWith s (.host p)).setWidth 8]) t) ∧
        t = { atOwner p s with lines := t.lines, queues := t.queues } ∧ ClaimsAdded lines (.host p) [] s t

/-- RELEASE LINE, RELEASE START and RELEASE ORPHAN are refused with BAD_FIELD for a mask (or a port) out of range, RELEASE
ORPHAN with NOT_ORPHAN for an ATTACHED port.  Otherwise HOST p, START, or HOST of the named port leaves the claim set of
each line of the mask in ascending order, and it alone; the answer carries the lines it was removed from and the lines
asserted afterwards.  Nothing else changes. -/
def Obligations.ReleaseRequestsRemoveOneClaimant : Prop :=
  ∀ (p : Port) (tag mask port : Byte) (s : State),
    let lines := mask.setWidth 4
    let releases := fun (c : Instr) (code : Byte) (body : List Byte) (x : Claimant) =>
      ∃ t, exec c s = .next (answered p tag code body
          (okAnswer [(lines &&& linesWith s x).setWidth 8, (linesUp t).setWidth 8]) t) ∧
        t = { atOwner p s with lines := t.lines, queues := t.queues } ∧ ClaimsRemoved lines x [] s t
    (Asks p tag 0x51 [mask] s → if 15 < mask.toNat then Refuses (.releaseLine p tag [mask]) p tag 0x51 [mask] .badField s
      else releases (.releaseLine p tag [mask]) 0x51 [mask] (.host p)) ∧
    (Asks p tag 0x52 [mask] s → if 15 < mask.toNat then Refuses (.releaseStart p tag [mask]) p tag 0x52 [mask] .badField s
      else releases (.releaseStart p tag [mask]) 0x52 [mask] .start) ∧
    (Asks p tag 0x53 [port, mask] s →
      let c := Instr.releaseOrphan p tag [port, mask]
      if h : port.toNat < 4 ∧ mask.toNat ≤ 15 then
        if s.attached ⟨port.toNat, h.1⟩ then Refuses c p tag 0x53 [port, mask] .notOrphan s
        else releases c 0x53 [port, mask] (.host ⟨port.toNat, h.1⟩)
      else Refuses c p tag 0x53 [port, mask] .badField s)

/-! ### Trip comparators -/

/-- TAKE TRIP and GIVE TRIP are refused with BAD_FIELD for an index above 1.  TAKE TRIP gives an unheld comparator to the
port, finds it its own, or is refused with HELD_BY_OTHER; its answers carry the holder.  GIVE TRIP leaves the port's
comparator unheld, or is refused with NOT_HOLDER.  State, configuration, run and claims stay, and nothing else changes. -/
def Obligations.TakeAndGiveTripMoveTheHolder : Prop :=
  ∀ (p : Port) (tag index : Byte) (s : State),
    (Asks p tag 0x60 [index] s →
      let c := Instr.takeTrip p tag [index]
      if h : index.toNat < 2 then
        let k : TripIdx := ⟨index.toNat, h⟩
        match (s.comparator k).holder with
        | none => exec c s = .next (answered p tag 0x60 [index] (okAnswer [BitVec.ofNat 8 p.val])
            ((atOwner p s).setComparator k { s.comparator k with holder := some p }))
        | some q =>
          exec c s = .next (answered p tag 0x60 [index]
            { status := if q = p then .ok else .heldByOther, body := [BitVec.ofNat 8 q.val] } (atOwner p s))
      else Refuses c p tag 0x60 [index] .badField s) ∧
    (Asks p tag 0x62 [index] s →
      let c := Instr.giveTrip p tag [index]
      if h : index.toNat < 2 then
        let k : TripIdx := ⟨index.toNat, h⟩
        if (s.comparator k).holder = some p then
          exec c s = .next (answered p tag 0x62 [index] (okAnswer [])
            ((atOwner p s).setComparator k { s.comparator k with holder := none }))
        else Refuses c p tag 0x62 [index] .notHolder s
      else Refuses c p tag 0x62 [index] .badField s)

/-- SET TRIP is refused with BAD_FIELD for a field out of range, NOT_HOLDER unless the port holds the comparator, and
TRIP_LATCHED when it is FIRED, in this order, changing nothing.  Otherwise the comparator takes the five configuration
fields, becomes WATCHING or OFF by the enable flag, its run becomes 0, and the answer carries its state.  Nothing else
changes. -/
def Obligations.SetTripConfiguresTheComparator : Prop :=
  ∀ (p : Port) (tag index input ladder polarity filter mask enable : Byte) (s : State),
    let body := [index, input, ladder, polarity, filter, mask, enable]
    Asks p tag 0x61 body s →
    let c := Instr.setTrip p tag body
    if h : index.toNat < 2 ∧ input.toNat < 16 ∧ ladder.toNat < 64 ∧ polarity.toNat < 2 ∧ filter.toNat < 4 ∧
        mask.toNat < 16 ∧ enable.toNat < 2 then
      let k : TripIdx := ⟨index.toNat, h.1⟩
      if (s.comparator k).holder ≠ some p then Refuses c p tag 0x61 body .notHolder s
      else if (s.comparator k).state = .fired then Refuses c p tag 0x61 body .tripLatched s
      else exec c s = .next (answered p tag 0x61 body (okAnswer [if enable = 1 then 1 else 0])
        ((atOwner p s).setComparator k
          { s.comparator k with
            config := { input := ⟨input.toNat, h.2.1⟩, step := ⟨ladder.toNat, h.2.2.1⟩,
                        polarity := if polarity = 0 then .above else .below,
                        filter := if filter = 0 then .f0 else if filter = 1 then .f1 else if filter = 2 then .f4 else .f16,
                        mask := mask.setWidth 4 },
            state := if enable = 1 then .watching else .off, run := 0 }))
    else Refuses c p tag 0x61 body .badField s

/-- CLEAR TRIP is refused with BAD_FIELD, NOT_FIRED, and STILL_ACTIVE while the present output is beyond, in this order,
changing nothing.  Otherwise, from any ATTACHED port, the comparator becomes WATCHING with run 0, TRIP_CLEARED goes to
every ATTACHED port before the line events, TRIP k leaves the claimed lines, and none are claimed; the answer carries
those lines.  Nothing else changes. -/
def Obligations.ClearTripReleasesTheClaimedLines : Prop :=
  ∀ (p : Port) (tag index : Byte) (s : State), Asks p tag 0x63 [index] s → ClaimLaws s →
    let c := Instr.clearTrip p tag [index]
    if h : index.toNat < 2 then
      let k : TripIdx := ⟨index.toNat, h⟩
      let x := s.comparator k
      if x.state ≠ .fired then Refuses c p tag 0x63 [index] .notFired s
      else if x.beyond then Refuses c p tag 0x63 [index] .stillActive s
      else ∃ t, exec c s = .next (answered p tag 0x63 [index] (okAnswer [x.claimed.setWidth 8]) t) ∧
        t = { atOwner p s with comparators := t.comparators, lines := t.lines, queues := t.queues } ∧
        (∀ j : TripIdx, t.comparator j =
          if j = k then { x with state := .watching, run := 0, claimed := 0 } else s.comparator j) ∧
        ClaimsRemoved x.claimed (.trip k) [eventNow s .tripCleared k.val 0] s t
    else Refuses c p tag 0x63 [index] .badField s

/-- What a firing leaves: FIRED with run 0, TRIP_FIRED to every ATTACHED port before the line events, TRIP k added to the
lines of the line mask, which become the claimed lines (R164). -/
abbrev Sys2Proof.Statement.Fires (k : TripIdx) (s t : State) : Prop :=
  t = { s with comparators := t.comparators, lines := t.lines, queues := t.queues } ∧
  (∀ j : TripIdx, t.comparator j = if j = k then
    { s.comparator k with state := .fired, run := 0, claimed := (s.comparator k).config.mask, beyond := true }
    else s.comparator j) ∧
  ClaimsAdded (s.comparator k).config.mask (.trip k) [eventNow s .tripFired k.val 0] s t

/-- What a sample of comparator Tk with this output leaves, from state `s`: the present output follows it.  In WATCHING a
beyond sample raises the run, and the one that brings it to 1, 48, 192 or 768, by the filter, fires the comparator; a safe
one sets the run to 0.  In OFF and FIRED nothing else happens (R162, R163). -/
abbrev Sys2Proof.Statement.Samples (k : TripIdx) (output : Bool) (s : State) (outcome : Host.Outcome State Fault Refusal) :
    Prop :=
  let x := s.comparator k
  (x.state ≠ .watching → outcome = .next (s.setComparator k { x with beyond := output })) ∧
  (x.state = .watching → output = false → outcome = .next (s.setComparator k { x with beyond := false, run := 0 })) ∧
  (x.state = .watching → output = true → x.run + 1 ≠ fireCount x.config →
    outcome = .next (s.setComparator k { x with beyond := true, run := x.run + 1 })) ∧
  (x.state = .watching → output = true → x.run + 1 = fireCount x.config → ∃ t, outcome = .next t ∧ Fires k s t)

/-- COMPARATOR_SAMPLE and TRIP_FIRING are samples of a comparator, held or not: its input pin against the threshold of its
configuration as it then stands, by the polarity.  A sample that brings the run to the filter's count fires it; so
TRIP_FIRING fires where it completes the run, and after a SET TRIP taken first counts afresh like any other sample.  The
model's choices: the output within the resolution, free, but beyond for a TRIP_FIRING that completes the run
(notes/assumptions/13.md); COMPARATOR_SAMPLE brings the level its pin stands at (8.md); a TRIP_FIRING that completes no run
is a sample all the same (3.md). -/
def Obligations.ComparatorFiresAfterItsFilter : Prop :=
  ∀ (k : TripIdx) (input : SampledInput) (s : State), s.resetLow = false →
    let x := s.comparator k
    let completes := x.state == .watching && x.run + 1 == fireCount x.config
    Samples k (outputAt k x.config input.level input.near)
      { s with pins := { s.pins with ain := s.pins.ain.set x.config.input input.level } }
      (exec (.comparatorSample k input) s) ∧
    Samples k (outputAt k x.config s.pins.ain[x.config.input] (completes || Config.nearOutput s.draws k)) s
      (exec (.tripFiring k) s)

/-! ### Invariants and rules of the whole part -/

/-- Every law of Sys2Proof/Safety.lean holds right after reset. -/
def Obligations.LawsHoldAtReset : Prop := AllLaws State.reset

/-- Rings, event queues, saturating counters and the CLK periods since a tick stay within their bounds: every step keeps
BoundsLaw. -/
def Obligations.EveryStepKeepsBounds : Prop :=
  ∀ (s t : State), BoundsLaw s → step s = .next t → BoundsLaw t

/-- Every step keeps the laws of claims: a monitor's count and claim held follow its state and action, MONITOR k stands
exactly on the line monitor k holds, TRIP k exactly on comparator k's claimed lines, and a run counts in WATCHING
alone. -/
def Obligations.EveryStepKeepsClaimLaws : Prop :=
  ∀ (s t : State), ClaimLaws s → step s = .next t → ClaimLaws t

/-- Every step keeps the laws of ports and sessions: what READY, EXECUTING, DETACHED and the span between the stages of a
DETACH imply, that a DETACHED port owns no subscription, comparator or QUEUED job, and that the receiver's timer and byte
counts fit its state. -/
def Obligations.EveryStepKeepsSessionLaws : Prop :=
  ∀ (s t : State), SessionLaws s → step s = .next t → SessionLaws t

/-- Every step keeps the laws that join the tables: subscriber lists and subscription tables agree, monitors' creators are
subscribers, at most 8 urgent entries, trigger state fits the kind, every point and job stands where its state says and
nowhere else, and nothing waits while the converter is IDLE.  The model's choice: a finalize may leave its grant decision to
the next command in line, where that enqueues the point anew; work may wait in between (notes/assumptions/15.md). -/
def Obligations.EveryStepKeepsTableLaws : Prop :=
  ∀ (s t : State), TableLaws s → SessionLaws s → step s = .next t → TableLaws t

/-- Only a reset puts START back into a claim set, takes a trim entry from VALID back to UNCALIBRATED, or changes a strap
or the timebase at a command; and only a conversion completion changes a trim entry otherwise. -/
def Obligations.OnlyAResetRestoresThese : Prop :=
  ∀ (c : Instr) (s t : State), c ≠ .fullReset → exec c s = .next t →
    (∀ l : LineIdx, t.claims l .start = true → s.claims l .start = true) ∧
    (∀ g ∈ allGains, (s.trimEntry g).state = .valid → (t.trimEntry g).state = .valid) ∧
    ((∀ level, c ≠ .conversionCompletion level) → t.trims = s.trims) ∧
    ((∀ share cdiv baud levels, c ≠ .resetRelease share cdiv baud levels) →
      t.timebase = s.timebase ∧ t.share = s.share ∧ t.cdiv = s.cdiv ∧ t.baud = s.baud)

/-- Claimants leave and enter claim sets only at the commands R147 names.  Leaving: START at RELEASE START; HOST h at
RELEASE LINE from port h, or at RELEASE ORPHAN while port h is DETACHED; MONITOR k at a conversion completion, CLEAR
MONITOR CLAIM, DELETE MONITOR, LEAVE POINT or the loss of a session; TRIP k at CLEAR TRIP.  Entering: START never; HOST h at CLAIM
LINE from port h or where a monitor of port h is deleted (DELETE MONITOR, LEAVE POINT, loss of its session); MONITOR k at
a conversion completion; TRIP k at a firing of comparator k.  Full reset, which makes every set {START}, stands apart; a
byte that completes the frame of a request is that request, under BytesOfAFrameAreItsCommand. -/
def Obligations.ClaimsChangeOnlyByTheirOwners : Prop :=
  ∀ (c : Instr) (l : LineIdx) (s t : State), exec c s = .next t → c ≠ .fullReset → (∀ p b, c ≠ .byteTaken p b) →
    (s.claims l .start = true → t.claims l .start = false → ∃ p tag body, c = .releaseStart p tag body) ∧
    (s.claims l .start = false → t.claims l .start = false) ∧
    (∀ h : Port, s.claims l (.host h) = true → t.claims l (.host h) = false →
      (∃ tag body, c = .releaseLine h tag body) ∨
      (s.attached h = false ∧ ∃ p tag body, c = .releaseOrphan p tag body)) ∧
    (∀ h : Port, s.claims l (.host h) = false → t.claims l (.host h) = true →
      c = .supervisionExpiry h ∨
      ∃ tag body, c = .claimLine h tag body ∨ c = .deleteMonitor h tag body ∨ c = .leavePoint h tag body) ∧
    (∀ k : MonitorIdx, s.claims l (.monitor k) = true → t.claims l (.monitor k) = false →
      (∃ level, c = .conversionCompletion level) ∨ (∃ p, c = .supervisionExpiry p) ∨
      (∃ p tag body, c = .clearMonitorClaim p tag body ∨ c = .deleteMonitor p tag body ∨ c = .leavePoint p tag body)) ∧
    (∀ k : MonitorIdx, s.claims l (.monitor k) = false → t.claims l (.monitor k) = true →
      ∃ level, c = .conversionCompletion level) ∧
    (∀ k : TripIdx, s.claims l (.trip k) = true → t.claims l (.trip k) = false →
      ∃ p tag body, c = .clearTrip p tag body) ∧
    (∀ k : TripIdx, s.claims l (.trip k) = false → t.claims l (.trip k) = true →
      c = .tripFiring k ∨ ∃ input, c = .comparatorSample k input)

/-- A frame on one port changes nothing private to another: not its session, request state, duplicate cache, framing-error
count or receiver, not its ring, not its subscriptions, and it takes no event out of its queue. -/
def Obligations.OnePortsRequestLeavesOthersAlone : Prop :=
  ∀ (c : Instr) (p q : Port) (tag code : Byte) (body : List Byte) (s t : State),
    goodFrameOf c = some (p, tag, code, body) → q ≠ p → (s.queue q).lost ≤ 255 → exec c s = .next t →
    t.port q = s.port q ∧ t.ring q = s.ring q ∧ t.slots q = s.slots q ∧
    (s.queue q).events <+: (t.queue q).events ∧ (s.queue q).lost ≤ (t.queue q).lost
end

