-- ==== Sys2Proof/Laws/State.lean ====
section
/-!
SUPPORT. What each writer of State changes and what it leaves: one lemma per writer and field, one per writer and
reader, and the two laws of a table (a read after a write to the same place, and to another place).
-/

namespace Sys2Proof.Machine

theorem gainIndex_injective {g h : Gain} (e : gainIndex g = gainIndex h) : g = h := by
  cases g <;> cases h <;> first | rfl | exact absurd e (by decide)

@[simp] theorem gainOfIndex_gainIndex (g : Gain) : gainOfIndex (gainIndex g) = g := by cases g <;> rfl

@[simp] theorem gainIndex_gainOfIndex (k : Fin 4) : gainIndex (gainOfIndex k) = k := by
  match k with
  | 0 => rfl
  | 1 => rfl
  | 2 => rfl
  | 3 => rfl

/-! ### setPoint -/

@[simp] theorem point_setPoint (s : State) (i : PointIdx) (v : PointEntry) : (s.setPoint i v).point i = v := by
  simp [State.point, State.setPoint]

theorem point_setPoint_ne (s : State) (i j : PointIdx) (v : PointEntry) (h : j ≠ i) : (s.setPoint i v).point j = s.point j := by
  have h' : i.val ≠ j.val := fun e => h (Fin.ext e).symm
  simp [State.point, State.setPoint, Vector.getElem_set_ne, h']

theorem point_setPoint_eq (s : State) (i j : PointIdx) (v : PointEntry) : (s.setPoint i v).point j = if j = i then v else s.point j := by
  split
  next h => rw [h, point_setPoint]
  next h => exact point_setPoint_ne s i j v h

@[simp] theorem setPoint_setPoint (s : State) (i : PointIdx) (v w : PointEntry) : (s.setPoint i v).setPoint i w = s.setPoint i w := by
  simp [State.setPoint]

@[simp] theorem setPoint_point (s : State) (i : PointIdx) : s.setPoint i (s.point i) = s := by
  simp [State.setPoint, State.point]

@[simp] theorem resetLow_setPoint (s : State) (i : PointIdx) (v : PointEntry) : (s.setPoint i v).resetLow = s.resetLow := rfl
@[simp] theorem share_setPoint (s : State) (i : PointIdx) (v : PointEntry) : (s.setPoint i v).share = s.share := rfl
@[simp] theorem cdiv_setPoint (s : State) (i : PointIdx) (v : PointEntry) : (s.setPoint i v).cdiv = s.cdiv := rfl
@[simp] theorem baud_setPoint (s : State) (i : PointIdx) (v : PointEntry) : (s.setPoint i v).baud = s.baud := rfl
@[simp] theorem clkPhase_setPoint (s : State) (i : PointIdx) (v : PointEntry) : (s.setPoint i v).clkPhase = s.clkPhase := rfl
@[simp] theorem timebase_setPoint (s : State) (i : PointIdx) (v : PointEntry) : (s.setPoint i v).timebase = s.timebase := rfl
@[simp] theorem pins_setPoint (s : State) (i : PointIdx) (v : PointEntry) : (s.setPoint i v).pins = s.pins := rfl
@[simp] theorem trgLevels_setPoint (s : State) (i : PointIdx) (v : PointEntry) : (s.setPoint i v).trgLevels = s.trgLevels := rfl
@[simp] theorem trgSamples_setPoint (s : State) (i : PointIdx) (v : PointEntry) : (s.setPoint i v).trgSamples = s.trgSamples := rfl
@[simp] theorem subs_setPoint (s : State) (i : PointIdx) (v : PointEntry) : (s.setPoint i v).subs = s.subs := rfl
@[simp] theorem urgentQueue_setPoint (s : State) (i : PointIdx) (v : PointEntry) : (s.setPoint i v).urgentQueue = s.urgentQueue := rfl
@[simp] theorem fifos_setPoint (s : State) (i : PointIdx) (v : PointEntry) : (s.setPoint i v).fifos = s.fifos := rfl
@[simp] theorem suspended_setPoint (s : State) (i : PointIdx) (v : PointEntry) : (s.setPoint i v).suspended = s.suspended := rfl
@[simp] theorem converter_setPoint (s : State) (i : PointIdx) (v : PointEntry) : (s.setPoint i v).converter = s.converter := rfl
@[simp] theorem decisionDue_setPoint (s : State) (i : PointIdx) (v : PointEntry) : (s.setPoint i v).decisionDue = s.decisionDue := rfl
@[simp] theorem wheelPosition_setPoint (s : State) (i : PointIdx) (v : PointEntry) : (s.setPoint i v).wheelPosition = s.wheelPosition := rfl
@[simp] theorem urgentGrants_setPoint (s : State) (i : PointIdx) (v : PointEntry) : (s.setPoint i v).urgentGrants = s.urgentGrants := rfl
@[simp] theorem wheelGrants_setPoint (s : State) (i : PointIdx) (v : PointEntry) : (s.setPoint i v).wheelGrants = s.wheelGrants := rfl
@[simp] theorem conversion_setPoint (s : State) (i : PointIdx) (v : PointEntry) : (s.setPoint i v).conversion = s.conversion := rfl
@[simp] theorem lastGain_setPoint (s : State) (i : PointIdx) (v : PointEntry) : (s.setPoint i v).lastGain = s.lastGain := rfl
@[simp] theorem trims_setPoint (s : State) (i : PointIdx) (v : PointEntry) : (s.setPoint i v).trims = s.trims := rfl
@[simp] theorem jobs_setPoint (s : State) (i : PointIdx) (v : PointEntry) : (s.setPoint i v).jobs = s.jobs := rfl
@[simp] theorem rings_setPoint (s : State) (i : PointIdx) (v : PointEntry) : (s.setPoint i v).rings = s.rings := rfl
@[simp] theorem queues_setPoint (s : State) (i : PointIdx) (v : PointEntry) : (s.setPoint i v).queues = s.queues := rfl
@[simp] theorem monitors_setPoint (s : State) (i : PointIdx) (v : PointEntry) : (s.setPoint i v).monitors = s.monitors := rfl
@[simp] theorem lines_setPoint (s : State) (i : PointIdx) (v : PointEntry) : (s.setPoint i v).lines = s.lines := rfl
@[simp] theorem comparators_setPoint (s : State) (i : PointIdx) (v : PointEntry) : (s.setPoint i v).comparators = s.comparators := rfl
@[simp] theorem ports_setPoint (s : State) (i : PointIdx) (v : PointEntry) : (s.setPoint i v).ports = s.ports := rfl
@[simp] theorem draws_setPoint (s : State) (i : PointIdx) (v : PointEntry) : (s.setPoint i v).draws = s.draws := rfl
@[simp] theorem pending_setPoint (s : State) (i : PointIdx) (v : PointEntry) : (s.setPoint i v).pending = s.pending := rfl
@[simp] theorem slots_setPoint (s : State) (i : PointIdx) (v : PointEntry) (j : Port) : (s.setPoint i v).slots j = s.slots j := rfl
@[simp] theorem fifo_setPoint (s : State) (i : PointIdx) (v : PointEntry) (j : Port) : (s.setPoint i v).fifo j = s.fifo j := rfl
@[simp] theorem urgentGrant_setPoint (s : State) (i : PointIdx) (v : PointEntry) (j : Port) : (s.setPoint i v).urgentGrant j = s.urgentGrant j := rfl
@[simp] theorem wheelGrant_setPoint (s : State) (i : PointIdx) (v : PointEntry) (j : Port) : (s.setPoint i v).wheelGrant j = s.wheelGrant j := rfl
@[simp] theorem ring_setPoint (s : State) (i : PointIdx) (v : PointEntry) (j : Port) : (s.setPoint i v).ring j = s.ring j := rfl
@[simp] theorem queue_setPoint (s : State) (i : PointIdx) (v : PointEntry) (j : Port) : (s.setPoint i v).queue j = s.queue j := rfl
@[simp] theorem monitor_setPoint (s : State) (i : PointIdx) (v : PointEntry) (j : MonitorIdx) : (s.setPoint i v).monitor j = s.monitor j := rfl
@[simp] theorem line_setPoint (s : State) (i : PointIdx) (v : PointEntry) (j : LineIdx) : (s.setPoint i v).line j = s.line j := rfl
@[simp] theorem comparator_setPoint (s : State) (i : PointIdx) (v : PointEntry) (j : TripIdx) : (s.setPoint i v).comparator j = s.comparator j := rfl
@[simp] theorem port_setPoint (s : State) (i : PointIdx) (v : PointEntry) (j : Port) : (s.setPoint i v).port j = s.port j := rfl
@[simp] theorem trimEntry_setPoint (s : State) (i : PointIdx) (v : PointEntry) (j : Gain) : (s.setPoint i v).trimEntry j = s.trimEntry j := rfl
@[simp] theorem job_setPoint (s : State) (i : PointIdx) (v : PointEntry) (j : Gain) : (s.setPoint i v).job j = s.job j := rfl
@[simp] theorem attached_setPoint (s : State) (i : PointIdx) (v : PointEntry) (p : Port) : (s.setPoint i v).attached p = s.attached p := rfl
@[simp] theorem slot_setPoint (s : State) (i : PointIdx) (v : PointEntry) (p : Port) (k : SlotIdx) : (s.setPoint i v).slot p k = s.slot p k := rfl
@[simp] theorem claims_setPoint (s : State) (i : PointIdx) (v : PointEntry) (l : LineIdx) (c : Claimant) : (s.setPoint i v).claims l c = s.claims l c := rfl

/-! ### setSlots -/

@[simp] theorem slots_setSlots (s : State) (i : Port) (v : Vector (Option Subscription) 16) : (s.setSlots i v).slots i = v := by
  simp [State.slots, State.setSlots]

theorem slots_setSlots_ne (s : State) (i j : Port) (v : Vector (Option Subscription) 16) (h : j ≠ i) : (s.setSlots i v).slots j = s.slots j := by
  have h' : i.val ≠ j.val := fun e => h (Fin.ext e).symm
  simp [State.slots, State.setSlots, Vector.getElem_set_ne, h']

theorem slots_setSlots_eq (s : State) (i j : Port) (v : Vector (Option Subscription) 16) : (s.setSlots i v).slots j = if j = i then v else s.slots j := by
  split
  next h => rw [h, slots_setSlots]
  next h => exact slots_setSlots_ne s i j v h

@[simp] theorem setSlots_setSlots (s : State) (i : Port) (v w : Vector (Option Subscription) 16) : (s.setSlots i v).setSlots i w = s.setSlots i w := by
  simp [State.setSlots]

@[simp] theorem setSlots_slots (s : State) (i : Port) : s.setSlots i (s.slots i) = s := by
  simp [State.setSlots, State.slots]

@[simp] theorem resetLow_setSlots (s : State) (i : Port) (v : Vector (Option Subscription) 16) : (s.setSlots i v).resetLow = s.resetLow := rfl
@[simp] theorem share_setSlots (s : State) (i : Port) (v : Vector (Option Subscription) 16) : (s.setSlots i v).share = s.share := rfl
@[simp] theorem cdiv_setSlots (s : State) (i : Port) (v : Vector (Option Subscription) 16) : (s.setSlots i v).cdiv = s.cdiv := rfl
@[simp] theorem baud_setSlots (s : State) (i : Port) (v : Vector (Option Subscription) 16) : (s.setSlots i v).baud = s.baud := rfl
@[simp] theorem clkPhase_setSlots (s : State) (i : Port) (v : Vector (Option Subscription) 16) : (s.setSlots i v).clkPhase = s.clkPhase := rfl
@[simp] theorem timebase_setSlots (s : State) (i : Port) (v : Vector (Option Subscription) 16) : (s.setSlots i v).timebase = s.timebase := rfl
@[simp] theorem pins_setSlots (s : State) (i : Port) (v : Vector (Option Subscription) 16) : (s.setSlots i v).pins = s.pins := rfl
@[simp] theorem trgLevels_setSlots (s : State) (i : Port) (v : Vector (Option Subscription) 16) : (s.setSlots i v).trgLevels = s.trgLevels := rfl
@[simp] theorem trgSamples_setSlots (s : State) (i : Port) (v : Vector (Option Subscription) 16) : (s.setSlots i v).trgSamples = s.trgSamples := rfl
@[simp] theorem points_setSlots (s : State) (i : Port) (v : Vector (Option Subscription) 16) : (s.setSlots i v).points = s.points := rfl
@[simp] theorem urgentQueue_setSlots (s : State) (i : Port) (v : Vector (Option Subscription) 16) : (s.setSlots i v).urgentQueue = s.urgentQueue := rfl
@[simp] theorem fifos_setSlots (s : State) (i : Port) (v : Vector (Option Subscription) 16) : (s.setSlots i v).fifos = s.fifos := rfl
@[simp] theorem suspended_setSlots (s : State) (i : Port) (v : Vector (Option Subscription) 16) : (s.setSlots i v).suspended = s.suspended := rfl
@[simp] theorem converter_setSlots (s : State) (i : Port) (v : Vector (Option Subscription) 16) : (s.setSlots i v).converter = s.converter := rfl
@[simp] theorem decisionDue_setSlots (s : State) (i : Port) (v : Vector (Option Subscription) 16) : (s.setSlots i v).decisionDue = s.decisionDue := rfl
@[simp] theorem wheelPosition_setSlots (s : State) (i : Port) (v : Vector (Option Subscription) 16) : (s.setSlots i v).wheelPosition = s.wheelPosition := rfl
@[simp] theorem urgentGrants_setSlots (s : State) (i : Port) (v : Vector (Option Subscription) 16) : (s.setSlots i v).urgentGrants = s.urgentGrants := rfl
@[simp] theorem wheelGrants_setSlots (s : State) (i : Port) (v : Vector (Option Subscription) 16) : (s.setSlots i v).wheelGrants = s.wheelGrants := rfl
@[simp] theorem conversion_setSlots (s : State) (i : Port) (v : Vector (Option Subscription) 16) : (s.setSlots i v).conversion = s.conversion := rfl
@[simp] theorem lastGain_setSlots (s : State) (i : Port) (v : Vector (Option Subscription) 16) : (s.setSlots i v).lastGain = s.lastGain := rfl
@[simp] theorem trims_setSlots (s : State) (i : Port) (v : Vector (Option Subscription) 16) : (s.setSlots i v).trims = s.trims := rfl
@[simp] theorem jobs_setSlots (s : State) (i : Port) (v : Vector (Option Subscription) 16) : (s.setSlots i v).jobs = s.jobs := rfl
@[simp] theorem rings_setSlots (s : State) (i : Port) (v : Vector (Option Subscription) 16) : (s.setSlots i v).rings = s.rings := rfl
@[simp] theorem queues_setSlots (s : State) (i : Port) (v : Vector (Option Subscription) 16) : (s.setSlots i v).queues = s.queues := rfl
@[simp] theorem monitors_setSlots (s : State) (i : Port) (v : Vector (Option Subscription) 16) : (s.setSlots i v).monitors = s.monitors := rfl
@[simp] theorem lines_setSlots (s : State) (i : Port) (v : Vector (Option Subscription) 16) : (s.setSlots i v).lines = s.lines := rfl
@[simp] theorem comparators_setSlots (s : State) (i : Port) (v : Vector (Option Subscription) 16) : (s.setSlots i v).comparators = s.comparators := rfl
@[simp] theorem ports_setSlots (s : State) (i : Port) (v : Vector (Option Subscription) 16) : (s.setSlots i v).ports = s.ports := rfl
@[simp] theorem draws_setSlots (s : State) (i : Port) (v : Vector (Option Subscription) 16) : (s.setSlots i v).draws = s.draws := rfl
@[simp] theorem pending_setSlots (s : State) (i : Port) (v : Vector (Option Subscription) 16) : (s.setSlots i v).pending = s.pending := rfl
@[simp] theorem point_setSlots (s : State) (i : Port) (v : Vector (Option Subscription) 16) (j : PointIdx) : (s.setSlots i v).point j = s.point j := rfl
@[simp] theorem fifo_setSlots (s : State) (i : Port) (v : Vector (Option Subscription) 16) (j : Port) : (s.setSlots i v).fifo j = s.fifo j := rfl
@[simp] theorem urgentGrant_setSlots (s : State) (i : Port) (v : Vector (Option Subscription) 16) (j : Port) : (s.setSlots i v).urgentGrant j = s.urgentGrant j := rfl
@[simp] theorem wheelGrant_setSlots (s : State) (i : Port) (v : Vector (Option Subscription) 16) (j : Port) : (s.setSlots i v).wheelGrant j = s.wheelGrant j := rfl
@[simp] theorem ring_setSlots (s : State) (i : Port) (v : Vector (Option Subscription) 16) (j : Port) : (s.setSlots i v).ring j = s.ring j := rfl
@[simp] theorem queue_setSlots (s : State) (i : Port) (v : Vector (Option Subscription) 16) (j : Port) : (s.setSlots i v).queue j = s.queue j := rfl
@[simp] theorem monitor_setSlots (s : State) (i : Port) (v : Vector (Option Subscription) 16) (j : MonitorIdx) : (s.setSlots i v).monitor j = s.monitor j := rfl
@[simp] theorem line_setSlots (s : State) (i : Port) (v : Vector (Option Subscription) 16) (j : LineIdx) : (s.setSlots i v).line j = s.line j := rfl
@[simp] theorem comparator_setSlots (s : State) (i : Port) (v : Vector (Option Subscription) 16) (j : TripIdx) : (s.setSlots i v).comparator j = s.comparator j := rfl
@[simp] theorem port_setSlots (s : State) (i : Port) (v : Vector (Option Subscription) 16) (j : Port) : (s.setSlots i v).port j = s.port j := rfl
@[simp] theorem trimEntry_setSlots (s : State) (i : Port) (v : Vector (Option Subscription) 16) (j : Gain) : (s.setSlots i v).trimEntry j = s.trimEntry j := rfl
@[simp] theorem job_setSlots (s : State) (i : Port) (v : Vector (Option Subscription) 16) (j : Gain) : (s.setSlots i v).job j = s.job j := rfl
@[simp] theorem attached_setSlots (s : State) (i : Port) (v : Vector (Option Subscription) 16) (p : Port) : (s.setSlots i v).attached p = s.attached p := rfl
@[simp] theorem claims_setSlots (s : State) (i : Port) (v : Vector (Option Subscription) 16) (l : LineIdx) (c : Claimant) : (s.setSlots i v).claims l c = s.claims l c := rfl

/-! ### setFifo -/

@[simp] theorem fifo_setFifo (s : State) (i : Port) (v : List Subject) : (s.setFifo i v).fifo i = v := by
  simp [State.fifo, State.setFifo]

theorem fifo_setFifo_ne (s : State) (i j : Port) (v : List Subject) (h : j ≠ i) : (s.setFifo i v).fifo j = s.fifo j := by
  have h' : i.val ≠ j.val := fun e => h (Fin.ext e).symm
  simp [State.fifo, State.setFifo, Vector.getElem_set_ne, h']

theorem fifo_setFifo_eq (s : State) (i j : Port) (v : List Subject) : (s.setFifo i v).fifo j = if j = i then v else s.fifo j := by
  split
  next h => rw [h, fifo_setFifo]
  next h => exact fifo_setFifo_ne s i j v h

@[simp] theorem setFifo_setFifo (s : State) (i : Port) (v w : List Subject) : (s.setFifo i v).setFifo i w = s.setFifo i w := by
  simp [State.setFifo]

@[simp] theorem setFifo_fifo (s : State) (i : Port) : s.setFifo i (s.fifo i) = s := by
  simp [State.setFifo, State.fifo]

@[simp] theorem resetLow_setFifo (s : State) (i : Port) (v : List Subject) : (s.setFifo i v).resetLow = s.resetLow := rfl
@[simp] theorem share_setFifo (s : State) (i : Port) (v : List Subject) : (s.setFifo i v).share = s.share := rfl
@[simp] theorem cdiv_setFifo (s : State) (i : Port) (v : List Subject) : (s.setFifo i v).cdiv = s.cdiv := rfl
@[simp] theorem baud_setFifo (s : State) (i : Port) (v : List Subject) : (s.setFifo i v).baud = s.baud := rfl
@[simp] theorem clkPhase_setFifo (s : State) (i : Port) (v : List Subject) : (s.setFifo i v).clkPhase = s.clkPhase := rfl
@[simp] theorem timebase_setFifo (s : State) (i : Port) (v : List Subject) : (s.setFifo i v).timebase = s.timebase := rfl
@[simp] theorem pins_setFifo (s : State) (i : Port) (v : List Subject) : (s.setFifo i v).pins = s.pins := rfl
@[simp] theorem trgLevels_setFifo (s : State) (i : Port) (v : List Subject) : (s.setFifo i v).trgLevels = s.trgLevels := rfl
@[simp] theorem trgSamples_setFifo (s : State) (i : Port) (v : List Subject) : (s.setFifo i v).trgSamples = s.trgSamples := rfl
@[simp] theorem points_setFifo (s : State) (i : Port) (v : List Subject) : (s.setFifo i v).points = s.points := rfl
@[simp] theorem subs_setFifo (s : State) (i : Port) (v : List Subject) : (s.setFifo i v).subs = s.subs := rfl
@[simp] theorem urgentQueue_setFifo (s : State) (i : Port) (v : List Subject) : (s.setFifo i v).urgentQueue = s.urgentQueue := rfl
@[simp] theorem suspended_setFifo (s : State) (i : Port) (v : List Subject) : (s.setFifo i v).suspended = s.suspended := rfl
@[simp] theorem converter_setFifo (s : State) (i : Port) (v : List Subject) : (s.setFifo i v).converter = s.converter := rfl
@[simp] theorem decisionDue_setFifo (s : State) (i : Port) (v : List Subject) : (s.setFifo i v).decisionDue = s.decisionDue := rfl
@[simp] theorem wheelPosition_setFifo (s : State) (i : Port) (v : List Subject) : (s.setFifo i v).wheelPosition = s.wheelPosition := rfl
@[simp] theorem urgentGrants_setFifo (s : State) (i : Port) (v : List Subject) : (s.setFifo i v).urgentGrants = s.urgentGrants := rfl
@[simp] theorem wheelGrants_setFifo (s : State) (i : Port) (v : List Subject) : (s.setFifo i v).wheelGrants = s.wheelGrants := rfl
@[simp] theorem conversion_setFifo (s : State) (i : Port) (v : List Subject) : (s.setFifo i v).conversion = s.conversion := rfl
@[simp] theorem lastGain_setFifo (s : State) (i : Port) (v : List Subject) : (s.setFifo i v).lastGain = s.lastGain := rfl
@[simp] theorem trims_setFifo (s : State) (i : Port) (v : List Subject) : (s.setFifo i v).trims = s.trims := rfl
@[simp] theorem jobs_setFifo (s : State) (i : Port) (v : List Subject) : (s.setFifo i v).jobs = s.jobs := rfl
@[simp] theorem rings_setFifo (s : State) (i : Port) (v : List Subject) : (s.setFifo i v).rings = s.rings := rfl
@[simp] theorem queues_setFifo (s : State) (i : Port) (v : List Subject) : (s.setFifo i v).queues = s.queues := rfl
@[simp] theorem monitors_setFifo (s : State) (i : Port) (v : List Subject) : (s.setFifo i v).monitors = s.monitors := rfl
@[simp] theorem lines_setFifo (s : State) (i : Port) (v : List Subject) : (s.setFifo i v).lines = s.lines := rfl
@[simp] theorem comparators_setFifo (s : State) (i : Port) (v : List Subject) : (s.setFifo i v).comparators = s.comparators := rfl
@[simp] theorem ports_setFifo (s : State) (i : Port) (v : List Subject) : (s.setFifo i v).ports = s.ports := rfl
@[simp] theorem draws_setFifo (s : State) (i : Port) (v : List Subject) : (s.setFifo i v).draws = s.draws := rfl
@[simp] theorem pending_setFifo (s : State) (i : Port) (v : List Subject) : (s.setFifo i v).pending = s.pending := rfl
@[simp] theorem point_setFifo (s : State) (i : Port) (v : List Subject) (j : PointIdx) : (s.setFifo i v).point j = s.point j := rfl
@[simp] theorem slots_setFifo (s : State) (i : Port) (v : List Subject) (j : Port) : (s.setFifo i v).slots j = s.slots j := rfl
@[simp] theorem urgentGrant_setFifo (s : State) (i : Port) (v : List Subject) (j : Port) : (s.setFifo i v).urgentGrant j = s.urgentGrant j := rfl
@[simp] theorem wheelGrant_setFifo (s : State) (i : Port) (v : List Subject) (j : Port) : (s.setFifo i v).wheelGrant j = s.wheelGrant j := rfl
@[simp] theorem ring_setFifo (s : State) (i : Port) (v : List Subject) (j : Port) : (s.setFifo i v).ring j = s.ring j := rfl
@[simp] theorem queue_setFifo (s : State) (i : Port) (v : List Subject) (j : Port) : (s.setFifo i v).queue j = s.queue j := rfl
@[simp] theorem monitor_setFifo (s : State) (i : Port) (v : List Subject) (j : MonitorIdx) : (s.setFifo i v).monitor j = s.monitor j := rfl
@[simp] theorem line_setFifo (s : State) (i : Port) (v : List Subject) (j : LineIdx) : (s.setFifo i v).line j = s.line j := rfl
@[simp] theorem comparator_setFifo (s : State) (i : Port) (v : List Subject) (j : TripIdx) : (s.setFifo i v).comparator j = s.comparator j := rfl
@[simp] theorem port_setFifo (s : State) (i : Port) (v : List Subject) (j : Port) : (s.setFifo i v).port j = s.port j := rfl
@[simp] theorem trimEntry_setFifo (s : State) (i : Port) (v : List Subject) (j : Gain) : (s.setFifo i v).trimEntry j = s.trimEntry j := rfl
@[simp] theorem job_setFifo (s : State) (i : Port) (v : List Subject) (j : Gain) : (s.setFifo i v).job j = s.job j := rfl
@[simp] theorem attached_setFifo (s : State) (i : Port) (v : List Subject) (p : Port) : (s.setFifo i v).attached p = s.attached p := rfl
@[simp] theorem slot_setFifo (s : State) (i : Port) (v : List Subject) (p : Port) (k : SlotIdx) : (s.setFifo i v).slot p k = s.slot p k := rfl
@[simp] theorem claims_setFifo (s : State) (i : Port) (v : List Subject) (l : LineIdx) (c : Claimant) : (s.setFifo i v).claims l c = s.claims l c := rfl

/-! ### setUrgentGrant -/

@[simp] theorem urgentGrant_setUrgentGrant (s : State) (i : Port) (v : BitVec 16) : (s.setUrgentGrant i v).urgentGrant i = v := by
  simp [State.urgentGrant, State.setUrgentGrant]

theorem urgentGrant_setUrgentGrant_ne (s : State) (i j : Port) (v : BitVec 16) (h : j ≠ i) : (s.setUrgentGrant i v).urgentGrant j = s.urgentGrant j := by
  have h' : i.val ≠ j.val := fun e => h (Fin.ext e).symm
  simp [State.urgentGrant, State.setUrgentGrant, Vector.getElem_set_ne, h']

theorem urgentGrant_setUrgentGrant_eq (s : State) (i j : Port) (v : BitVec 16) : (s.setUrgentGrant i v).urgentGrant j = if j = i then v else s.urgentGrant j := by
  split
  next h => rw [h, urgentGrant_setUrgentGrant]
  next h => exact urgentGrant_setUrgentGrant_ne s i j v h

@[simp] theorem setUrgentGrant_setUrgentGrant (s : State) (i : Port) (v w : BitVec 16) : (s.setUrgentGrant i v).setUrgentGrant i w = s.setUrgentGrant i w := by
  simp [State.setUrgentGrant]

@[simp] theorem setUrgentGrant_urgentGrant (s : State) (i : Port) : s.setUrgentGrant i (s.urgentGrant i) = s := by
  simp [State.setUrgentGrant, State.urgentGrant]

@[simp] theorem resetLow_setUrgentGrant (s : State) (i : Port) (v : BitVec 16) : (s.setUrgentGrant i v).resetLow = s.resetLow := rfl
@[simp] theorem share_setUrgentGrant (s : State) (i : Port) (v : BitVec 16) : (s.setUrgentGrant i v).share = s.share := rfl
@[simp] theorem cdiv_setUrgentGrant (s : State) (i : Port) (v : BitVec 16) : (s.setUrgentGrant i v).cdiv = s.cdiv := rfl
@[simp] theorem baud_setUrgentGrant (s : State) (i : Port) (v : BitVec 16) : (s.setUrgentGrant i v).baud = s.baud := rfl
@[simp] theorem clkPhase_setUrgentGrant (s : State) (i : Port) (v : BitVec 16) : (s.setUrgentGrant i v).clkPhase = s.clkPhase := rfl
@[simp] theorem timebase_setUrgentGrant (s : State) (i : Port) (v : BitVec 16) : (s.setUrgentGrant i v).timebase = s.timebase := rfl
@[simp] theorem pins_setUrgentGrant (s : State) (i : Port) (v : BitVec 16) : (s.setUrgentGrant i v).pins = s.pins := rfl
@[simp] theorem trgLevels_setUrgentGrant (s : State) (i : Port) (v : BitVec 16) : (s.setUrgentGrant i v).trgLevels = s.trgLevels := rfl
@[simp] theorem trgSamples_setUrgentGrant (s : State) (i : Port) (v : BitVec 16) : (s.setUrgentGrant i v).trgSamples = s.trgSamples := rfl
@[simp] theorem points_setUrgentGrant (s : State) (i : Port) (v : BitVec 16) : (s.setUrgentGrant i v).points = s.points := rfl
@[simp] theorem subs_setUrgentGrant (s : State) (i : Port) (v : BitVec 16) : (s.setUrgentGrant i v).subs = s.subs := rfl
@[simp] theorem urgentQueue_setUrgentGrant (s : State) (i : Port) (v : BitVec 16) : (s.setUrgentGrant i v).urgentQueue = s.urgentQueue := rfl
@[simp] theorem fifos_setUrgentGrant (s : State) (i : Port) (v : BitVec 16) : (s.setUrgentGrant i v).fifos = s.fifos := rfl
@[simp] theorem suspended_setUrgentGrant (s : State) (i : Port) (v : BitVec 16) : (s.setUrgentGrant i v).suspended = s.suspended := rfl
@[simp] theorem converter_setUrgentGrant (s : State) (i : Port) (v : BitVec 16) : (s.setUrgentGrant i v).converter = s.converter := rfl
@[simp] theorem decisionDue_setUrgentGrant (s : State) (i : Port) (v : BitVec 16) : (s.setUrgentGrant i v).decisionDue = s.decisionDue := rfl
@[simp] theorem wheelPosition_setUrgentGrant (s : State) (i : Port) (v : BitVec 16) : (s.setUrgentGrant i v).wheelPosition = s.wheelPosition := rfl
@[simp] theorem wheelGrants_setUrgentGrant (s : State) (i : Port) (v : BitVec 16) : (s.setUrgentGrant i v).wheelGrants = s.wheelGrants := rfl
@[simp] theorem conversion_setUrgentGrant (s : State) (i : Port) (v : BitVec 16) : (s.setUrgentGrant i v).conversion = s.conversion := rfl
@[simp] theorem lastGain_setUrgentGrant (s : State) (i : Port) (v : BitVec 16) : (s.setUrgentGrant i v).lastGain = s.lastGain := rfl
@[simp] theorem trims_setUrgentGrant (s : State) (i : Port) (v : BitVec 16) : (s.setUrgentGrant i v).trims = s.trims := rfl
@[simp] theorem jobs_setUrgentGrant (s : State) (i : Port) (v : BitVec 16) : (s.setUrgentGrant i v).jobs = s.jobs := rfl
@[simp] theorem rings_setUrgentGrant (s : State) (i : Port) (v : BitVec 16) : (s.setUrgentGrant i v).rings = s.rings := rfl
@[simp] theorem queues_setUrgentGrant (s : State) (i : Port) (v : BitVec 16) : (s.setUrgentGrant i v).queues = s.queues := rfl
@[simp] theorem monitors_setUrgentGrant (s : State) (i : Port) (v : BitVec 16) : (s.setUrgentGrant i v).monitors = s.monitors := rfl
@[simp] theorem lines_setUrgentGrant (s : State) (i : Port) (v : BitVec 16) : (s.setUrgentGrant i v).lines = s.lines := rfl
@[simp] theorem comparators_setUrgentGrant (s : State) (i : Port) (v : BitVec 16) : (s.setUrgentGrant i v).comparators = s.comparators := rfl
@[simp] theorem ports_setUrgentGrant (s : State) (i : Port) (v : BitVec 16) : (s.setUrgentGrant i v).ports = s.ports := rfl
@[simp] theorem draws_setUrgentGrant (s : State) (i : Port) (v : BitVec 16) : (s.setUrgentGrant i v).draws = s.draws := rfl
@[simp] theorem pending_setUrgentGrant (s : State) (i : Port) (v : BitVec 16) : (s.setUrgentGrant i v).pending = s.pending := rfl
@[simp] theorem point_setUrgentGrant (s : State) (i : Port) (v : BitVec 16) (j : PointIdx) : (s.setUrgentGrant i v).point j = s.point j := rfl
@[simp] theorem slots_setUrgentGrant (s : State) (i : Port) (v : BitVec 16) (j : Port) : (s.setUrgentGrant i v).slots j = s.slots j := rfl
@[simp] theorem fifo_setUrgentGrant (s : State) (i : Port) (v : BitVec 16) (j : Port) : (s.setUrgentGrant i v).fifo j = s.fifo j := rfl
@[simp] theorem wheelGrant_setUrgentGrant (s : State) (i : Port) (v : BitVec 16) (j : Port) : (s.setUrgentGrant i v).wheelGrant j = s.wheelGrant j := rfl
@[simp] theorem ring_setUrgentGrant (s : State) (i : Port) (v : BitVec 16) (j : Port) : (s.setUrgentGrant i v).ring j = s.ring j := rfl
@[simp] theorem queue_setUrgentGrant (s : State) (i : Port) (v : BitVec 16) (j : Port) : (s.setUrgentGrant i v).queue j = s.queue j := rfl
@[simp] theorem monitor_setUrgentGrant (s : State) (i : Port) (v : BitVec 16) (j : MonitorIdx) : (s.setUrgentGrant i v).monitor j = s.monitor j := rfl
@[simp] theorem line_setUrgentGrant (s : State) (i : Port) (v : BitVec 16) (j : LineIdx) : (s.setUrgentGrant i v).line j = s.line j := rfl
@[simp] theorem comparator_setUrgentGrant (s : State) (i : Port) (v : BitVec 16) (j : TripIdx) : (s.setUrgentGrant i v).comparator j = s.comparator j := rfl
@[simp] theorem port_setUrgentGrant (s : State) (i : Port) (v : BitVec 16) (j : Port) : (s.setUrgentGrant i v).port j = s.port j := rfl
@[simp] theorem trimEntry_setUrgentGrant (s : State) (i : Port) (v : BitVec 16) (j : Gain) : (s.setUrgentGrant i v).trimEntry j = s.trimEntry j := rfl
@[simp] theorem job_setUrgentGrant (s : State) (i : Port) (v : BitVec 16) (j : Gain) : (s.setUrgentGrant i v).job j = s.job j := rfl
@[simp] theorem attached_setUrgentGrant (s : State) (i : Port) (v : BitVec 16) (p : Port) : (s.setUrgentGrant i v).attached p = s.attached p := rfl
@[simp] theorem slot_setUrgentGrant (s : State) (i : Port) (v : BitVec 16) (p : Port) (k : SlotIdx) : (s.setUrgentGrant i v).slot p k = s.slot p k := rfl
@[simp] theorem claims_setUrgentGrant (s : State) (i : Port) (v : BitVec 16) (l : LineIdx) (c : Claimant) : (s.setUrgentGrant i v).claims l c = s.claims l c := rfl

/-! ### setWheelGrant -/

@[simp] theorem wheelGrant_setWheelGrant (s : State) (i : Port) (v : BitVec 16) : (s.setWheelGrant i v).wheelGrant i = v := by
  simp [State.wheelGrant, State.setWheelGrant]

theorem wheelGrant_setWheelGrant_ne (s : State) (i j : Port) (v : BitVec 16) (h : j ≠ i) : (s.setWheelGrant i v).wheelGrant j = s.wheelGrant j := by
  have h' : i.val ≠ j.val := fun e => h (Fin.ext e).symm
  simp [State.wheelGrant, State.setWheelGrant, Vector.getElem_set_ne, h']

theorem wheelGrant_setWheelGrant_eq (s : State) (i j : Port) (v : BitVec 16) : (s.setWheelGrant i v).wheelGrant j = if j = i then v else s.wheelGrant j := by
  split
  next h => rw [h, wheelGrant_setWheelGrant]
  next h => exact wheelGrant_setWheelGrant_ne s i j v h

@[simp] theorem setWheelGrant_setWheelGrant (s : State) (i : Port) (v w : BitVec 16) : (s.setWheelGrant i v).setWheelGrant i w = s.setWheelGrant i w := by
  simp [State.setWheelGrant]

@[simp] theorem setWheelGrant_wheelGrant (s : State) (i : Port) : s.setWheelGrant i (s.wheelGrant i) = s := by
  simp [State.setWheelGrant, State.wheelGrant]

@[simp] theorem resetLow_setWheelGrant (s : State) (i : Port) (v : BitVec 16) : (s.setWheelGrant i v).resetLow = s.resetLow := rfl
@[simp] theorem share_setWheelGrant (s : State) (i : Port) (v : BitVec 16) : (s.setWheelGrant i v).share = s.share := rfl
@[simp] theorem cdiv_setWheelGrant (s : State) (i : Port) (v : BitVec 16) : (s.setWheelGrant i v).cdiv = s.cdiv := rfl
@[simp] theorem baud_setWheelGrant (s : State) (i : Port) (v : BitVec 16) : (s.setWheelGrant i v).baud = s.baud := rfl
@[simp] theorem clkPhase_setWheelGrant (s : State) (i : Port) (v : BitVec 16) : (s.setWheelGrant i v).clkPhase = s.clkPhase := rfl
@[simp] theorem timebase_setWheelGrant (s : State) (i : Port) (v : BitVec 16) : (s.setWheelGrant i v).timebase = s.timebase := rfl
@[simp] theorem pins_setWheelGrant (s : State) (i : Port) (v : BitVec 16) : (s.setWheelGrant i v).pins = s.pins := rfl
@[simp] theorem trgLevels_setWheelGrant (s : State) (i : Port) (v : BitVec 16) : (s.setWheelGrant i v).trgLevels = s.trgLevels := rfl
@[simp] theorem trgSamples_setWheelGrant (s : State) (i : Port) (v : BitVec 16) : (s.setWheelGrant i v).trgSamples = s.trgSamples := rfl
@[simp] theorem points_setWheelGrant (s : State) (i : Port) (v : BitVec 16) : (s.setWheelGrant i v).points = s.points := rfl
@[simp] theorem subs_setWheelGrant (s : State) (i : Port) (v : BitVec 16) : (s.setWheelGrant i v).subs = s.subs := rfl
@[simp] theorem urgentQueue_setWheelGrant (s : State) (i : Port) (v : BitVec 16) : (s.setWheelGrant i v).urgentQueue = s.urgentQueue := rfl
@[simp] theorem fifos_setWheelGrant (s : State) (i : Port) (v : BitVec 16) : (s.setWheelGrant i v).fifos = s.fifos := rfl
@[simp] theorem suspended_setWheelGrant (s : State) (i : Port) (v : BitVec 16) : (s.setWheelGrant i v).suspended = s.suspended := rfl
@[simp] theorem converter_setWheelGrant (s : State) (i : Port) (v : BitVec 16) : (s.setWheelGrant i v).converter = s.converter := rfl
@[simp] theorem decisionDue_setWheelGrant (s : State) (i : Port) (v : BitVec 16) : (s.setWheelGrant i v).decisionDue = s.decisionDue := rfl
@[simp] theorem wheelPosition_setWheelGrant (s : State) (i : Port) (v : BitVec 16) : (s.setWheelGrant i v).wheelPosition = s.wheelPosition := rfl
@[simp] theorem urgentGrants_setWheelGrant (s : State) (i : Port) (v : BitVec 16) : (s.setWheelGrant i v).urgentGrants = s.urgentGrants := rfl
@[simp] theorem conversion_setWheelGrant (s : State) (i : Port) (v : BitVec 16) : (s.setWheelGrant i v).conversion = s.conversion := rfl
@[simp] theorem lastGain_setWheelGrant (s : State) (i : Port) (v : BitVec 16) : (s.setWheelGrant i v).lastGain = s.lastGain := rfl
@[simp] theorem trims_setWheelGrant (s : State) (i : Port) (v : BitVec 16) : (s.setWheelGrant i v).trims = s.trims := rfl
@[simp] theorem jobs_setWheelGrant (s : State) (i : Port) (v : BitVec 16) : (s.setWheelGrant i v).jobs = s.jobs := rfl
@[simp] theorem rings_setWheelGrant (s : State) (i : Port) (v : BitVec 16) : (s.setWheelGrant i v).rings = s.rings := rfl
@[simp] theorem queues_setWheelGrant (s : State) (i : Port) (v : BitVec 16) : (s.setWheelGrant i v).queues = s.queues := rfl
@[simp] theorem monitors_setWheelGrant (s : State) (i : Port) (v : BitVec 16) : (s.setWheelGrant i v).monitors = s.monitors := rfl
@[simp] theorem lines_setWheelGrant (s : State) (i : Port) (v : BitVec 16) : (s.setWheelGrant i v).lines = s.lines := rfl
@[simp] theorem comparators_setWheelGrant (s : State) (i : Port) (v : BitVec 16) : (s.setWheelGrant i v).comparators = s.comparators := rfl
@[simp] theorem ports_setWheelGrant (s : State) (i : Port) (v : BitVec 16) : (s.setWheelGrant i v).ports = s.ports := rfl
@[simp] theorem draws_setWheelGrant (s : State) (i : Port) (v : BitVec 16) : (s.setWheelGrant i v).draws = s.draws := rfl
@[simp] theorem pending_setWheelGrant (s : State) (i : Port) (v : BitVec 16) : (s.setWheelGrant i v).pending = s.pending := rfl
@[simp] theorem point_setWheelGrant (s : State) (i : Port) (v : BitVec 16) (j : PointIdx) : (s.setWheelGrant i v).point j = s.point j := rfl
@[simp] theorem slots_setWheelGrant (s : State) (i : Port) (v : BitVec 16) (j : Port) : (s.setWheelGrant i v).slots j = s.slots j := rfl
@[simp] theorem fifo_setWheelGrant (s : State) (i : Port) (v : BitVec 16) (j : Port) : (s.setWheelGrant i v).fifo j = s.fifo j := rfl
@[simp] theorem urgentGrant_setWheelGrant (s : State) (i : Port) (v : BitVec 16) (j : Port) : (s.setWheelGrant i v).urgentGrant j = s.urgentGrant j := rfl
@[simp] theorem ring_setWheelGrant (s : State) (i : Port) (v : BitVec 16) (j : Port) : (s.setWheelGrant i v).ring j = s.ring j := rfl
@[simp] theorem queue_setWheelGrant (s : State) (i : Port) (v : BitVec 16) (j : Port) : (s.setWheelGrant i v).queue j = s.queue j := rfl
@[simp] theorem monitor_setWheelGrant (s : State) (i : Port) (v : BitVec 16) (j : MonitorIdx) : (s.setWheelGrant i v).monitor j = s.monitor j := rfl
@[simp] theorem line_setWheelGrant (s : State) (i : Port) (v : BitVec 16) (j : LineIdx) : (s.setWheelGrant i v).line j = s.line j := rfl
@[simp] theorem comparator_setWheelGrant (s : State) (i : Port) (v : BitVec 16) (j : TripIdx) : (s.setWheelGrant i v).comparator j = s.comparator j := rfl
@[simp] theorem port_setWheelGrant (s : State) (i : Port) (v : BitVec 16) (j : Port) : (s.setWheelGrant i v).port j = s.port j := rfl
@[simp] theorem trimEntry_setWheelGrant (s : State) (i : Port) (v : BitVec 16) (j : Gain) : (s.setWheelGrant i v).trimEntry j = s.trimEntry j := rfl
@[simp] theorem job_setWheelGrant (s : State) (i : Port) (v : BitVec 16) (j : Gain) : (s.setWheelGrant i v).job j = s.job j := rfl
@[simp] theorem attached_setWheelGrant (s : State) (i : Port) (v : BitVec 16) (p : Port) : (s.setWheelGrant i v).attached p = s.attached p := rfl
@[simp] theorem slot_setWheelGrant (s : State) (i : Port) (v : BitVec 16) (p : Port) (k : SlotIdx) : (s.setWheelGrant i v).slot p k = s.slot p k := rfl
@[simp] theorem claims_setWheelGrant (s : State) (i : Port) (v : BitVec 16) (l : LineIdx) (c : Claimant) : (s.setWheelGrant i v).claims l c = s.claims l c := rfl

/-! ### setRing -/

@[simp] theorem ring_setRing (s : State) (i : Port) (v : Ring) : (s.setRing i v).ring i = v := by
  simp [State.ring, State.setRing]

theorem ring_setRing_ne (s : State) (i j : Port) (v : Ring) (h : j ≠ i) : (s.setRing i v).ring j = s.ring j := by
  have h' : i.val ≠ j.val := fun e => h (Fin.ext e).symm
  simp [State.ring, State.setRing, Vector.getElem_set_ne, h']

theorem ring_setRing_eq (s : State) (i j : Port) (v : Ring) : (s.setRing i v).ring j = if j = i then v else s.ring j := by
  split
  next h => rw [h, ring_setRing]
  next h => exact ring_setRing_ne s i j v h

@[simp] theorem setRing_setRing (s : State) (i : Port) (v w : Ring) : (s.setRing i v).setRing i w = s.setRing i w := by
  simp [State.setRing]

@[simp] theorem setRing_ring (s : State) (i : Port) : s.setRing i (s.ring i) = s := by
  simp [State.setRing, State.ring]

@[simp] theorem resetLow_setRing (s : State) (i : Port) (v : Ring) : (s.setRing i v).resetLow = s.resetLow := rfl
@[simp] theorem share_setRing (s : State) (i : Port) (v : Ring) : (s.setRing i v).share = s.share := rfl
@[simp] theorem cdiv_setRing (s : State) (i : Port) (v : Ring) : (s.setRing i v).cdiv = s.cdiv := rfl
@[simp] theorem baud_setRing (s : State) (i : Port) (v : Ring) : (s.setRing i v).baud = s.baud := rfl
@[simp] theorem clkPhase_setRing (s : State) (i : Port) (v : Ring) : (s.setRing i v).clkPhase = s.clkPhase := rfl
@[simp] theorem timebase_setRing (s : State) (i : Port) (v : Ring) : (s.setRing i v).timebase = s.timebase := rfl
@[simp] theorem pins_setRing (s : State) (i : Port) (v : Ring) : (s.setRing i v).pins = s.pins := rfl
@[simp] theorem trgLevels_setRing (s : State) (i : Port) (v : Ring) : (s.setRing i v).trgLevels = s.trgLevels := rfl
@[simp] theorem trgSamples_setRing (s : State) (i : Port) (v : Ring) : (s.setRing i v).trgSamples = s.trgSamples := rfl
@[simp] theorem points_setRing (s : State) (i : Port) (v : Ring) : (s.setRing i v).points = s.points := rfl
@[simp] theorem subs_setRing (s : State) (i : Port) (v : Ring) : (s.setRing i v).subs = s.subs := rfl
@[simp] theorem urgentQueue_setRing (s : State) (i : Port) (v : Ring) : (s.setRing i v).urgentQueue = s.urgentQueue := rfl
@[simp] theorem fifos_setRing (s : State) (i : Port) (v : Ring) : (s.setRing i v).fifos = s.fifos := rfl
@[simp] theorem suspended_setRing (s : State) (i : Port) (v : Ring) : (s.setRing i v).suspended = s.suspended := rfl
@[simp] theorem converter_setRing (s : State) (i : Port) (v : Ring) : (s.setRing i v).converter = s.converter := rfl
@[simp] theorem decisionDue_setRing (s : State) (i : Port) (v : Ring) : (s.setRing i v).decisionDue = s.decisionDue := rfl
@[simp] theorem wheelPosition_setRing (s : State) (i : Port) (v : Ring) : (s.setRing i v).wheelPosition = s.wheelPosition := rfl
@[simp] theorem urgentGrants_setRing (s : State) (i : Port) (v : Ring) : (s.setRing i v).urgentGrants = s.urgentGrants := rfl
@[simp] theorem wheelGrants_setRing (s : State) (i : Port) (v : Ring) : (s.setRing i v).wheelGrants = s.wheelGrants := rfl
@[simp] theorem conversion_setRing (s : State) (i : Port) (v : Ring) : (s.setRing i v).conversion = s.conversion := rfl
@[simp] theorem lastGain_setRing (s : State) (i : Port) (v : Ring) : (s.setRing i v).lastGain = s.lastGain := rfl
@[simp] theorem trims_setRing (s : State) (i : Port) (v : Ring) : (s.setRing i v).trims = s.trims := rfl
@[simp] theorem jobs_setRing (s : State) (i : Port) (v : Ring) : (s.setRing i v).jobs = s.jobs := rfl
@[simp] theorem queues_setRing (s : State) (i : Port) (v : Ring) : (s.setRing i v).queues = s.queues := rfl
@[simp] theorem monitors_setRing (s : State) (i : Port) (v : Ring) : (s.setRing i v).monitors = s.monitors := rfl
@[simp] theorem lines_setRing (s : State) (i : Port) (v : Ring) : (s.setRing i v).lines = s.lines := rfl
@[simp] theorem comparators_setRing (s : State) (i : Port) (v : Ring) : (s.setRing i v).comparators = s.comparators := rfl
@[simp] theorem ports_setRing (s : State) (i : Port) (v : Ring) : (s.setRing i v).ports = s.ports := rfl
@[simp] theorem draws_setRing (s : State) (i : Port) (v : Ring) : (s.setRing i v).draws = s.draws := rfl
@[simp] theorem pending_setRing (s : State) (i : Port) (v : Ring) : (s.setRing i v).pending = s.pending := rfl
@[simp] theorem point_setRing (s : State) (i : Port) (v : Ring) (j : PointIdx) : (s.setRing i v).point j = s.point j := rfl
@[simp] theorem slots_setRing (s : State) (i : Port) (v : Ring) (j : Port) : (s.setRing i v).slots j = s.slots j := rfl
@[simp] theorem fifo_setRing (s : State) (i : Port) (v : Ring) (j : Port) : (s.setRing i v).fifo j = s.fifo j := rfl
@[simp] theorem urgentGrant_setRing (s : State) (i : Port) (v : Ring) (j : Port) : (s.setRing i v).urgentGrant j = s.urgentGrant j := rfl
@[simp] theorem wheelGrant_setRing (s : State) (i : Port) (v : Ring) (j : Port) : (s.setRing i v).wheelGrant j = s.wheelGrant j := rfl
@[simp] theorem queue_setRing (s : State) (i : Port) (v : Ring) (j : Port) : (s.setRing i v).queue j = s.queue j := rfl
@[simp] theorem monitor_setRing (s : State) (i : Port) (v : Ring) (j : MonitorIdx) : (s.setRing i v).monitor j = s.monitor j := rfl
@[simp] theorem line_setRing (s : State) (i : Port) (v : Ring) (j : LineIdx) : (s.setRing i v).line j = s.line j := rfl
@[simp] theorem comparator_setRing (s : State) (i : Port) (v : Ring) (j : TripIdx) : (s.setRing i v).comparator j = s.comparator j := rfl
@[simp] theorem port_setRing (s : State) (i : Port) (v : Ring) (j : Port) : (s.setRing i v).port j = s.port j := rfl
@[simp] theorem trimEntry_setRing (s : State) (i : Port) (v : Ring) (j : Gain) : (s.setRing i v).trimEntry j = s.trimEntry j := rfl
@[simp] theorem job_setRing (s : State) (i : Port) (v : Ring) (j : Gain) : (s.setRing i v).job j = s.job j := rfl
@[simp] theorem attached_setRing (s : State) (i : Port) (v : Ring) (p : Port) : (s.setRing i v).attached p = s.attached p := rfl
@[simp] theorem slot_setRing (s : State) (i : Port) (v : Ring) (p : Port) (k : SlotIdx) : (s.setRing i v).slot p k = s.slot p k := rfl
@[simp] theorem claims_setRing (s : State) (i : Port) (v : Ring) (l : LineIdx) (c : Claimant) : (s.setRing i v).claims l c = s.claims l c := rfl

/-! ### setQueue -/

@[simp] theorem queue_setQueue (s : State) (i : Port) (v : EventQueue) : (s.setQueue i v).queue i = v := by
  simp [State.queue, State.setQueue]

theorem queue_setQueue_ne (s : State) (i j : Port) (v : EventQueue) (h : j ≠ i) : (s.setQueue i v).queue j = s.queue j := by
  have h' : i.val ≠ j.val := fun e => h (Fin.ext e).symm
  simp [State.queue, State.setQueue, Vector.getElem_set_ne, h']

theorem queue_setQueue_eq (s : State) (i j : Port) (v : EventQueue) : (s.setQueue i v).queue j = if j = i then v else s.queue j := by
  split
  next h => rw [h, queue_setQueue]
  next h => exact queue_setQueue_ne s i j v h

@[simp] theorem setQueue_setQueue (s : State) (i : Port) (v w : EventQueue) : (s.setQueue i v).setQueue i w = s.setQueue i w := by
  simp [State.setQueue]

@[simp] theorem setQueue_queue (s : State) (i : Port) : s.setQueue i (s.queue i) = s := by
  simp [State.setQueue, State.queue]

@[simp] theorem resetLow_setQueue (s : State) (i : Port) (v : EventQueue) : (s.setQueue i v).resetLow = s.resetLow := rfl
@[simp] theorem share_setQueue (s : State) (i : Port) (v : EventQueue) : (s.setQueue i v).share = s.share := rfl
@[simp] theorem cdiv_setQueue (s : State) (i : Port) (v : EventQueue) : (s.setQueue i v).cdiv = s.cdiv := rfl
@[simp] theorem baud_setQueue (s : State) (i : Port) (v : EventQueue) : (s.setQueue i v).baud = s.baud := rfl
@[simp] theorem clkPhase_setQueue (s : State) (i : Port) (v : EventQueue) : (s.setQueue i v).clkPhase = s.clkPhase := rfl
@[simp] theorem timebase_setQueue (s : State) (i : Port) (v : EventQueue) : (s.setQueue i v).timebase = s.timebase := rfl
@[simp] theorem pins_setQueue (s : State) (i : Port) (v : EventQueue) : (s.setQueue i v).pins = s.pins := rfl
@[simp] theorem trgLevels_setQueue (s : State) (i : Port) (v : EventQueue) : (s.setQueue i v).trgLevels = s.trgLevels := rfl
@[simp] theorem trgSamples_setQueue (s : State) (i : Port) (v : EventQueue) : (s.setQueue i v).trgSamples = s.trgSamples := rfl
@[simp] theorem points_setQueue (s : State) (i : Port) (v : EventQueue) : (s.setQueue i v).points = s.points := rfl
@[simp] theorem subs_setQueue (s : State) (i : Port) (v : EventQueue) : (s.setQueue i v).subs = s.subs := rfl
@[simp] theorem urgentQueue_setQueue (s : State) (i : Port) (v : EventQueue) : (s.setQueue i v).urgentQueue = s.urgentQueue := rfl
@[simp] theorem fifos_setQueue (s : State) (i : Port) (v : EventQueue) : (s.setQueue i v).fifos = s.fifos := rfl
@[simp] theorem suspended_setQueue (s : State) (i : Port) (v : EventQueue) : (s.setQueue i v).suspended = s.suspended := rfl
@[simp] theorem converter_setQueue (s : State) (i : Port) (v : EventQueue) : (s.setQueue i v).converter = s.converter := rfl
@[simp] theorem decisionDue_setQueue (s : State) (i : Port) (v : EventQueue) : (s.setQueue i v).decisionDue = s.decisionDue := rfl
@[simp] theorem wheelPosition_setQueue (s : State) (i : Port) (v : EventQueue) : (s.setQueue i v).wheelPosition = s.wheelPosition := rfl
@[simp] theorem urgentGrants_setQueue (s : State) (i : Port) (v : EventQueue) : (s.setQueue i v).urgentGrants = s.urgentGrants := rfl
@[simp] theorem wheelGrants_setQueue (s : State) (i : Port) (v : EventQueue) : (s.setQueue i v).wheelGrants = s.wheelGrants := rfl
@[simp] theorem conversion_setQueue (s : State) (i : Port) (v : EventQueue) : (s.setQueue i v).conversion = s.conversion := rfl
@[simp] theorem lastGain_setQueue (s : State) (i : Port) (v : EventQueue) : (s.setQueue i v).lastGain = s.lastGain := rfl
@[simp] theorem trims_setQueue (s : State) (i : Port) (v : EventQueue) : (s.setQueue i v).trims = s.trims := rfl
@[simp] theorem jobs_setQueue (s : State) (i : Port) (v : EventQueue) : (s.setQueue i v).jobs = s.jobs := rfl
@[simp] theorem rings_setQueue (s : State) (i : Port) (v : EventQueue) : (s.setQueue i v).rings = s.rings := rfl
@[simp] theorem monitors_setQueue (s : State) (i : Port) (v : EventQueue) : (s.setQueue i v).monitors = s.monitors := rfl
@[simp] theorem lines_setQueue (s : State) (i : Port) (v : EventQueue) : (s.setQueue i v).lines = s.lines := rfl
@[simp] theorem comparators_setQueue (s : State) (i : Port) (v : EventQueue) : (s.setQueue i v).comparators = s.comparators := rfl
@[simp] theorem ports_setQueue (s : State) (i : Port) (v : EventQueue) : (s.setQueue i v).ports = s.ports := rfl
@[simp] theorem draws_setQueue (s : State) (i : Port) (v : EventQueue) : (s.setQueue i v).draws = s.draws := rfl
@[simp] theorem pending_setQueue (s : State) (i : Port) (v : EventQueue) : (s.setQueue i v).pending = s.pending := rfl
@[simp] theorem point_setQueue (s : State) (i : Port) (v : EventQueue) (j : PointIdx) : (s.setQueue i v).point j = s.point j := rfl
@[simp] theorem slots_setQueue (s : State) (i : Port) (v : EventQueue) (j : Port) : (s.setQueue i v).slots j = s.slots j := rfl
@[simp] theorem fifo_setQueue (s : State) (i : Port) (v : EventQueue) (j : Port) : (s.setQueue i v).fifo j = s.fifo j := rfl
@[simp] theorem urgentGrant_setQueue (s : State) (i : Port) (v : EventQueue) (j : Port) : (s.setQueue i v).urgentGrant j = s.urgentGrant j := rfl
@[simp] theorem wheelGrant_setQueue (s : State) (i : Port) (v : EventQueue) (j : Port) : (s.setQueue i v).wheelGrant j = s.wheelGrant j := rfl
@[simp] theorem ring_setQueue (s : State) (i : Port) (v : EventQueue) (j : Port) : (s.setQueue i v).ring j = s.ring j := rfl
@[simp] theorem monitor_setQueue (s : State) (i : Port) (v : EventQueue) (j : MonitorIdx) : (s.setQueue i v).monitor j = s.monitor j := rfl
@[simp] theorem line_setQueue (s : State) (i : Port) (v : EventQueue) (j : LineIdx) : (s.setQueue i v).line j = s.line j := rfl
@[simp] theorem comparator_setQueue (s : State) (i : Port) (v : EventQueue) (j : TripIdx) : (s.setQueue i v).comparator j = s.comparator j := rfl
@[simp] theorem port_setQueue (s : State) (i : Port) (v : EventQueue) (j : Port) : (s.setQueue i v).port j = s.port j := rfl
@[simp] theorem trimEntry_setQueue (s : State) (i : Port) (v : EventQueue) (j : Gain) : (s.setQueue i v).trimEntry j = s.trimEntry j := rfl
@[simp] theorem job_setQueue (s : State) (i : Port) (v : EventQueue) (j : Gain) : (s.setQueue i v).job j = s.job j := rfl
@[simp] theorem attached_setQueue (s : State) (i : Port) (v : EventQueue) (p : Port) : (s.setQueue i v).attached p = s.attached p := rfl
@[simp] theorem slot_setQueue (s : State) (i : Port) (v : EventQueue) (p : Port) (k : SlotIdx) : (s.setQueue i v).slot p k = s.slot p k := rfl
@[simp] theorem claims_setQueue (s : State) (i : Port) (v : EventQueue) (l : LineIdx) (c : Claimant) : (s.setQueue i v).claims l c = s.claims l c := rfl

/-! ### setMonitor -/

@[simp] theorem monitor_setMonitor (s : State) (i : MonitorIdx) (v : Option Monitor) : (s.setMonitor i v).monitor i = v := by
  simp [State.monitor, State.setMonitor]

theorem monitor_setMonitor_ne (s : State) (i j : MonitorIdx) (v : Option Monitor) (h : j ≠ i) : (s.setMonitor i v).monitor j = s.monitor j := by
  have h' : i.val ≠ j.val := fun e => h (Fin.ext e).symm
  simp [State.monitor, State.setMonitor, Vector.getElem_set_ne, h']

theorem monitor_setMonitor_eq (s : State) (i j : MonitorIdx) (v : Option Monitor) : (s.setMonitor i v).monitor j = if j = i then v else s.monitor j := by
  split
  next h => rw [h, monitor_setMonitor]
  next h => exact monitor_setMonitor_ne s i j v h

@[simp] theorem setMonitor_setMonitor (s : State) (i : MonitorIdx) (v w : Option Monitor) : (s.setMonitor i v).setMonitor i w = s.setMonitor i w := by
  simp [State.setMonitor]

@[simp] theorem setMonitor_monitor (s : State) (i : MonitorIdx) : s.setMonitor i (s.monitor i) = s := by
  simp [State.setMonitor, State.monitor]

@[simp] theorem resetLow_setMonitor (s : State) (i : MonitorIdx) (v : Option Monitor) : (s.setMonitor i v).resetLow = s.resetLow := rfl
@[simp] theorem share_setMonitor (s : State) (i : MonitorIdx) (v : Option Monitor) : (s.setMonitor i v).share = s.share := rfl
@[simp] theorem cdiv_setMonitor (s : State) (i : MonitorIdx) (v : Option Monitor) : (s.setMonitor i v).cdiv = s.cdiv := rfl
@[simp] theorem baud_setMonitor (s : State) (i : MonitorIdx) (v : Option Monitor) : (s.setMonitor i v).baud = s.baud := rfl
@[simp] theorem clkPhase_setMonitor (s : State) (i : MonitorIdx) (v : Option Monitor) : (s.setMonitor i v).clkPhase = s.clkPhase := rfl
@[simp] theorem timebase_setMonitor (s : State) (i : MonitorIdx) (v : Option Monitor) : (s.setMonitor i v).timebase = s.timebase := rfl
@[simp] theorem pins_setMonitor (s : State) (i : MonitorIdx) (v : Option Monitor) : (s.setMonitor i v).pins = s.pins := rfl
@[simp] theorem trgLevels_setMonitor (s : State) (i : MonitorIdx) (v : Option Monitor) : (s.setMonitor i v).trgLevels = s.trgLevels := rfl
@[simp] theorem trgSamples_setMonitor (s : State) (i : MonitorIdx) (v : Option Monitor) : (s.setMonitor i v).trgSamples = s.trgSamples := rfl
@[simp] theorem points_setMonitor (s : State) (i : MonitorIdx) (v : Option Monitor) : (s.setMonitor i v).points = s.points := rfl
@[simp] theorem subs_setMonitor (s : State) (i : MonitorIdx) (v : Option Monitor) : (s.setMonitor i v).subs = s.subs := rfl
@[simp] theorem urgentQueue_setMonitor (s : State) (i : MonitorIdx) (v : Option Monitor) : (s.setMonitor i v).urgentQueue = s.urgentQueue := rfl
@[simp] theorem fifos_setMonitor (s : State) (i : MonitorIdx) (v : Option Monitor) : (s.setMonitor i v).fifos = s.fifos := rfl
@[simp] theorem suspended_setMonitor (s : State) (i : MonitorIdx) (v : Option Monitor) : (s.setMonitor i v).suspended = s.suspended := rfl
@[simp] theorem converter_setMonitor (s : State) (i : MonitorIdx) (v : Option Monitor) : (s.setMonitor i v).converter = s.converter := rfl
@[simp] theorem decisionDue_setMonitor (s : State) (i : MonitorIdx) (v : Option Monitor) : (s.setMonitor i v).decisionDue = s.decisionDue := rfl
@[simp] theorem wheelPosition_setMonitor (s : State) (i : MonitorIdx) (v : Option Monitor) : (s.setMonitor i v).wheelPosition = s.wheelPosition := rfl
@[simp] theorem urgentGrants_setMonitor (s : State) (i : MonitorIdx) (v : Option Monitor) : (s.setMonitor i v).urgentGrants = s.urgentGrants := rfl
@[simp] theorem wheelGrants_setMonitor (s : State) (i : MonitorIdx) (v : Option Monitor) : (s.setMonitor i v).wheelGrants = s.wheelGrants := rfl
@[simp] theorem conversion_setMonitor (s : State) (i : MonitorIdx) (v : Option Monitor) : (s.setMonitor i v).conversion = s.conversion := rfl
@[simp] theorem lastGain_setMonitor (s : State) (i : MonitorIdx) (v : Option Monitor) : (s.setMonitor i v).lastGain = s.lastGain := rfl
@[simp] theorem trims_setMonitor (s : State) (i : MonitorIdx) (v : Option Monitor) : (s.setMonitor i v).trims = s.trims := rfl
@[simp] theorem jobs_setMonitor (s : State) (i : MonitorIdx) (v : Option Monitor) : (s.setMonitor i v).jobs = s.jobs := rfl
@[simp] theorem rings_setMonitor (s : State) (i : MonitorIdx) (v : Option Monitor) : (s.setMonitor i v).rings = s.rings := rfl
@[simp] theorem queues_setMonitor (s : State) (i : MonitorIdx) (v : Option Monitor) : (s.setMonitor i v).queues = s.queues := rfl
@[simp] theorem lines_setMonitor (s : State) (i : MonitorIdx) (v : Option Monitor) : (s.setMonitor i v).lines = s.lines := rfl
@[simp] theorem comparators_setMonitor (s : State) (i : MonitorIdx) (v : Option Monitor) : (s.setMonitor i v).comparators = s.comparators := rfl
@[simp] theorem ports_setMonitor (s : State) (i : MonitorIdx) (v : Option Monitor) : (s.setMonitor i v).ports = s.ports := rfl
@[simp] theorem draws_setMonitor (s : State) (i : MonitorIdx) (v : Option Monitor) : (s.setMonitor i v).draws = s.draws := rfl
@[simp] theorem pending_setMonitor (s : State) (i : MonitorIdx) (v : Option Monitor) : (s.setMonitor i v).pending = s.pending := rfl
@[simp] theorem point_setMonitor (s : State) (i : MonitorIdx) (v : Option Monitor) (j : PointIdx) : (s.setMonitor i v).point j = s.point j := rfl
@[simp] theorem slots_setMonitor (s : State) (i : MonitorIdx) (v : Option Monitor) (j : Port) : (s.setMonitor i v).slots j = s.slots j := rfl
@[simp] theorem fifo_setMonitor (s : State) (i : MonitorIdx) (v : Option Monitor) (j : Port) : (s.setMonitor i v).fifo j = s.fifo j := rfl
@[simp] theorem urgentGrant_setMonitor (s : State) (i : MonitorIdx) (v : Option Monitor) (j : Port) : (s.setMonitor i v).urgentGrant j = s.urgentGrant j := rfl
@[simp] theorem wheelGrant_setMonitor (s : State) (i : MonitorIdx) (v : Option Monitor) (j : Port) : (s.setMonitor i v).wheelGrant j = s.wheelGrant j := rfl
@[simp] theorem ring_setMonitor (s : State) (i : MonitorIdx) (v : Option Monitor) (j : Port) : (s.setMonitor i v).ring j = s.ring j := rfl
@[simp] theorem queue_setMonitor (s : State) (i : MonitorIdx) (v : Option Monitor) (j : Port) : (s.setMonitor i v).queue j = s.queue j := rfl
@[simp] theorem line_setMonitor (s : State) (i : MonitorIdx) (v : Option Monitor) (j : LineIdx) : (s.setMonitor i v).line j = s.line j := rfl
@[simp] theorem comparator_setMonitor (s : State) (i : MonitorIdx) (v : Option Monitor) (j : TripIdx) : (s.setMonitor i v).comparator j = s.comparator j := rfl
@[simp] theorem port_setMonitor (s : State) (i : MonitorIdx) (v : Option Monitor) (j : Port) : (s.setMonitor i v).port j = s.port j := rfl
@[simp] theorem trimEntry_setMonitor (s : State) (i : MonitorIdx) (v : Option Monitor) (j : Gain) : (s.setMonitor i v).trimEntry j = s.trimEntry j := rfl
@[simp] theorem job_setMonitor (s : State) (i : MonitorIdx) (v : Option Monitor) (j : Gain) : (s.setMonitor i v).job j = s.job j := rfl
@[simp] theorem attached_setMonitor (s : State) (i : MonitorIdx) (v : Option Monitor) (p : Port) : (s.setMonitor i v).attached p = s.attached p := rfl
@[simp] theorem slot_setMonitor (s : State) (i : MonitorIdx) (v : Option Monitor) (p : Port) (k : SlotIdx) : (s.setMonitor i v).slot p k = s.slot p k := rfl
@[simp] theorem claims_setMonitor (s : State) (i : MonitorIdx) (v : Option Monitor) (l : LineIdx) (c : Claimant) : (s.setMonitor i v).claims l c = s.claims l c := rfl

/-! ### setLine -/

@[simp] theorem line_setLine (s : State) (i : LineIdx) (v : ClaimSet) : (s.setLine i v).line i = v := by
  simp [State.line, State.setLine]

theorem line_setLine_ne (s : State) (i j : LineIdx) (v : ClaimSet) (h : j ≠ i) : (s.setLine i v).line j = s.line j := by
  have h' : i.val ≠ j.val := fun e => h (Fin.ext e).symm
  simp [State.line, State.setLine, Vector.getElem_set_ne, h']

theorem line_setLine_eq (s : State) (i j : LineIdx) (v : ClaimSet) : (s.setLine i v).line j = if j = i then v else s.line j := by
  split
  next h => rw [h, line_setLine]
  next h => exact line_setLine_ne s i j v h

@[simp] theorem setLine_setLine (s : State) (i : LineIdx) (v w : ClaimSet) : (s.setLine i v).setLine i w = s.setLine i w := by
  simp [State.setLine]

@[simp] theorem setLine_line (s : State) (i : LineIdx) : s.setLine i (s.line i) = s := by
  simp [State.setLine, State.line]

@[simp] theorem resetLow_setLine (s : State) (i : LineIdx) (v : ClaimSet) : (s.setLine i v).resetLow = s.resetLow := rfl
@[simp] theorem share_setLine (s : State) (i : LineIdx) (v : ClaimSet) : (s.setLine i v).share = s.share := rfl
@[simp] theorem cdiv_setLine (s : State) (i : LineIdx) (v : ClaimSet) : (s.setLine i v).cdiv = s.cdiv := rfl
@[simp] theorem baud_setLine (s : State) (i : LineIdx) (v : ClaimSet) : (s.setLine i v).baud = s.baud := rfl
@[simp] theorem clkPhase_setLine (s : State) (i : LineIdx) (v : ClaimSet) : (s.setLine i v).clkPhase = s.clkPhase := rfl
@[simp] theorem timebase_setLine (s : State) (i : LineIdx) (v : ClaimSet) : (s.setLine i v).timebase = s.timebase := rfl
@[simp] theorem pins_setLine (s : State) (i : LineIdx) (v : ClaimSet) : (s.setLine i v).pins = s.pins := rfl
@[simp] theorem trgLevels_setLine (s : State) (i : LineIdx) (v : ClaimSet) : (s.setLine i v).trgLevels = s.trgLevels := rfl
@[simp] theorem trgSamples_setLine (s : State) (i : LineIdx) (v : ClaimSet) : (s.setLine i v).trgSamples = s.trgSamples := rfl
@[simp] theorem points_setLine (s : State) (i : LineIdx) (v : ClaimSet) : (s.setLine i v).points = s.points := rfl
@[simp] theorem subs_setLine (s : State) (i : LineIdx) (v : ClaimSet) : (s.setLine i v).subs = s.subs := rfl
@[simp] theorem urgentQueue_setLine (s : State) (i : LineIdx) (v : ClaimSet) : (s.setLine i v).urgentQueue = s.urgentQueue := rfl
@[simp] theorem fifos_setLine (s : State) (i : LineIdx) (v : ClaimSet) : (s.setLine i v).fifos = s.fifos := rfl
@[simp] theorem suspended_setLine (s : State) (i : LineIdx) (v : ClaimSet) : (s.setLine i v).suspended = s.suspended := rfl
@[simp] theorem converter_setLine (s : State) (i : LineIdx) (v : ClaimSet) : (s.setLine i v).converter = s.converter := rfl
@[simp] theorem decisionDue_setLine (s : State) (i : LineIdx) (v : ClaimSet) : (s.setLine i v).decisionDue = s.decisionDue := rfl
@[simp] theorem wheelPosition_setLine (s : State) (i : LineIdx) (v : ClaimSet) : (s.setLine i v).wheelPosition = s.wheelPosition := rfl
@[simp] theorem urgentGrants_setLine (s : State) (i : LineIdx) (v : ClaimSet) : (s.setLine i v).urgentGrants = s.urgentGrants := rfl
@[simp] theorem wheelGrants_setLine (s : State) (i : LineIdx) (v : ClaimSet) : (s.setLine i v).wheelGrants = s.wheelGrants := rfl
@[simp] theorem conversion_setLine (s : State) (i : LineIdx) (v : ClaimSet) : (s.setLine i v).conversion = s.conversion := rfl
@[simp] theorem lastGain_setLine (s : State) (i : LineIdx) (v : ClaimSet) : (s.setLine i v).lastGain = s.lastGain := rfl
@[simp] theorem trims_setLine (s : State) (i : LineIdx) (v : ClaimSet) : (s.setLine i v).trims = s.trims := rfl
@[simp] theorem jobs_setLine (s : State) (i : LineIdx) (v : ClaimSet) : (s.setLine i v).jobs = s.jobs := rfl
@[simp] theorem rings_setLine (s : State) (i : LineIdx) (v : ClaimSet) : (s.setLine i v).rings = s.rings := rfl
@[simp] theorem queues_setLine (s : State) (i : LineIdx) (v : ClaimSet) : (s.setLine i v).queues = s.queues := rfl
@[simp] theorem monitors_setLine (s : State) (i : LineIdx) (v : ClaimSet) : (s.setLine i v).monitors = s.monitors := rfl
@[simp] theorem comparators_setLine (s : State) (i : LineIdx) (v : ClaimSet) : (s.setLine i v).comparators = s.comparators := rfl
@[simp] theorem ports_setLine (s : State) (i : LineIdx) (v : ClaimSet) : (s.setLine i v).ports = s.ports := rfl
@[simp] theorem draws_setLine (s : State) (i : LineIdx) (v : ClaimSet) : (s.setLine i v).draws = s.draws := rfl
@[simp] theorem pending_setLine (s : State) (i : LineIdx) (v : ClaimSet) : (s.setLine i v).pending = s.pending := rfl
@[simp] theorem point_setLine (s : State) (i : LineIdx) (v : ClaimSet) (j : PointIdx) : (s.setLine i v).point j = s.point j := rfl
@[simp] theorem slots_setLine (s : State) (i : LineIdx) (v : ClaimSet) (j : Port) : (s.setLine i v).slots j = s.slots j := rfl
@[simp] theorem fifo_setLine (s : State) (i : LineIdx) (v : ClaimSet) (j : Port) : (s.setLine i v).fifo j = s.fifo j := rfl
@[simp] theorem urgentGrant_setLine (s : State) (i : LineIdx) (v : ClaimSet) (j : Port) : (s.setLine i v).urgentGrant j = s.urgentGrant j := rfl
@[simp] theorem wheelGrant_setLine (s : State) (i : LineIdx) (v : ClaimSet) (j : Port) : (s.setLine i v).wheelGrant j = s.wheelGrant j := rfl
@[simp] theorem ring_setLine (s : State) (i : LineIdx) (v : ClaimSet) (j : Port) : (s.setLine i v).ring j = s.ring j := rfl
@[simp] theorem queue_setLine (s : State) (i : LineIdx) (v : ClaimSet) (j : Port) : (s.setLine i v).queue j = s.queue j := rfl
@[simp] theorem monitor_setLine (s : State) (i : LineIdx) (v : ClaimSet) (j : MonitorIdx) : (s.setLine i v).monitor j = s.monitor j := rfl
@[simp] theorem comparator_setLine (s : State) (i : LineIdx) (v : ClaimSet) (j : TripIdx) : (s.setLine i v).comparator j = s.comparator j := rfl
@[simp] theorem port_setLine (s : State) (i : LineIdx) (v : ClaimSet) (j : Port) : (s.setLine i v).port j = s.port j := rfl
@[simp] theorem trimEntry_setLine (s : State) (i : LineIdx) (v : ClaimSet) (j : Gain) : (s.setLine i v).trimEntry j = s.trimEntry j := rfl
@[simp] theorem job_setLine (s : State) (i : LineIdx) (v : ClaimSet) (j : Gain) : (s.setLine i v).job j = s.job j := rfl
@[simp] theorem attached_setLine (s : State) (i : LineIdx) (v : ClaimSet) (p : Port) : (s.setLine i v).attached p = s.attached p := rfl
@[simp] theorem slot_setLine (s : State) (i : LineIdx) (v : ClaimSet) (p : Port) (k : SlotIdx) : (s.setLine i v).slot p k = s.slot p k := rfl

/-! ### setComparator -/

@[simp] theorem comparator_setComparator (s : State) (i : TripIdx) (v : Comparator) : (s.setComparator i v).comparator i = v := by
  simp [State.comparator, State.setComparator]

theorem comparator_setComparator_ne (s : State) (i j : TripIdx) (v : Comparator) (h : j ≠ i) : (s.setComparator i v).comparator j = s.comparator j := by
  have h' : i.val ≠ j.val := fun e => h (Fin.ext e).symm
  simp [State.comparator, State.setComparator, Vector.getElem_set_ne, h']

theorem comparator_setComparator_eq (s : State) (i j : TripIdx) (v : Comparator) : (s.setComparator i v).comparator j = if j = i then v else s.comparator j := by
  split
  next h => rw [h, comparator_setComparator]
  next h => exact comparator_setComparator_ne s i j v h

@[simp] theorem setComparator_setComparator (s : State) (i : TripIdx) (v w : Comparator) : (s.setComparator i v).setComparator i w = s.setComparator i w := by
  simp [State.setComparator]

@[simp] theorem setComparator_comparator (s : State) (i : TripIdx) : s.setComparator i (s.comparator i) = s := by
  simp [State.setComparator, State.comparator]

@[simp] theorem resetLow_setComparator (s : State) (i : TripIdx) (v : Comparator) : (s.setComparator i v).resetLow = s.resetLow := rfl
@[simp] theorem share_setComparator (s : State) (i : TripIdx) (v : Comparator) : (s.setComparator i v).share = s.share := rfl
@[simp] theorem cdiv_setComparator (s : State) (i : TripIdx) (v : Comparator) : (s.setComparator i v).cdiv = s.cdiv := rfl
@[simp] theorem baud_setComparator (s : State) (i : TripIdx) (v : Comparator) : (s.setComparator i v).baud = s.baud := rfl
@[simp] theorem clkPhase_setComparator (s : State) (i : TripIdx) (v : Comparator) : (s.setComparator i v).clkPhase = s.clkPhase := rfl
@[simp] theorem timebase_setComparator (s : State) (i : TripIdx) (v : Comparator) : (s.setComparator i v).timebase = s.timebase := rfl
@[simp] theorem pins_setComparator (s : State) (i : TripIdx) (v : Comparator) : (s.setComparator i v).pins = s.pins := rfl
@[simp] theorem trgLevels_setComparator (s : State) (i : TripIdx) (v : Comparator) : (s.setComparator i v).trgLevels = s.trgLevels := rfl
@[simp] theorem trgSamples_setComparator (s : State) (i : TripIdx) (v : Comparator) : (s.setComparator i v).trgSamples = s.trgSamples := rfl
@[simp] theorem points_setComparator (s : State) (i : TripIdx) (v : Comparator) : (s.setComparator i v).points = s.points := rfl
@[simp] theorem subs_setComparator (s : State) (i : TripIdx) (v : Comparator) : (s.setComparator i v).subs = s.subs := rfl
@[simp] theorem urgentQueue_setComparator (s : State) (i : TripIdx) (v : Comparator) : (s.setComparator i v).urgentQueue = s.urgentQueue := rfl
@[simp] theorem fifos_setComparator (s : State) (i : TripIdx) (v : Comparator) : (s.setComparator i v).fifos = s.fifos := rfl
@[simp] theorem suspended_setComparator (s : State) (i : TripIdx) (v : Comparator) : (s.setComparator i v).suspended = s.suspended := rfl
@[simp] theorem converter_setComparator (s : State) (i : TripIdx) (v : Comparator) : (s.setComparator i v).converter = s.converter := rfl
@[simp] theorem decisionDue_setComparator (s : State) (i : TripIdx) (v : Comparator) : (s.setComparator i v).decisionDue = s.decisionDue := rfl
@[simp] theorem wheelPosition_setComparator (s : State) (i : TripIdx) (v : Comparator) : (s.setComparator i v).wheelPosition = s.wheelPosition := rfl
@[simp] theorem urgentGrants_setComparator (s : State) (i : TripIdx) (v : Comparator) : (s.setComparator i v).urgentGrants = s.urgentGrants := rfl
@[simp] theorem wheelGrants_setComparator (s : State) (i : TripIdx) (v : Comparator) : (s.setComparator i v).wheelGrants = s.wheelGrants := rfl
@[simp] theorem conversion_setComparator (s : State) (i : TripIdx) (v : Comparator) : (s.setComparator i v).conversion = s.conversion := rfl
@[simp] theorem lastGain_setComparator (s : State) (i : TripIdx) (v : Comparator) : (s.setComparator i v).lastGain = s.lastGain := rfl
@[simp] theorem trims_setComparator (s : State) (i : TripIdx) (v : Comparator) : (s.setComparator i v).trims = s.trims := rfl
@[simp] theorem jobs_setComparator (s : State) (i : TripIdx) (v : Comparator) : (s.setComparator i v).jobs = s.jobs := rfl
@[simp] theorem rings_setComparator (s : State) (i : TripIdx) (v : Comparator) : (s.setComparator i v).rings = s.rings := rfl
@[simp] theorem queues_setComparator (s : State) (i : TripIdx) (v : Comparator) : (s.setComparator i v).queues = s.queues := rfl
@[simp] theorem monitors_setComparator (s : State) (i : TripIdx) (v : Comparator) : (s.setComparator i v).monitors = s.monitors := rfl
@[simp] theorem lines_setComparator (s : State) (i : TripIdx) (v : Comparator) : (s.setComparator i v).lines = s.lines := rfl
@[simp] theorem ports_setComparator (s : State) (i : TripIdx) (v : Comparator) : (s.setComparator i v).ports = s.ports := rfl
@[simp] theorem draws_setComparator (s : State) (i : TripIdx) (v : Comparator) : (s.setComparator i v).draws = s.draws := rfl
@[simp] theorem pending_setComparator (s : State) (i : TripIdx) (v : Comparator) : (s.setComparator i v).pending = s.pending := rfl
@[simp] theorem point_setComparator (s : State) (i : TripIdx) (v : Comparator) (j : PointIdx) : (s.setComparator i v).point j = s.point j := rfl
@[simp] theorem slots_setComparator (s : State) (i : TripIdx) (v : Comparator) (j : Port) : (s.setComparator i v).slots j = s.slots j := rfl
@[simp] theorem fifo_setComparator (s : State) (i : TripIdx) (v : Comparator) (j : Port) : (s.setComparator i v).fifo j = s.fifo j := rfl
@[simp] theorem urgentGrant_setComparator (s : State) (i : TripIdx) (v : Comparator) (j : Port) : (s.setComparator i v).urgentGrant j = s.urgentGrant j := rfl
@[simp] theorem wheelGrant_setComparator (s : State) (i : TripIdx) (v : Comparator) (j : Port) : (s.setComparator i v).wheelGrant j = s.wheelGrant j := rfl
@[simp] theorem ring_setComparator (s : State) (i : TripIdx) (v : Comparator) (j : Port) : (s.setComparator i v).ring j = s.ring j := rfl
@[simp] theorem queue_setComparator (s : State) (i : TripIdx) (v : Comparator) (j : Port) : (s.setComparator i v).queue j = s.queue j := rfl
@[simp] theorem monitor_setComparator (s : State) (i : TripIdx) (v : Comparator) (j : MonitorIdx) : (s.setComparator i v).monitor j = s.monitor j := rfl
@[simp] theorem line_setComparator (s : State) (i : TripIdx) (v : Comparator) (j : LineIdx) : (s.setComparator i v).line j = s.line j := rfl
@[simp] theorem port_setComparator (s : State) (i : TripIdx) (v : Comparator) (j : Port) : (s.setComparator i v).port j = s.port j := rfl
@[simp] theorem trimEntry_setComparator (s : State) (i : TripIdx) (v : Comparator) (j : Gain) : (s.setComparator i v).trimEntry j = s.trimEntry j := rfl
@[simp] theorem job_setComparator (s : State) (i : TripIdx) (v : Comparator) (j : Gain) : (s.setComparator i v).job j = s.job j := rfl
@[simp] theorem attached_setComparator (s : State) (i : TripIdx) (v : Comparator) (p : Port) : (s.setComparator i v).attached p = s.attached p := rfl
@[simp] theorem slot_setComparator (s : State) (i : TripIdx) (v : Comparator) (p : Port) (k : SlotIdx) : (s.setComparator i v).slot p k = s.slot p k := rfl
@[simp] theorem claims_setComparator (s : State) (i : TripIdx) (v : Comparator) (l : LineIdx) (c : Claimant) : (s.setComparator i v).claims l c = s.claims l c := rfl

/-! ### setPort -/

@[simp] theorem port_setPort (s : State) (i : Port) (v : HostPort) : (s.setPort i v).port i = v := by
  simp [State.port, State.setPort]

theorem port_setPort_ne (s : State) (i j : Port) (v : HostPort) (h : j ≠ i) : (s.setPort i v).port j = s.port j := by
  have h' : i.val ≠ j.val := fun e => h (Fin.ext e).symm
  simp [State.port, State.setPort, Vector.getElem_set_ne, h']

theorem port_setPort_eq (s : State) (i j : Port) (v : HostPort) : (s.setPort i v).port j = if j = i then v else s.port j := by
  split
  next h => rw [h, port_setPort]
  next h => exact port_setPort_ne s i j v h

@[simp] theorem setPort_setPort (s : State) (i : Port) (v w : HostPort) : (s.setPort i v).setPort i w = s.setPort i w := by
  simp [State.setPort]

@[simp] theorem setPort_port (s : State) (i : Port) : s.setPort i (s.port i) = s := by
  simp [State.setPort, State.port]

@[simp] theorem resetLow_setPort (s : State) (i : Port) (v : HostPort) : (s.setPort i v).resetLow = s.resetLow := rfl
@[simp] theorem share_setPort (s : State) (i : Port) (v : HostPort) : (s.setPort i v).share = s.share := rfl
@[simp] theorem cdiv_setPort (s : State) (i : Port) (v : HostPort) : (s.setPort i v).cdiv = s.cdiv := rfl
@[simp] theorem baud_setPort (s : State) (i : Port) (v : HostPort) : (s.setPort i v).baud = s.baud := rfl
@[simp] theorem clkPhase_setPort (s : State) (i : Port) (v : HostPort) : (s.setPort i v).clkPhase = s.clkPhase := rfl
@[simp] theorem timebase_setPort (s : State) (i : Port) (v : HostPort) : (s.setPort i v).timebase = s.timebase := rfl
@[simp] theorem pins_setPort (s : State) (i : Port) (v : HostPort) : (s.setPort i v).pins = s.pins := rfl
@[simp] theorem trgLevels_setPort (s : State) (i : Port) (v : HostPort) : (s.setPort i v).trgLevels = s.trgLevels := rfl
@[simp] theorem trgSamples_setPort (s : State) (i : Port) (v : HostPort) : (s.setPort i v).trgSamples = s.trgSamples := rfl
@[simp] theorem points_setPort (s : State) (i : Port) (v : HostPort) : (s.setPort i v).points = s.points := rfl
@[simp] theorem subs_setPort (s : State) (i : Port) (v : HostPort) : (s.setPort i v).subs = s.subs := rfl
@[simp] theorem urgentQueue_setPort (s : State) (i : Port) (v : HostPort) : (s.setPort i v).urgentQueue = s.urgentQueue := rfl
@[simp] theorem fifos_setPort (s : State) (i : Port) (v : HostPort) : (s.setPort i v).fifos = s.fifos := rfl
@[simp] theorem suspended_setPort (s : State) (i : Port) (v : HostPort) : (s.setPort i v).suspended = s.suspended := rfl
@[simp] theorem converter_setPort (s : State) (i : Port) (v : HostPort) : (s.setPort i v).converter = s.converter := rfl
@[simp] theorem decisionDue_setPort (s : State) (i : Port) (v : HostPort) : (s.setPort i v).decisionDue = s.decisionDue := rfl
@[simp] theorem wheelPosition_setPort (s : State) (i : Port) (v : HostPort) : (s.setPort i v).wheelPosition = s.wheelPosition := rfl
@[simp] theorem urgentGrants_setPort (s : State) (i : Port) (v : HostPort) : (s.setPort i v).urgentGrants = s.urgentGrants := rfl
@[simp] theorem wheelGrants_setPort (s : State) (i : Port) (v : HostPort) : (s.setPort i v).wheelGrants = s.wheelGrants := rfl
@[simp] theorem conversion_setPort (s : State) (i : Port) (v : HostPort) : (s.setPort i v).conversion = s.conversion := rfl
@[simp] theorem lastGain_setPort (s : State) (i : Port) (v : HostPort) : (s.setPort i v).lastGain = s.lastGain := rfl
@[simp] theorem trims_setPort (s : State) (i : Port) (v : HostPort) : (s.setPort i v).trims = s.trims := rfl
@[simp] theorem jobs_setPort (s : State) (i : Port) (v : HostPort) : (s.setPort i v).jobs = s.jobs := rfl
@[simp] theorem rings_setPort (s : State) (i : Port) (v : HostPort) : (s.setPort i v).rings = s.rings := rfl
@[simp] theorem queues_setPort (s : State) (i : Port) (v : HostPort) : (s.setPort i v).queues = s.queues := rfl
@[simp] theorem monitors_setPort (s : State) (i : Port) (v : HostPort) : (s.setPort i v).monitors = s.monitors := rfl
@[simp] theorem lines_setPort (s : State) (i : Port) (v : HostPort) : (s.setPort i v).lines = s.lines := rfl
@[simp] theorem comparators_setPort (s : State) (i : Port) (v : HostPort) : (s.setPort i v).comparators = s.comparators := rfl
@[simp] theorem draws_setPort (s : State) (i : Port) (v : HostPort) : (s.setPort i v).draws = s.draws := rfl
@[simp] theorem pending_setPort (s : State) (i : Port) (v : HostPort) : (s.setPort i v).pending = s.pending := rfl
@[simp] theorem point_setPort (s : State) (i : Port) (v : HostPort) (j : PointIdx) : (s.setPort i v).point j = s.point j := rfl
@[simp] theorem slots_setPort (s : State) (i : Port) (v : HostPort) (j : Port) : (s.setPort i v).slots j = s.slots j := rfl
@[simp] theorem fifo_setPort (s : State) (i : Port) (v : HostPort) (j : Port) : (s.setPort i v).fifo j = s.fifo j := rfl
@[simp] theorem urgentGrant_setPort (s : State) (i : Port) (v : HostPort) (j : Port) : (s.setPort i v).urgentGrant j = s.urgentGrant j := rfl
@[simp] theorem wheelGrant_setPort (s : State) (i : Port) (v : HostPort) (j : Port) : (s.setPort i v).wheelGrant j = s.wheelGrant j := rfl
@[simp] theorem ring_setPort (s : State) (i : Port) (v : HostPort) (j : Port) : (s.setPort i v).ring j = s.ring j := rfl
@[simp] theorem queue_setPort (s : State) (i : Port) (v : HostPort) (j : Port) : (s.setPort i v).queue j = s.queue j := rfl
@[simp] theorem monitor_setPort (s : State) (i : Port) (v : HostPort) (j : MonitorIdx) : (s.setPort i v).monitor j = s.monitor j := rfl
@[simp] theorem line_setPort (s : State) (i : Port) (v : HostPort) (j : LineIdx) : (s.setPort i v).line j = s.line j := rfl
@[simp] theorem comparator_setPort (s : State) (i : Port) (v : HostPort) (j : TripIdx) : (s.setPort i v).comparator j = s.comparator j := rfl
@[simp] theorem trimEntry_setPort (s : State) (i : Port) (v : HostPort) (j : Gain) : (s.setPort i v).trimEntry j = s.trimEntry j := rfl
@[simp] theorem job_setPort (s : State) (i : Port) (v : HostPort) (j : Gain) : (s.setPort i v).job j = s.job j := rfl
@[simp] theorem slot_setPort (s : State) (i : Port) (v : HostPort) (p : Port) (k : SlotIdx) : (s.setPort i v).slot p k = s.slot p k := rfl
@[simp] theorem claims_setPort (s : State) (i : Port) (v : HostPort) (l : LineIdx) (c : Claimant) : (s.setPort i v).claims l c = s.claims l c := rfl

/-! ### setTrimEntry -/

@[simp] theorem trimEntry_setTrimEntry (s : State) (i : Gain) (v : TrimEntry) : (s.setTrimEntry i v).trimEntry i = v := by
  simp [State.trimEntry, State.setTrimEntry]

theorem trimEntry_setTrimEntry_ne (s : State) (i j : Gain) (v : TrimEntry) (h : j ≠ i) : (s.setTrimEntry i v).trimEntry j = s.trimEntry j := by
  have h' : (gainIndex i).val ≠ (gainIndex j).val := fun e => h (gainIndex_injective (Fin.ext e)).symm
  simp [State.trimEntry, State.setTrimEntry, Vector.getElem_set_ne, h']

theorem trimEntry_setTrimEntry_eq (s : State) (i j : Gain) (v : TrimEntry) : (s.setTrimEntry i v).trimEntry j = if j = i then v else s.trimEntry j := by
  split
  next h => rw [h, trimEntry_setTrimEntry]
  next h => exact trimEntry_setTrimEntry_ne s i j v h

@[simp] theorem setTrimEntry_setTrimEntry (s : State) (i : Gain) (v w : TrimEntry) : (s.setTrimEntry i v).setTrimEntry i w = s.setTrimEntry i w := by
  simp [State.setTrimEntry]

@[simp] theorem setTrimEntry_trimEntry (s : State) (i : Gain) : s.setTrimEntry i (s.trimEntry i) = s := by
  simp [State.setTrimEntry, State.trimEntry]

@[simp] theorem resetLow_setTrimEntry (s : State) (i : Gain) (v : TrimEntry) : (s.setTrimEntry i v).resetLow = s.resetLow := rfl
@[simp] theorem share_setTrimEntry (s : State) (i : Gain) (v : TrimEntry) : (s.setTrimEntry i v).share = s.share := rfl
@[simp] theorem cdiv_setTrimEntry (s : State) (i : Gain) (v : TrimEntry) : (s.setTrimEntry i v).cdiv = s.cdiv := rfl
@[simp] theorem baud_setTrimEntry (s : State) (i : Gain) (v : TrimEntry) : (s.setTrimEntry i v).baud = s.baud := rfl
@[simp] theorem clkPhase_setTrimEntry (s : State) (i : Gain) (v : TrimEntry) : (s.setTrimEntry i v).clkPhase = s.clkPhase := rfl
@[simp] theorem timebase_setTrimEntry (s : State) (i : Gain) (v : TrimEntry) : (s.setTrimEntry i v).timebase = s.timebase := rfl
@[simp] theorem pins_setTrimEntry (s : State) (i : Gain) (v : TrimEntry) : (s.setTrimEntry i v).pins = s.pins := rfl
@[simp] theorem trgLevels_setTrimEntry (s : State) (i : Gain) (v : TrimEntry) : (s.setTrimEntry i v).trgLevels = s.trgLevels := rfl
@[simp] theorem trgSamples_setTrimEntry (s : State) (i : Gain) (v : TrimEntry) : (s.setTrimEntry i v).trgSamples = s.trgSamples := rfl
@[simp] theorem points_setTrimEntry (s : State) (i : Gain) (v : TrimEntry) : (s.setTrimEntry i v).points = s.points := rfl
@[simp] theorem subs_setTrimEntry (s : State) (i : Gain) (v : TrimEntry) : (s.setTrimEntry i v).subs = s.subs := rfl
@[simp] theorem urgentQueue_setTrimEntry (s : State) (i : Gain) (v : TrimEntry) : (s.setTrimEntry i v).urgentQueue = s.urgentQueue := rfl
@[simp] theorem fifos_setTrimEntry (s : State) (i : Gain) (v : TrimEntry) : (s.setTrimEntry i v).fifos = s.fifos := rfl
@[simp] theorem suspended_setTrimEntry (s : State) (i : Gain) (v : TrimEntry) : (s.setTrimEntry i v).suspended = s.suspended := rfl
@[simp] theorem converter_setTrimEntry (s : State) (i : Gain) (v : TrimEntry) : (s.setTrimEntry i v).converter = s.converter := rfl
@[simp] theorem decisionDue_setTrimEntry (s : State) (i : Gain) (v : TrimEntry) : (s.setTrimEntry i v).decisionDue = s.decisionDue := rfl
@[simp] theorem wheelPosition_setTrimEntry (s : State) (i : Gain) (v : TrimEntry) : (s.setTrimEntry i v).wheelPosition = s.wheelPosition := rfl
@[simp] theorem urgentGrants_setTrimEntry (s : State) (i : Gain) (v : TrimEntry) : (s.setTrimEntry i v).urgentGrants = s.urgentGrants := rfl
@[simp] theorem wheelGrants_setTrimEntry (s : State) (i : Gain) (v : TrimEntry) : (s.setTrimEntry i v).wheelGrants = s.wheelGrants := rfl
@[simp] theorem conversion_setTrimEntry (s : State) (i : Gain) (v : TrimEntry) : (s.setTrimEntry i v).conversion = s.conversion := rfl
@[simp] theorem lastGain_setTrimEntry (s : State) (i : Gain) (v : TrimEntry) : (s.setTrimEntry i v).lastGain = s.lastGain := rfl
@[simp] theorem jobs_setTrimEntry (s : State) (i : Gain) (v : TrimEntry) : (s.setTrimEntry i v).jobs = s.jobs := rfl
@[simp] theorem rings_setTrimEntry (s : State) (i : Gain) (v : TrimEntry) : (s.setTrimEntry i v).rings = s.rings := rfl
@[simp] theorem queues_setTrimEntry (s : State) (i : Gain) (v : TrimEntry) : (s.setTrimEntry i v).queues = s.queues := rfl
@[simp] theorem monitors_setTrimEntry (s : State) (i : Gain) (v : TrimEntry) : (s.setTrimEntry i v).monitors = s.monitors := rfl
@[simp] theorem lines_setTrimEntry (s : State) (i : Gain) (v : TrimEntry) : (s.setTrimEntry i v).lines = s.lines := rfl
@[simp] theorem comparators_setTrimEntry (s : State) (i : Gain) (v : TrimEntry) : (s.setTrimEntry i v).comparators = s.comparators := rfl
@[simp] theorem ports_setTrimEntry (s : State) (i : Gain) (v : TrimEntry) : (s.setTrimEntry i v).ports = s.ports := rfl
@[simp] theorem draws_setTrimEntry (s : State) (i : Gain) (v : TrimEntry) : (s.setTrimEntry i v).draws = s.draws := rfl
@[simp] theorem pending_setTrimEntry (s : State) (i : Gain) (v : TrimEntry) : (s.setTrimEntry i v).pending = s.pending := rfl
@[simp] theorem point_setTrimEntry (s : State) (i : Gain) (v : TrimEntry) (j : PointIdx) : (s.setTrimEntry i v).point j = s.point j := rfl
@[simp] theorem slots_setTrimEntry (s : State) (i : Gain) (v : TrimEntry) (j : Port) : (s.setTrimEntry i v).slots j = s.slots j := rfl
@[simp] theorem fifo_setTrimEntry (s : State) (i : Gain) (v : TrimEntry) (j : Port) : (s.setTrimEntry i v).fifo j = s.fifo j := rfl
@[simp] theorem urgentGrant_setTrimEntry (s : State) (i : Gain) (v : TrimEntry) (j : Port) : (s.setTrimEntry i v).urgentGrant j = s.urgentGrant j := rfl
@[simp] theorem wheelGrant_setTrimEntry (s : State) (i : Gain) (v : TrimEntry) (j : Port) : (s.setTrimEntry i v).wheelGrant j = s.wheelGrant j := rfl
@[simp] theorem ring_setTrimEntry (s : State) (i : Gain) (v : TrimEntry) (j : Port) : (s.setTrimEntry i v).ring j = s.ring j := rfl
@[simp] theorem queue_setTrimEntry (s : State) (i : Gain) (v : TrimEntry) (j : Port) : (s.setTrimEntry i v).queue j = s.queue j := rfl
@[simp] theorem monitor_setTrimEntry (s : State) (i : Gain) (v : TrimEntry) (j : MonitorIdx) : (s.setTrimEntry i v).monitor j = s.monitor j := rfl
@[simp] theorem line_setTrimEntry (s : State) (i : Gain) (v : TrimEntry) (j : LineIdx) : (s.setTrimEntry i v).line j = s.line j := rfl
@[simp] theorem comparator_setTrimEntry (s : State) (i : Gain) (v : TrimEntry) (j : TripIdx) : (s.setTrimEntry i v).comparator j = s.comparator j := rfl
@[simp] theorem port_setTrimEntry (s : State) (i : Gain) (v : TrimEntry) (j : Port) : (s.setTrimEntry i v).port j = s.port j := rfl
@[simp] theorem job_setTrimEntry (s : State) (i : Gain) (v : TrimEntry) (j : Gain) : (s.setTrimEntry i v).job j = s.job j := rfl
@[simp] theorem attached_setTrimEntry (s : State) (i : Gain) (v : TrimEntry) (p : Port) : (s.setTrimEntry i v).attached p = s.attached p := rfl
@[simp] theorem slot_setTrimEntry (s : State) (i : Gain) (v : TrimEntry) (p : Port) (k : SlotIdx) : (s.setTrimEntry i v).slot p k = s.slot p k := rfl
@[simp] theorem claims_setTrimEntry (s : State) (i : Gain) (v : TrimEntry) (l : LineIdx) (c : Claimant) : (s.setTrimEntry i v).claims l c = s.claims l c := rfl

/-! ### setJob -/

@[simp] theorem job_setJob (s : State) (i : Gain) (v : CalibrationJob) : (s.setJob i v).job i = v := by
  simp [State.job, State.setJob]

theorem job_setJob_ne (s : State) (i j : Gain) (v : CalibrationJob) (h : j ≠ i) : (s.setJob i v).job j = s.job j := by
  have h' : (gainIndex i).val ≠ (gainIndex j).val := fun e => h (gainIndex_injective (Fin.ext e)).symm
  simp [State.job, State.setJob, Vector.getElem_set_ne, h']

theorem job_setJob_eq (s : State) (i j : Gain) (v : CalibrationJob) : (s.setJob i v).job j = if j = i then v else s.job j := by
  split
  next h => rw [h, job_setJob]
  next h => exact job_setJob_ne s i j v h

@[simp] theorem setJob_setJob (s : State) (i : Gain) (v w : CalibrationJob) : (s.setJob i v).setJob i w = s.setJob i w := by
  simp [State.setJob]

@[simp] theorem setJob_job (s : State) (i : Gain) : s.setJob i (s.job i) = s := by
  simp [State.setJob, State.job]

@[simp] theorem resetLow_setJob (s : State) (i : Gain) (v : CalibrationJob) : (s.setJob i v).resetLow = s.resetLow := rfl
@[simp] theorem share_setJob (s : State) (i : Gain) (v : CalibrationJob) : (s.setJob i v).share = s.share := rfl
@[simp] theorem cdiv_setJob (s : State) (i : Gain) (v : CalibrationJob) : (s.setJob i v).cdiv = s.cdiv := rfl
@[simp] theorem baud_setJob (s : State) (i : Gain) (v : CalibrationJob) : (s.setJob i v).baud = s.baud := rfl
@[simp] theorem clkPhase_setJob (s : State) (i : Gain) (v : CalibrationJob) : (s.setJob i v).clkPhase = s.clkPhase := rfl
@[simp] theorem timebase_setJob (s : State) (i : Gain) (v : CalibrationJob) : (s.setJob i v).timebase = s.timebase := rfl
@[simp] theorem pins_setJob (s : State) (i : Gain) (v : CalibrationJob) : (s.setJob i v).pins = s.pins := rfl
@[simp] theorem trgLevels_setJob (s : State) (i : Gain) (v : CalibrationJob) : (s.setJob i v).trgLevels = s.trgLevels := rfl
@[simp] theorem trgSamples_setJob (s : State) (i : Gain) (v : CalibrationJob) : (s.setJob i v).trgSamples = s.trgSamples := rfl
@[simp] theorem points_setJob (s : State) (i : Gain) (v : CalibrationJob) : (s.setJob i v).points = s.points := rfl
@[simp] theorem subs_setJob (s : State) (i : Gain) (v : CalibrationJob) : (s.setJob i v).subs = s.subs := rfl
@[simp] theorem urgentQueue_setJob (s : State) (i : Gain) (v : CalibrationJob) : (s.setJob i v).urgentQueue = s.urgentQueue := rfl
@[simp] theorem fifos_setJob (s : State) (i : Gain) (v : CalibrationJob) : (s.setJob i v).fifos = s.fifos := rfl
@[simp] theorem suspended_setJob (s : State) (i : Gain) (v : CalibrationJob) : (s.setJob i v).suspended = s.suspended := rfl
@[simp] theorem converter_setJob (s : State) (i : Gain) (v : CalibrationJob) : (s.setJob i v).converter = s.converter := rfl
@[simp] theorem decisionDue_setJob (s : State) (i : Gain) (v : CalibrationJob) : (s.setJob i v).decisionDue = s.decisionDue := rfl
@[simp] theorem wheelPosition_setJob (s : State) (i : Gain) (v : CalibrationJob) : (s.setJob i v).wheelPosition = s.wheelPosition := rfl
@[simp] theorem urgentGrants_setJob (s : State) (i : Gain) (v : CalibrationJob) : (s.setJob i v).urgentGrants = s.urgentGrants := rfl
@[simp] theorem wheelGrants_setJob (s : State) (i : Gain) (v : CalibrationJob) : (s.setJob i v).wheelGrants = s.wheelGrants := rfl
@[simp] theorem conversion_setJob (s : State) (i : Gain) (v : CalibrationJob) : (s.setJob i v).conversion = s.conversion := rfl
@[simp] theorem lastGain_setJob (s : State) (i : Gain) (v : CalibrationJob) : (s.setJob i v).lastGain = s.lastGain := rfl
@[simp] theorem trims_setJob (s : State) (i : Gain) (v : CalibrationJob) : (s.setJob i v).trims = s.trims := rfl
@[simp] theorem rings_setJob (s : State) (i : Gain) (v : CalibrationJob) : (s.setJob i v).rings = s.rings := rfl
@[simp] theorem queues_setJob (s : State) (i : Gain) (v : CalibrationJob) : (s.setJob i v).queues = s.queues := rfl
@[simp] theorem monitors_setJob (s : State) (i : Gain) (v : CalibrationJob) : (s.setJob i v).monitors = s.monitors := rfl
@[simp] theorem lines_setJob (s : State) (i : Gain) (v : CalibrationJob) : (s.setJob i v).lines = s.lines := rfl
@[simp] theorem comparators_setJob (s : State) (i : Gain) (v : CalibrationJob) : (s.setJob i v).comparators = s.comparators := rfl
@[simp] theorem ports_setJob (s : State) (i : Gain) (v : CalibrationJob) : (s.setJob i v).ports = s.ports := rfl
@[simp] theorem draws_setJob (s : State) (i : Gain) (v : CalibrationJob) : (s.setJob i v).draws = s.draws := rfl
@[simp] theorem pending_setJob (s : State) (i : Gain) (v : CalibrationJob) : (s.setJob i v).pending = s.pending := rfl
@[simp] theorem point_setJob (s : State) (i : Gain) (v : CalibrationJob) (j : PointIdx) : (s.setJob i v).point j = s.point j := rfl
@[simp] theorem slots_setJob (s : State) (i : Gain) (v : CalibrationJob) (j : Port) : (s.setJob i v).slots j = s.slots j := rfl
@[simp] theorem fifo_setJob (s : State) (i : Gain) (v : CalibrationJob) (j : Port) : (s.setJob i v).fifo j = s.fifo j := rfl
@[simp] theorem urgentGrant_setJob (s : State) (i : Gain) (v : CalibrationJob) (j : Port) : (s.setJob i v).urgentGrant j = s.urgentGrant j := rfl
@[simp] theorem wheelGrant_setJob (s : State) (i : Gain) (v : CalibrationJob) (j : Port) : (s.setJob i v).wheelGrant j = s.wheelGrant j := rfl
@[simp] theorem ring_setJob (s : State) (i : Gain) (v : CalibrationJob) (j : Port) : (s.setJob i v).ring j = s.ring j := rfl
@[simp] theorem queue_setJob (s : State) (i : Gain) (v : CalibrationJob) (j : Port) : (s.setJob i v).queue j = s.queue j := rfl
@[simp] theorem monitor_setJob (s : State) (i : Gain) (v : CalibrationJob) (j : MonitorIdx) : (s.setJob i v).monitor j = s.monitor j := rfl
@[simp] theorem line_setJob (s : State) (i : Gain) (v : CalibrationJob) (j : LineIdx) : (s.setJob i v).line j = s.line j := rfl
@[simp] theorem comparator_setJob (s : State) (i : Gain) (v : CalibrationJob) (j : TripIdx) : (s.setJob i v).comparator j = s.comparator j := rfl
@[simp] theorem port_setJob (s : State) (i : Gain) (v : CalibrationJob) (j : Port) : (s.setJob i v).port j = s.port j := rfl
@[simp] theorem trimEntry_setJob (s : State) (i : Gain) (v : CalibrationJob) (j : Gain) : (s.setJob i v).trimEntry j = s.trimEntry j := rfl
@[simp] theorem attached_setJob (s : State) (i : Gain) (v : CalibrationJob) (p : Port) : (s.setJob i v).attached p = s.attached p := rfl
@[simp] theorem slot_setJob (s : State) (i : Gain) (v : CalibrationJob) (p : Port) (k : SlotIdx) : (s.setJob i v).slot p k = s.slot p k := rfl
@[simp] theorem claims_setJob (s : State) (i : Gain) (v : CalibrationJob) (l : LineIdx) (c : Claimant) : (s.setJob i v).claims l c = s.claims l c := rfl

/-! ### Slots -/

@[simp] theorem slot_setSlot (s : State) (p : Port) (k : SlotIdx) (v : Option Subscription) :
    (s.setSlot p k v).slot p k = v := by
  simp [State.slot, State.setSlot]

theorem slot_setSlot_slot_ne (s : State) (p : Port) (k l : SlotIdx) (v : Option Subscription) (h : l ≠ k) :
    (s.setSlot p k v).slot p l = s.slot p l := by
  have h' : k.val ≠ l.val := fun e => h (Fin.ext e).symm
  simp [State.slot, State.setSlot, Vector.getElem_set_ne, h']

theorem slot_setSlot_port_ne (s : State) (p q : Port) (k l : SlotIdx) (v : Option Subscription) (h : q ≠ p) :
    (s.setSlot p k v).slot q l = s.slot q l := by
  simp [State.slot, State.setSlot, slots_setSlots_ne _ _ _ _ h]

@[simp] theorem resetLow_setSlot (s : State) (p : Port) (k : SlotIdx) (v : Option Subscription) : (s.setSlot p k v).resetLow = s.resetLow := rfl
@[simp] theorem share_setSlot (s : State) (p : Port) (k : SlotIdx) (v : Option Subscription) : (s.setSlot p k v).share = s.share := rfl
@[simp] theorem cdiv_setSlot (s : State) (p : Port) (k : SlotIdx) (v : Option Subscription) : (s.setSlot p k v).cdiv = s.cdiv := rfl
@[simp] theorem baud_setSlot (s : State) (p : Port) (k : SlotIdx) (v : Option Subscription) : (s.setSlot p k v).baud = s.baud := rfl
@[simp] theorem clkPhase_setSlot (s : State) (p : Port) (k : SlotIdx) (v : Option Subscription) : (s.setSlot p k v).clkPhase = s.clkPhase := rfl
@[simp] theorem timebase_setSlot (s : State) (p : Port) (k : SlotIdx) (v : Option Subscription) : (s.setSlot p k v).timebase = s.timebase := rfl
@[simp] theorem pins_setSlot (s : State) (p : Port) (k : SlotIdx) (v : Option Subscription) : (s.setSlot p k v).pins = s.pins := rfl
@[simp] theorem trgLevels_setSlot (s : State) (p : Port) (k : SlotIdx) (v : Option Subscription) : (s.setSlot p k v).trgLevels = s.trgLevels := rfl
@[simp] theorem trgSamples_setSlot (s : State) (p : Port) (k : SlotIdx) (v : Option Subscription) : (s.setSlot p k v).trgSamples = s.trgSamples := rfl
@[simp] theorem points_setSlot (s : State) (p : Port) (k : SlotIdx) (v : Option Subscription) : (s.setSlot p k v).points = s.points := rfl
@[simp] theorem urgentQueue_setSlot (s : State) (p : Port) (k : SlotIdx) (v : Option Subscription) : (s.setSlot p k v).urgentQueue = s.urgentQueue := rfl
@[simp] theorem fifos_setSlot (s : State) (p : Port) (k : SlotIdx) (v : Option Subscription) : (s.setSlot p k v).fifos = s.fifos := rfl
@[simp] theorem suspended_setSlot (s : State) (p : Port) (k : SlotIdx) (v : Option Subscription) : (s.setSlot p k v).suspended = s.suspended := rfl
@[simp] theorem converter_setSlot (s : State) (p : Port) (k : SlotIdx) (v : Option Subscription) : (s.setSlot p k v).converter = s.converter := rfl
@[simp] theorem decisionDue_setSlot (s : State) (p : Port) (k : SlotIdx) (v : Option Subscription) : (s.setSlot p k v).decisionDue = s.decisionDue := rfl
@[simp] theorem wheelPosition_setSlot (s : State) (p : Port) (k : SlotIdx) (v : Option Subscription) : (s.setSlot p k v).wheelPosition = s.wheelPosition := rfl
@[simp] theorem urgentGrants_setSlot (s : State) (p : Port) (k : SlotIdx) (v : Option Subscription) : (s.setSlot p k v).urgentGrants = s.urgentGrants := rfl
@[simp] theorem wheelGrants_setSlot (s : State) (p : Port) (k : SlotIdx) (v : Option Subscription) : (s.setSlot p k v).wheelGrants = s.wheelGrants := rfl
@[simp] theorem conversion_setSlot (s : State) (p : Port) (k : SlotIdx) (v : Option Subscription) : (s.setSlot p k v).conversion = s.conversion := rfl
@[simp] theorem lastGain_setSlot (s : State) (p : Port) (k : SlotIdx) (v : Option Subscription) : (s.setSlot p k v).lastGain = s.lastGain := rfl
@[simp] theorem trims_setSlot (s : State) (p : Port) (k : SlotIdx) (v : Option Subscription) : (s.setSlot p k v).trims = s.trims := rfl
@[simp] theorem jobs_setSlot (s : State) (p : Port) (k : SlotIdx) (v : Option Subscription) : (s.setSlot p k v).jobs = s.jobs := rfl
@[simp] theorem rings_setSlot (s : State) (p : Port) (k : SlotIdx) (v : Option Subscription) : (s.setSlot p k v).rings = s.rings := rfl
@[simp] theorem queues_setSlot (s : State) (p : Port) (k : SlotIdx) (v : Option Subscription) : (s.setSlot p k v).queues = s.queues := rfl
@[simp] theorem monitors_setSlot (s : State) (p : Port) (k : SlotIdx) (v : Option Subscription) : (s.setSlot p k v).monitors = s.monitors := rfl
@[simp] theorem lines_setSlot (s : State) (p : Port) (k : SlotIdx) (v : Option Subscription) : (s.setSlot p k v).lines = s.lines := rfl
@[simp] theorem comparators_setSlot (s : State) (p : Port) (k : SlotIdx) (v : Option Subscription) : (s.setSlot p k v).comparators = s.comparators := rfl
@[simp] theorem ports_setSlot (s : State) (p : Port) (k : SlotIdx) (v : Option Subscription) : (s.setSlot p k v).ports = s.ports := rfl
@[simp] theorem draws_setSlot (s : State) (p : Port) (k : SlotIdx) (v : Option Subscription) : (s.setSlot p k v).draws = s.draws := rfl
@[simp] theorem pending_setSlot (s : State) (p : Port) (k : SlotIdx) (v : Option Subscription) : (s.setSlot p k v).pending = s.pending := rfl
@[simp] theorem point_setSlot (s : State) (p : Port) (k : SlotIdx) (v : Option Subscription) (j : PointIdx) : (s.setSlot p k v).point j = s.point j := rfl
@[simp] theorem fifo_setSlot (s : State) (p : Port) (k : SlotIdx) (v : Option Subscription) (j : Port) : (s.setSlot p k v).fifo j = s.fifo j := rfl
@[simp] theorem urgentGrant_setSlot (s : State) (p : Port) (k : SlotIdx) (v : Option Subscription) (j : Port) : (s.setSlot p k v).urgentGrant j = s.urgentGrant j := rfl
@[simp] theorem wheelGrant_setSlot (s : State) (p : Port) (k : SlotIdx) (v : Option Subscription) (j : Port) : (s.setSlot p k v).wheelGrant j = s.wheelGrant j := rfl
@[simp] theorem ring_setSlot (s : State) (p : Port) (k : SlotIdx) (v : Option Subscription) (j : Port) : (s.setSlot p k v).ring j = s.ring j := rfl
@[simp] theorem queue_setSlot (s : State) (p : Port) (k : SlotIdx) (v : Option Subscription) (j : Port) : (s.setSlot p k v).queue j = s.queue j := rfl
@[simp] theorem monitor_setSlot (s : State) (p : Port) (k : SlotIdx) (v : Option Subscription) (j : MonitorIdx) : (s.setSlot p k v).monitor j = s.monitor j := rfl
@[simp] theorem line_setSlot (s : State) (p : Port) (k : SlotIdx) (v : Option Subscription) (j : LineIdx) : (s.setSlot p k v).line j = s.line j := rfl
@[simp] theorem comparator_setSlot (s : State) (p : Port) (k : SlotIdx) (v : Option Subscription) (j : TripIdx) : (s.setSlot p k v).comparator j = s.comparator j := rfl
@[simp] theorem port_setSlot (s : State) (p : Port) (k : SlotIdx) (v : Option Subscription) (j : Port) : (s.setSlot p k v).port j = s.port j := rfl
@[simp] theorem trimEntry_setSlot (s : State) (p : Port) (k : SlotIdx) (v : Option Subscription) (j : Gain) : (s.setSlot p k v).trimEntry j = s.trimEntry j := rfl
@[simp] theorem job_setSlot (s : State) (p : Port) (k : SlotIdx) (v : Option Subscription) (j : Gain) : (s.setSlot p k v).job j = s.job j := rfl
@[simp] theorem attached_setSlot (s : State) (p q : Port) (k : SlotIdx) (v : Option Subscription) : (s.setSlot p k v).attached q = s.attached q := rfl
@[simp] theorem claims_setSlot (s : State) (p : Port) (k : SlotIdx) (v : Option Subscription) (l : LineIdx) (c : Claimant) : (s.setSlot p k v).claims l c = s.claims l c := rfl

end Sys2Proof.Machine
end

