-- ==== Sys2Proof/Laws/Ops.lean ====
section
/-!
SUPPORT. What the shared operations can do, said once for each: which parts of State they change, and what the parts they
change become.  Later proofs cite these and do not unfold the operations.
-/

namespace Sys2Proof.Machine

/-! ### Folds -/

/-- A relation that holds of every step of a fold, is reflexive and composes holds of the whole fold. -/
theorem foldl_rel {α β : Type} (R : β → β → Prop) (f : β → α → β) (refl : ∀ s, R s s)
    (trans : ∀ s t u, R s t → R t u → R s u) (h : ∀ s a, R s (f s a)) (xs : List α) (s : β) : R s (xs.foldl f s) := by
  induction xs generalizing s with
  | nil => exact refl s
  | cons x xs ih => exact trans _ _ _ (h s x) (ih _)

/-- A property that every step of a fold keeps holds after the fold. -/
theorem foldl_keeps {α β : Type} (P : β → Prop) (f : β → α → β) (xs : List α) (h : ∀ s, ∀ a ∈ xs, P s → P (f s a))
    (s : β) (hs : P s) : P (xs.foldl f s) := by
  induction xs generalizing s with
  | nil => exact hs
  | cons x xs ih =>
    exact ih (fun s a ha => h s a (List.mem_cons_of_mem _ ha)) _ (h s x (List.mem_cons_self ..) hs)

/-! ### States that differ in few fields -/

/-- `t` is `s` but for the event queues. -/
def OnlyQueues (s t : State) : Prop := t = { s with queues := t.queues }

/-- `t` is `s` but for the claim sets and the event queues. -/
def OnlyClaims (s t : State) : Prop := t = { s with lines := t.lines, queues := t.queues }

/-- `t` is `s` but for the monitors, the claim sets and the event queues. -/
def OnlyMonitors (s t : State) : Prop := t = { s with monitors := t.monitors, lines := t.lines, queues := t.queues }

theorem OnlyQueues.refl (s : State) : OnlyQueues s s := rfl

theorem OnlyQueues.trans {s t u : State} (h : OnlyQueues s t) (k : OnlyQueues t u) : OnlyQueues s u := by
  unfold OnlyQueues at *; rw [k]; rw [h]

theorem OnlyClaims.refl (s : State) : OnlyClaims s s := rfl

theorem OnlyClaims.trans {s t u : State} (h : OnlyClaims s t) (k : OnlyClaims t u) : OnlyClaims s u := by
  unfold OnlyClaims at *; rw [k]; rw [h]

theorem OnlyMonitors.refl (s : State) : OnlyMonitors s s := rfl

theorem OnlyMonitors.trans {s t u : State} (h : OnlyMonitors s t) (k : OnlyMonitors t u) : OnlyMonitors s u := by
  unfold OnlyMonitors at *; rw [k]; rw [h]

theorem OnlyQueues.onlyClaims {s t : State} (h : OnlyQueues s t) : OnlyClaims s t := by
  unfold OnlyQueues OnlyClaims at *; rw [h]

theorem OnlyClaims.onlyMonitors {s t : State} (h : OnlyClaims s t) : OnlyMonitors s t := by
  unfold OnlyClaims OnlyMonitors at *; rw [h]

/-! ### Events -/

theorem offerEvent_only (e : Event) (p : Port) (s : State) : OnlyQueues s (offerEvent e p s) := by
  unfold offerEvent; split <;> rfl

theorem queue_offerEvent (e : Event) (p q : Port) (s : State) :
    (offerEvent e p s).queue q = if q = p ∧ s.attached p = true then queuePut (s.queue q) e else s.queue q := by
  unfold offerEvent State.modQueue
  by_cases ha : s.attached p = true
  · by_cases hq : q = p
    · subst hq; simp [ha]
    · simp [ha, hq, queue_setQueue_ne]
  · simp [ha]

theorem formEvent_only (kind : EventKind) (subject value : Nat) (dest : Port → Bool) (s : State) :
    OnlyQueues s (formEvent kind subject value dest s) := by
  unfold formEvent
  refine foldl_rel OnlyQueues _ OnlyQueues.refl (fun _ _ _ => OnlyQueues.trans) (fun s p => ?_) _ _
  by_cases h : dest p = true
  · simpa [h] using offerEvent_only _ p s
  · simp [h, OnlyQueues.refl]

theorem attached_offerEvent (e : Event) (p q : Port) (s : State) : (offerEvent e p s).attached q = s.attached q := by
  rw [offerEvent_only e p s]; rfl

/-- An event that is formed reaches the queue of each ATTACHED port it is meant for, once. -/
theorem queue_formEvent (kind : EventKind) (subject value : Nat) (dest : Port → Bool) (s : State) (q : Port) :
    (formEvent kind subject value dest s).queue q =
      if dest q = true ∧ s.attached q = true then
        queuePut (s.queue q) { kind, subject, value, timestamp := s.timebase }
      else s.queue q := by
  have key : ∀ (e : Event) (xs : List Port), xs.Nodup → ∀ s : State,
      (xs.foldl (fun s p => if dest p then offerEvent e p s else s) s).queue q =
        if q ∈ xs ∧ dest q = true ∧ s.attached q = true then queuePut (s.queue q) e else s.queue q := by
    intro e xs
    induction xs with
    | nil => simp
    | cons x xs ih =>
      intro hn s
      have hx : x ∉ xs := (List.nodup_cons.mp hn).1
      rw [List.foldl_cons, ih (List.nodup_cons.mp hn).2]
      by_cases hd : dest x = true
      · simp only [hd, if_true, attached_offerEvent, queue_offerEvent]
        by_cases hq : q = x
        · subst hq; simp [hx, hd]
        · simp [hq]
      · by_cases hq : q = x
        · subst hq; simp [hx, hd]
        · simp [hd, hq]
  have h := key { kind, subject, value, timestamp := s.timebase } allPorts (List.nodup_finRange 4) s
  simpa [formEvent, allPorts] using h

theorem formEventForAll_only (kind : EventKind) (subject value : Nat) (s : State) :
    OnlyQueues s (formEventForAll kind subject value s) := formEvent_only ..

theorem queue_formEventForAll (kind : EventKind) (subject value : Nat) (s : State) (q : Port) :
    (formEventForAll kind subject value s).queue q =
      if s.attached q = true then queuePut (s.queue q) { kind, subject, value, timestamp := s.timebase }
      else s.queue q := by
  simp [formEventForAll, queue_formEvent]

/-- What an OnlyQueues step leaves: every field but the queues. -/
theorem OnlyQueues.point {s t : State} (h : OnlyQueues s t) (i : PointIdx) : t.point i = s.point i := by rw [h]; rfl
theorem OnlyQueues.slot {s t : State} (h : OnlyQueues s t) (p : Port) (k : SlotIdx) : t.slot p k = s.slot p k := by
  rw [h]; rfl
theorem OnlyQueues.line {s t : State} (h : OnlyQueues s t) (l : LineIdx) : t.line l = s.line l := by rw [h]; rfl
theorem OnlyQueues.claims {s t : State} (h : OnlyQueues s t) (l : LineIdx) (c : Claimant) :
    t.claims l c = s.claims l c := by rw [h]; rfl
theorem OnlyQueues.attached {s t : State} (h : OnlyQueues s t) (p : Port) : t.attached p = s.attached p := by
  rw [h]; rfl
theorem OnlyQueues.monitor {s t : State} (h : OnlyQueues s t) (k : MonitorIdx) : t.monitor k = s.monitor k := by
  rw [h]; rfl
theorem OnlyQueues.port {s t : State} (h : OnlyQueues s t) (p : Port) : t.port p = s.port p := by rw [h]; rfl
theorem OnlyQueues.ring {s t : State} (h : OnlyQueues s t) (p : Port) : t.ring p = s.ring p := by rw [h]; rfl
theorem OnlyQueues.comparator {s t : State} (h : OnlyQueues s t) (k : TripIdx) : t.comparator k = s.comparator k := by
  rw [h]; rfl
theorem OnlyQueues.timebase {s t : State} (h : OnlyQueues s t) : t.timebase = s.timebase := by rw [h]

theorem OnlyClaims.point {s t : State} (h : OnlyClaims s t) (i : PointIdx) : t.point i = s.point i := by rw [h]; rfl
theorem OnlyClaims.slot {s t : State} (h : OnlyClaims s t) (p : Port) (k : SlotIdx) : t.slot p k = s.slot p k := by
  rw [h]; rfl
theorem OnlyClaims.attached {s t : State} (h : OnlyClaims s t) (p : Port) : t.attached p = s.attached p := by
  rw [h]; rfl
theorem OnlyClaims.monitor {s t : State} (h : OnlyClaims s t) (k : MonitorIdx) : t.monitor k = s.monitor k := by
  rw [h]; rfl
theorem OnlyClaims.port {s t : State} (h : OnlyClaims s t) (p : Port) : t.port p = s.port p := by rw [h]; rfl
theorem OnlyClaims.ring {s t : State} (h : OnlyClaims s t) (p : Port) : t.ring p = s.ring p := by rw [h]; rfl
theorem OnlyClaims.comparator {s t : State} (h : OnlyClaims s t) (k : TripIdx) : t.comparator k = s.comparator k := by
  rw [h]; rfl
theorem OnlyClaims.timebase {s t : State} (h : OnlyClaims s t) : t.timebase = s.timebase := by rw [h]

theorem OnlyMonitors.point {s t : State} (h : OnlyMonitors s t) (i : PointIdx) : t.point i = s.point i := by rw [h]; rfl
theorem OnlyMonitors.slot {s t : State} (h : OnlyMonitors s t) (p : Port) (k : SlotIdx) : t.slot p k = s.slot p k := by
  rw [h]; rfl
theorem OnlyMonitors.attached {s t : State} (h : OnlyMonitors s t) (p : Port) : t.attached p = s.attached p := by
  rw [h]; rfl
theorem OnlyMonitors.port {s t : State} (h : OnlyMonitors s t) (p : Port) : t.port p = s.port p := by rw [h]; rfl
theorem OnlyMonitors.ring {s t : State} (h : OnlyMonitors s t) (p : Port) : t.ring p = s.ring p := by rw [h]; rfl
theorem OnlyMonitors.comparator {s t : State} (h : OnlyMonitors s t) (k : TripIdx) : t.comparator k = s.comparator k := by
  rw [h]; rfl
theorem OnlyMonitors.timebase {s t : State} (h : OnlyMonitors s t) : t.timebase = s.timebase := by rw [h]

/-! ### Claim sets -/

theorem claimantIndex_injective {c d : Claimant} (h : claimantIndex c = claimantIndex d) : c = d := by
  have hv : (claimantIndex c).val = (claimantIndex d).val := congrArg Fin.val h
  cases c <;> cases d <;> simp only [claimantIndex, Fin.val_zero] at hv <;>
    first
    | rfl
    | (congr 1; apply Fin.ext; omega)
    | (exfalso; omega)

theorem claimAsserted_iff (set : ClaimSet) : claimAsserted set = true ↔ ∃ k : Fin 15, set[k] = true := by
  constructor
  · intro h
    obtain ⟨x, hx, rfl⟩ := List.any_eq_true.mp h
    obtain ⟨n, hn, he⟩ := List.getElem_of_mem hx
    have hn' : n < 15 := by simpa using hn
    exact ⟨⟨n, hn'⟩, by simpa using he⟩
  · rintro ⟨k, hk⟩
    refine List.any_eq_true.mpr ⟨true, ?_, rfl⟩
    have : set.toList[k.val]'(by simp) = true := by simpa using hk
    exact this ▸ List.getElem_mem _

theorem claims_setLine (s : State) (l m : LineIdx) (c d : Claimant) (b : Bool) :
    (s.setLine l ((s.line l).set (claimantIndex c) b)).claims m d = if m = l ∧ d = c then b else s.claims m d := by
  unfold State.claims claimHolds
  by_cases hm : m = l
  · subst hm
    by_cases hd : d = c
    · subst hd; simp
    · have hne : (claimantIndex c).val ≠ (claimantIndex d).val :=
        fun h => hd (claimantIndex_injective (Fin.ext h)).symm
      simp [hd, Vector.getElem_set_ne, hne]
  · simp [hm, line_setLine_ne]

theorem addClaim_only (l : LineIdx) (c : Claimant) (s : State) : OnlyClaims s (addClaim l c s) := by
  unfold addClaim
  split
  · rfl
  · dsimp only
    split
    · rfl
    · exact OnlyClaims.trans (t := s.setLine l ((s.line l).set (claimantIndex c) true)) rfl
        (formEventForAll_only ..).onlyClaims

theorem removeClaim_only (l : LineIdx) (c : Claimant) (s : State) : OnlyClaims s (removeClaim l c s) := by
  unfold removeClaim
  split
  · dsimp only
    split
    · rfl
    · exact OnlyClaims.trans (t := s.setLine l ((s.line l).set (claimantIndex c) false)) rfl
        (formEventForAll_only ..).onlyClaims
  · rfl

/-- The claim sets after an addition: the claimant stands on the line, and nothing else is different. -/
@[simp] theorem claims_addClaim (l m : LineIdx) (c d : Claimant) (s : State) :
    (addClaim l c s).claims m d = (s.claims m d || (decide (m = l) && decide (d = c))) := by
  unfold addClaim
  split
  next h =>
    by_cases hm : m = l ∧ d = c
    · obtain ⟨rfl, rfl⟩ := hm; simp [h]
    · by_cases h1 : m = l <;> simp_all
  next h =>
    dsimp only
    split
    · rw [claims_setLine]; by_cases h1 : m = l <;> by_cases h2 : d = c <;> simp [h1, h2]
    · rw [(formEventForAll_only ..).claims, claims_setLine]
      by_cases h1 : m = l <;> by_cases h2 : d = c <;> simp [h1, h2]

/-- The claim sets after a removal. -/
@[simp] theorem claims_removeClaim (l m : LineIdx) (c d : Claimant) (s : State) :
    (removeClaim l c s).claims m d = (s.claims m d && !(decide (m = l) && decide (d = c))) := by
  unfold removeClaim
  split
  next h =>
    dsimp only
    split
    · rw [claims_setLine]; by_cases h1 : m = l <;> by_cases h2 : d = c <;> simp [h1, h2]
    · rw [(formEventForAll_only ..).claims, claims_setLine]
      by_cases h1 : m = l <;> by_cases h2 : d = c <;> simp [h1, h2]
  next h =>
    by_cases hm : m = l ∧ d = c
    · obtain ⟨rfl, rfl⟩ := hm; simp_all
    · by_cases h1 : m = l <;> simp_all

theorem addClaims_only (mask : LineMask) (c : Claimant) (s : State) : OnlyClaims s (addClaims mask c s) :=
  foldl_rel OnlyClaims _ OnlyClaims.refl (fun _ _ _ => OnlyClaims.trans) (fun s l => addClaim_only l c s) _ _

theorem removeClaims_only (mask : LineMask) (c : Claimant) (s : State) : OnlyClaims s (removeClaims mask c s) :=
  foldl_rel OnlyClaims _ OnlyClaims.refl (fun _ _ _ => OnlyClaims.trans) (fun s l => removeClaim_only l c s) _ _

theorem decide_mem_linesOf (mask : LineMask) (l : LineIdx) : decide (l ∈ linesOf mask) = mask.getLsbD l := by
  cases h : mask.getLsbD l <;> simp only [linesOf, allLines, List.mem_filter, List.mem_finRange, true_and, h] <;> rfl

theorem mem_linesOf (mask : LineMask) (l : LineIdx) : l ∈ linesOf mask ↔ mask.getLsbD l = true := by
  simp [linesOf, allLines, List.mem_filter, List.mem_finRange]

@[simp] theorem claims_addClaims (mask : LineMask) (m : LineIdx) (c d : Claimant) (s : State) :
    (addClaims mask c s).claims m d = (s.claims m d || (decide (d = c) && mask.getLsbD m)) := by
  have key : ∀ (ls : List LineIdx) (s : State), (ls.foldl (fun s l => addClaim l c s) s).claims m d =
      (s.claims m d || (decide (d = c) && decide (m ∈ ls))) := by
    intro ls
    induction ls with
    | nil => simp
    | cons x xs ih =>
      intro s
      rw [List.foldl_cons, ih, claims_addClaim]
      by_cases h1 : m = x <;> by_cases h2 : d = c <;> simp [h1, h2]
  rw [addClaims, key, decide_mem_linesOf]

@[simp] theorem claims_removeClaims (mask : LineMask) (m : LineIdx) (c d : Claimant) (s : State) :
    (removeClaims mask c s).claims m d = (s.claims m d && !(decide (d = c) && mask.getLsbD m)) := by
  have key : ∀ (ls : List LineIdx) (s : State), (ls.foldl (fun s l => removeClaim l c s) s).claims m d =
      (s.claims m d && !(decide (d = c) && decide (m ∈ ls))) := by
    intro ls
    induction ls with
    | nil => simp
    | cons x xs ih =>
      intro s
      rw [List.foldl_cons, ih, claims_removeClaim]
      by_cases h1 : m = x <;> by_cases h2 : d = c <;> simp [h1, h2]
  rw [removeClaims, key, decide_mem_linesOf]

/-! ### Monitors -/

theorem deleteMonitor_only (k : MonitorIdx) (s : State) : OnlyMonitors s (deleteMonitor k s) := by
  unfold deleteMonitor
  split
  · rfl
  · dsimp only
    split
    · exact OnlyMonitors.trans ((addClaim_only ..).trans (removeClaim_only ..)).onlyMonitors rfl
    · rfl

theorem monitor_deleteMonitor (k j : MonitorIdx) (s : State) :
    (deleteMonitor k s).monitor j = if j = k then none else s.monitor j := by
  unfold deleteMonitor
  split
  next h => split <;> simp_all
  next m h =>
    dsimp only
    rw [monitor_setMonitor_eq]
    split
    · rfl
    · split
      · rw [(removeClaim_only ..).monitor, (addClaim_only ..).monitor]
      · rfl

theorem deleteMonitorsOn_only (p : Port) (i : PointIdx) (s : State) : OnlyMonitors s (deleteMonitorsOn p i s) := by
  refine foldl_rel OnlyMonitors _ OnlyMonitors.refl (fun _ _ _ => OnlyMonitors.trans) (fun s k => ?_) _ _
  split
  · split
    · exact deleteMonitor_only k s
    · rfl
  · rfl

/-- Of the monitors, exactly those that `p` created on point `i` are gone. -/
theorem monitor_deleteMonitorsOn (p : Port) (i : PointIdx) (s : State) (j : MonitorIdx) :
    (deleteMonitorsOn p i s).monitor j = (s.monitor j).filter (fun m => !(m.creator == p && m.point == i)) := by
  have key : ∀ (ks : List MonitorIdx) (s : State), (ks.foldl (fun s k =>
      match s.monitor k with
      | some m => if m.creator = p ∧ m.point = i then deleteMonitor k s else s
      | none => s) s).monitor j =
      if j ∈ ks then (s.monitor j).filter (fun m => !(m.creator == p && m.point == i)) else s.monitor j := by
    intro ks
    induction ks with
    | nil => simp
    | cons x xs ih =>
      intro s
      rw [List.foldl_cons, ih]
      by_cases hx : j = x
      · subst hx
        cases hm : s.monitor j with
        | none => simp [hm]
        | some m =>
          by_cases hc : m.creator = p ∧ m.point = i
          · simp [hc, monitor_deleteMonitor, Option.filter]
          · have hb : (m.creator == p && m.point == i) = false := by
              simpa [Bool.and_eq_false_iff, ← not_and_or] using hc
            simp [hc, hm, Option.filter, hb]
      · have hs : ∀ t : State, t.monitor j = s.monitor j →
            (if j ∈ xs then (t.monitor j).filter (fun m => !(m.creator == p && m.point == i)) else t.monitor j) =
            if j ∈ x :: xs then (s.monitor j).filter (fun m => !(m.creator == p && m.point == i)) else s.monitor j := by
          intro t ht; simp [ht, hx]
        apply hs
        cases hm : s.monitor x with
        | none => rfl
        | some m =>
          dsimp only
          split
          · rw [monitor_deleteMonitor, if_neg hx]
          · rfl
  exact (key allMonitors s).trans (if_pos (List.mem_finRange j))

/-! ### Rings -/

theorem deliverRecord_ring (p q : Port) (x : Record) (s : State) :
    (deliverRecord p x s).ring q = if q = p ∧ s.attached p = true then ringArrive (s.ring q) x else s.ring q := by
  unfold deliverRecord State.modRing
  by_cases ha : s.attached p = true
  · by_cases hq : q = p
    · subst hq; simp [ha]
    · simp [ha, hq, ring_setRing_ne]
  · simp [ha]

theorem deliverRecord_only (p : Port) (x : Record) (s : State) :
    deliverRecord p x s = { s with rings := (deliverRecord p x s).rings } := by
  unfold deliverRecord; split <;> rfl

/-! ### Requests and commands -/

/-- Each CODE of R199 names its request. -/
@[simp] theorem requestOf_requestCode (r : Request) : requestOf (requestCode r) = some r := by cases r <;> rfl

/-- The outcome of a command that is a next state whatever RST_N. -/
theorem whenReleased_next (f : State → State) (s : State) :
    whenReleased f s = .next (if s.resetLow then s else f s) := by
  unfold whenReleased; split <;> simp_all

/-- A good frame that is taken in READY and is not cached is answered by the checks or its owner. -/
theorem frameRow_executes {p : Port} {tag code : Byte} {body : List Byte} {s : State} (released : s.resetLow = false)
    (completes : frameCanComplete p tag code body s = true) (ready : (s.port p).request = .ready)
    (fresh : cacheHit (s.port p) tag (crc16 (requestCovered tag code body)) = none) :
    frameRow p tag code body s =
      let x := answerRequest p code body
        ((receiverHunts p s).modPort p (fun h => { h with request := .executing, supervision := none }))
      .next (x.1.modPort p (fun h =>
        { h with
          cache := some { tag, crc := crc16 (requestCovered tag code body), response := responseFrame tag code x.2 }
          sending := some (transmission (responseFrame tag code x.2)) })) := by
  have hr : ((receiverHunts p s).port p).request = .ready := by simpa [receiverHunts, State.modPort] using ready
  have hf : cacheHit ((receiverHunts p s).port p) tag (crc16 (requestCovered tag code body)) = none := by
    simpa [receiverHunts, State.modPort, cacheHit] using fresh
  simp only [frameRow, whenReleased, released, completes, goodFrame, hr, executeFrame, hf, if_true, Bool.false_eq_true,
    if_false]

/-- The common checks passed: the owner answers. -/
theorem answerRequest_serves {p : Port} {body : List Byte} {s : State} (r : Request)
    (session : s.attached p = true ∨ servedDetached r = true) (length : body.length = requestLength r) :
    answerRequest p (requestCode r) body s = serve r p body s := by
  have h : sessionRefuses p (some r) s = false := by
    rcases session with h | h <;> simp [sessionRefuses, h]
  simp [answerRequest, h, length]

end Sys2Proof.Machine
end

