-- ==== Sys2Proof/Laws/Frames.lean ====
section
/-!
SUPPORT. Which fields of State the larger shared operations can change, said once for each: the scheduler, triggers, the
removal of a subscription, the result path, session start and end, the link and the clock.  A lemma `<operation>_only`
gives the frame; with `rw` it yields that every other field is as before.
-/

namespace Sys2Proof.Machine

/-! ### The scheduler -/

/-- `t` is `s` but for what the scheduler moves: points, jobs, waiting places, the burst, the conversion and the grant
counters. -/
def OnlyScheduling (s t : State) : Prop :=
  t = { s with points := t.points, jobs := t.jobs, urgentQueue := t.urgentQueue, fifos := t.fifos,
               suspended := t.suspended, converter := t.converter, conversion := t.conversion, lastGain := t.lastGain,
               wheelPosition := t.wheelPosition, urgentGrants := t.urgentGrants, wheelGrants := t.wheelGrants }

theorem OnlyScheduling.refl (s : State) : OnlyScheduling s s := rfl

theorem OnlyScheduling.trans {s t u : State} (h : OnlyScheduling s t) (k : OnlyScheduling t u) : OnlyScheduling s u := by
  unfold OnlyScheduling at *; rw [k]; rw [h]

theorem OnlyScheduling.monitor {s t : State} (h : OnlyScheduling s t) (k : MonitorIdx) : t.monitor k = s.monitor k := by
  rw [h]; rfl
theorem OnlyScheduling.line {s t : State} (h : OnlyScheduling s t) (l : LineIdx) : t.line l = s.line l := by rw [h]; rfl
theorem OnlyScheduling.queue {s t : State} (h : OnlyScheduling s t) (p : Port) : t.queue p = s.queue p := by rw [h]; rfl
theorem OnlyScheduling.ring {s t : State} (h : OnlyScheduling s t) (p : Port) : t.ring p = s.ring p := by rw [h]; rfl
theorem OnlyScheduling.port {s t : State} (h : OnlyScheduling s t) (p : Port) : t.port p = s.port p := by rw [h]; rfl
theorem OnlyScheduling.attached {s t : State} (h : OnlyScheduling s t) (p : Port) : t.attached p = s.attached p := by
  rw [h]; rfl
theorem OnlyScheduling.slot {s t : State} (h : OnlyScheduling s t) (p : Port) (k : SlotIdx) : t.slot p k = s.slot p k := by
  rw [h]; rfl
theorem OnlyScheduling.comparator {s t : State} (h : OnlyScheduling s t) (k : TripIdx) :
    t.comparator k = s.comparator k := by rw [h]; rfl
theorem OnlyScheduling.trimEntry {s t : State} (h : OnlyScheduling s t) (g : Gain) : t.trimEntry g = s.trimEntry g := by
  rw [h]; rfl

theorem beginConversionOf_only (subject : Subject) (s : State) :
    beginConversionOf subject s =
      { s with conversion := (beginConversionOf subject s).conversion, lastGain := (beginConversionOf subject s).lastGain } := by
  cases subject <;> rfl

theorem subjectStarts_only (subject : Subject) (s : State) :
    subjectStarts subject s =
      { s with points := (subjectStarts subject s).points, jobs := (subjectStarts subject s).jobs } := by
  cases subject <;> rfl

theorem startBurst_only (subject : Subject) (c : BurstClass) (s : State) : OnlyScheduling s (startBurst subject c s) := by
  cases subject <;> rfl

theorem grantUrgent_only (i : PointIdx) (rest : List PointIdx) (s : State) :
    OnlyScheduling s (grantUrgent i rest s) := by
  unfold grantUrgent
  dsimp only
  split
  · exact OnlyScheduling.trans (t := countUrgentGrant _ { s with urgentQueue := rest }) rfl (startBurst_only ..)
  · exact OnlyScheduling.trans (t := { s with urgentQueue := rest }) rfl (startBurst_only ..)

theorem grantPending_only (p : Port) (s : State) : OnlyScheduling s (grantPending p s) := by
  unfold grantPending
  split
  · exact OnlyScheduling.trans (t := countWheelGrant p (s.setFifo p _)) rfl (startBurst_only ..)
  · rfl

theorem resumeBurst_only (b : Burst) (s : State) : OnlyScheduling s (resumeBurst b s) := by
  obtain ⟨subject, c, n⟩ := b
  cases subject <;> rfl

theorem grantDecision_only (s : State) : OnlyScheduling s (grantDecision s) := by
  unfold grantDecision
  split
  · exact grantUrgent_only ..
  · split
    · exact resumeBurst_only ..
    · split
      · exact OnlyScheduling.trans (t := { s with wheelPosition := _ }) rfl (grantPending_only ..)
      · split
        · exact grantPending_only ..
        · rfl

theorem takeDecision_only (s : State) : OnlyScheduling { s with decisionDue := false } (takeDecision s) :=
  grantDecision_only _

/-- No decision is due after one that is taken. -/
@[simp] theorem decisionDue_takeDecision (s : State) : (takeDecision s).decisionDue = false := by
  have h := takeDecision_only s
  unfold OnlyScheduling at h
  rw [h]

/-- An enqueue that finds a burst in the converter starts no decision. -/
theorem decideIfIdle_waits {s : State} (h : s.converter ≠ none) : decideIfIdle s = s := by
  simp [decideIfIdle, Option.isNone_iff_eq_none, h]

/-- An enqueue that finds the converter IDLE starts one. -/
theorem decideIfIdle_decides {s : State} (h : s.converter = none) : decideIfIdle s = takeDecision s := by
  simp [decideIfIdle, h]

/-- `t` is `s` but for what an enqueue and the decision it may bring can change: the scheduler, and whether one is due. -/
def OnlyTrigger (s t : State) : Prop := OnlyScheduling { s with decisionDue := t.decisionDue } t

theorem OnlyTrigger.trans {s t u : State} (h : OnlyTrigger s t) (k : OnlyTrigger t u) : OnlyTrigger s u := by
  unfold OnlyTrigger OnlyScheduling at *; rw [k]; rw [h]

theorem decideIfIdle_only (s : State) : OnlyTrigger s (decideIfIdle s) := by
  unfold OnlyTrigger decideIfIdle; split
  · rw [decisionDue_takeDecision]; exact takeDecision_only s
  · rfl

theorem suspendBurst_only (b : Burst) (s : State) : OnlyScheduling s (suspendBurst b s) := by
  obtain ⟨subject, c, n⟩ := b
  unfold suspendBurst
  cases subject
  · exact OnlyScheduling.trans (t := { s.modPoint _ _ with suspended := _ }) rfl (grantDecision_only _)
  · exact OnlyScheduling.trans (t := { s.setJob _ _ with suspended := _ }) rfl (grantDecision_only _)

/-! ### Triggers -/

theorem enqueueDue_only (i : PointIdx) (s : State) :
    enqueueDue i s = { s with urgentQueue := (enqueueDue i s).urgentQueue, fifos := (enqueueDue i s).fifos } := by
  unfold enqueueDue
  split
  · rfl
  · split <;> rfl

theorem becomeDue_only (i : PointIdx) (s : State) : OnlyTrigger s (becomeDue i s) := by
  unfold becomeDue
  refine OnlyTrigger.trans ?_ (decideIfIdle_only _)
  unfold OnlyTrigger OnlyScheduling; rw [enqueueDue_only]; rfl

theorem triggerPoint_only (i : PointIdx) (s : State) : OnlyTrigger s (triggerPoint i s) := by
  unfold triggerPoint
  split
  · unfold takeTrigger
    split
    · exact becomeDue_only i s
    · rfl
  all_goals rfl

/-- A trigger at point `i` that starts no grant decision changes no other point. -/
theorem point_triggerPoint_ne (i j : PointIdx) (s : State) (waits : s.converter ≠ none)
    (h : j ≠ i) :
    (triggerPoint i s).point j = s.point j := by
  unfold triggerPoint
  split
  · unfold takeTrigger becomeDue
    split
    · rw [decideIfIdle_waits (by rw [enqueueDue_only]; exact waits), enqueueDue_only]
      exact point_setPoint_ne _ _ _ _ h
    · exact point_setPoint_ne _ _ _ _ h
  all_goals first
    | exact point_setPoint_ne _ _ _ _ h
    | rfl

/-! ### The removal of a subscription -/

/-- `t` is `s` but for what leaving points can change: points, slots, waiting places, monitors, claim sets and events. -/
def OnlyDeparture (s t : State) : Prop :=
  t = { s with points := t.points, subs := t.subs, urgentQueue := t.urgentQueue, fifos := t.fifos,
               suspended := t.suspended, monitors := t.monitors, lines := t.lines, queues := t.queues }

theorem OnlyDeparture.refl (s : State) : OnlyDeparture s s := rfl

theorem OnlyDeparture.trans {s t u : State} (h : OnlyDeparture s t) (k : OnlyDeparture t u) : OnlyDeparture s u := by
  unfold OnlyDeparture at *; rw [k]; rw [h]

theorem OnlyMonitors.onlyDeparture {s t : State} (h : OnlyMonitors s t) : OnlyDeparture s t := by
  unfold OnlyMonitors OnlyDeparture at *; rw [h]

theorem OnlyDeparture.port {s t : State} (h : OnlyDeparture s t) (p : Port) : t.port p = s.port p := by rw [h]; rfl
theorem OnlyDeparture.ring {s t : State} (h : OnlyDeparture s t) (p : Port) : t.ring p = s.ring p := by rw [h]; rfl
theorem OnlyDeparture.attached {s t : State} (h : OnlyDeparture s t) (p : Port) : t.attached p = s.attached p := by
  rw [h]; rfl
theorem OnlyDeparture.job {s t : State} (h : OnlyDeparture s t) (g : Gain) : t.job g = s.job g := by rw [h]; rfl
theorem OnlyDeparture.comparator {s t : State} (h : OnlyDeparture s t) (k : TripIdx) :
    t.comparator k = s.comparator k := by rw [h]; rfl
theorem OnlyDeparture.timebase {s t : State} (h : OnlyDeparture s t) : t.timebase = s.timebase := by rw [h]

theorem leaveList_only (p : Port) (i : PointIdx) (s : State) : OnlyDeparture s (leaveList p i s) := by
  unfold leaveList
  dsimp only
  split
  · unfold listEmptied freePoint retirePoint dequeueDue
    split
    any_goals rfl
    split <;> rfl
  · split
    · unfold handover
      split <;> rfl
    · rfl

theorem removeSubscription_only (p : Port) (k : SlotIdx) (s : State) : OnlyDeparture s (removeSubscription p k s) := by
  unfold removeSubscription
  split
  · rfl
  · refine OnlyDeparture.trans (OnlyDeparture.trans (t := s.setSlot p k none) rfl ?_) (leaveList_only ..)
    exact (deleteMonitorsOn_only ..).onlyDeparture

theorem removeSubscriptions_only (p : Port) (s : State) : OnlyDeparture s (removeSubscriptions p s) :=
  foldl_rel OnlyDeparture _ OnlyDeparture.refl (fun _ _ _ => OnlyDeparture.trans) (fun s k => removeSubscription_only p k s) _ _

/-! ### The result path -/

/-- `t` is `s` but for what a finalize can change before its grant decision. -/
def OnlyFinalize (s t : State) : Prop :=
  t = { s with points := t.points, subs := t.subs, rings := t.rings, queues := t.queues, monitors := t.monitors,
               lines := t.lines }

theorem OnlyFinalize.refl (s : State) : OnlyFinalize s s := rfl

theorem OnlyFinalize.trans {s t u : State} (h : OnlyFinalize s t) (k : OnlyFinalize t u) : OnlyFinalize s u := by
  unfold OnlyFinalize at *; rw [k]; rw [h]

theorem OnlyMonitors.onlyFinalize {s t : State} (h : OnlyMonitors s t) : OnlyFinalize s t := by
  unfold OnlyMonitors OnlyFinalize at *; rw [h]

theorem evaluateMonitor_only (k : MonitorIdx) (m : Monitor) (v : Nat) (s : State) :
    OnlyMonitors s (evaluateMonitor k m v s) := by
  have trips : OnlyMonitors s (monitorTrips k m v s) := by
    unfold monitorTrips
    have first : OnlyMonitors s (formEvent .trip k.val v (monitorAudience m)
        (s.setMonitor k (some { m with state := .out, count := m.qualify, claimHeld := (actionLine m.action).isSome }))) :=
      OnlyMonitors.trans (t := s.setMonitor k _) rfl (formEvent_only ..).onlyClaims.onlyMonitors
    dsimp only
    split
    · exact first.trans (addClaim_only ..).onlyMonitors
    · exact first
  unfold evaluateMonitor
  split
  · split
    · unfold monitorCounts; split
      · exact trips
      · rfl
    · rfl
  · split
    · unfold monitorCounts; split
      · exact trips
      · rfl
    · rfl
  · split
    · unfold monitorRecovers
      dsimp only
      have first : ∀ b, OnlyMonitors s (formEvent .recover k.val v (monitorAudience m)
          (s.setMonitor k (some { m with state := .inside, count := 0, claimHeld := b }))) :=
        fun b => OnlyMonitors.trans (t := s.setMonitor k _) rfl (formEvent_only ..).onlyClaims.onlyMonitors
      split
      · exact (first _).trans (removeClaim_only ..).onlyMonitors
      all_goals exact first _
    · rfl

theorem evaluateMonitors_only (i : PointIdx) (v : Nat) (s : State) : OnlyMonitors s (evaluateMonitors i v s) := by
  refine foldl_rel OnlyMonitors _ OnlyMonitors.refl (fun _ _ _ => OnlyMonitors.trans) (fun s k => ?_) _ _
  split
  · split
    · exact evaluateMonitor_only ..
    · rfl
  · rfl

theorem modSubscription_only (p : Port) (i : PointIdx) (f : Subscription → Subscription) (s : State) :
    modSubscription p i f s = { s with subs := (modSubscription p i f s).subs } := by
  unfold modSubscription; split <;> rfl

theorem transferMissed_only (i : PointIdx) (s : State) : OnlyFinalize s (transferMissed i s) := by
  unfold transferMissed
  refine OnlyFinalize.trans (foldl_rel OnlyFinalize _ OnlyFinalize.refl (fun _ _ _ => OnlyFinalize.trans)
    (fun s p => ?_) _ _) rfl
  unfold OnlyFinalize; rw [modSubscription_only]

theorem offerResult_only (i : PointIdx) (r : Result) (p : Port) (s : State) :
    offerResult i r p s = { s with subs := (offerResult i r p s).subs, rings := (offerResult i r p s).rings } := by
  unfold offerResult
  split
  · rfl
  · split
    · rfl
    · split
      · rfl
      · split
        · rw [deliverRecord_only]; rfl
        · rfl

theorem fanOut_only (i : PointIdx) (r : Result) (s : State) : OnlyFinalize s (fanOut i r s) := by
  refine foldl_rel OnlyFinalize _ OnlyFinalize.refl (fun _ _ _ => OnlyFinalize.trans) (fun s p => ?_) _ _
  unfold OnlyFinalize; rw [offerResult_only]

theorem finalizePoint_only (i : PointIdx) (s : State) : OnlyFinalize s (finalizePoint i s) := by
  have mod : ∀ (f : PointEntry → PointEntry) (t : State), OnlyFinalize t (t.modPoint i f) := fun _ _ => rfl
  unfold finalizePoint
  extract_lets r t u
  exact (((mod _ s).trans (transferMissed_only i _)).trans ((evaluateMonitors_only i r.value16 t).onlyFinalize.trans
    (fanOut_only i r _))).trans (mod _ u)

theorem completeCalibration_only (g : Gain) (s : State) :
    completeCalibration g s = { s with trims := (completeCalibration g s).trims, jobs := (completeCalibration g s).jobs,
                                       queues := (completeCalibration g s).queues } := by
  unfold completeCalibration
  extract_lets trim t
  have h : OnlyQueues (s.setTrimEntry g { state := .valid, trim }) t := formEventForAll_only ..
  rw [h]
  simp only [State.setTrimEntry, State.setJob]

/-- The end of a burst, before its grant decision, changes what a finalize or a calibration completion can change. -/
theorem endBurst_only (subject : Subject) (s : State) :
    endBurst subject s =
      { s with points := (endBurst subject s).points, subs := (endBurst subject s).subs, rings := (endBurst subject s).rings,
               queues := (endBurst subject s).queues, monitors := (endBurst subject s).monitors,
               lines := (endBurst subject s).lines, trims := (endBurst subject s).trims,
               jobs := (endBurst subject s).jobs } := by
  cases subject with
  | point i =>
    have h : OnlyFinalize s (endBurst (.point i) s) := finalizePoint_only i s
    generalize endBurst (.point i) s = t at h ⊢
    rw [h]
  | job g =>
    have h := completeCalibration_only g s
    simp only [endBurst]
    generalize completeCalibration g s = t at h ⊢
    rw [h]

/-- The end of a burst leaves its grant decision due, or takes it: there is no third outcome. -/
theorem burstEnds_cases (subject : Subject) (s : State) :
    burstEnds subject s = leaveDecisionDue (endBurst subject s) ∨
    burstEnds subject s = grantDecision (endBurst subject s) := by
  unfold burstEnds
  cases subject with
  | point i =>
    dsimp only; split
    · exact .inl rfl
    · exact .inr rfl
  | job g => exact .inr rfl

/-- A calibration completion takes its grant decision at once. -/
theorem burstEnds_job (g : Gain) (s : State) : burstEnds (.job g) s = grantDecision (completeCalibration g s) := by
  simp [burstEnds, endBurst]

/-! ### Sessions and comparators -/

theorem teardownPort_only (kind : EventKind) (p : Port) (s : State) :
    teardownPort kind p s = { s with rings := (teardownPort kind p s).rings, queues := (teardownPort kind p s).queues,
                                     ports := (teardownPort kind p s).ports } := by
  unfold teardownPort
  extract_lets t u
  have h : OnlyQueues u (formEventForAll kind p.val (s.port p).sessionId.toNat u) := formEventForAll_only ..
  rw [h]
  simp only [u, t, State.modRing, State.setRing, State.setQueue, State.modPort, State.setPort]

theorem startSession_only (p : Port) (f : AttachFields) (s : State) :
    startSession p f s = { s with rings := (startSession p f s).rings, queues := (startSession p f s).queues,
                                  ports := (startSession p f s).ports } := rfl

theorem removeQueuedJobs_only (p : Port) (s : State) :
    removeQueuedJobs p s = { s with fifos := (removeQueuedJobs p s).fifos, jobs := (removeQueuedJobs p s).jobs } := by
  let R : State → State → Prop := fun s t => t = { s with fifos := t.fifos, jobs := t.jobs }
  refine foldl_rel R _ (fun _ => rfl) (fun s t u h k => by simp only [R] at *; rw [k]; rw [h]) (fun s g => ?_) _ _
  dsimp only [R]
  split <;> rfl

theorem unholdComparators_only (p : Port) (s : State) :
    unholdComparators p s = { s with comparators := (unholdComparators p s).comparators } := by
  let R : State → State → Prop := fun s t => t = { s with comparators := t.comparators }
  refine foldl_rel R _ (fun _ => rfl) (fun s t u h k => by simp only [R] at *; rw [k]; rw [h]) (fun s k => ?_) _ _
  dsimp only [R]
  split <;> rfl

theorem fireComparator_only (k : TripIdx) (s : State) :
    fireComparator k s = { s with comparators := (fireComparator k s).comparators, lines := (fireComparator k s).lines,
                                  queues := (fireComparator k s).queues } := by
  unfold fireComparator
  dsimp only
  unfold State.modComparator State.setComparator
  rw [addClaims_only, formEventForAll_only]

theorem clearComparator_only (k : TripIdx) (s : State) :
    clearComparator k s = { s with comparators := (clearComparator k s).comparators, lines := (clearComparator k s).lines,
                                   queues := (clearComparator k s).queues } := by
  unfold clearComparator
  dsimp only
  unfold State.modComparator State.setComparator
  rw [removeClaims_only, formEventForAll_only]

/-! ### The link -/

/-- `t` is `s` but for port `p`. -/
def OnlyPort (p : Port) (s t : State) : Prop := t = s.setPort p (t.port p)

theorem OnlyPort.refl (p : Port) (s : State) : OnlyPort p s s := (setPort_port s p).symm

theorem modPort_only (p : Port) (f : HostPort → HostPort) (s : State) : OnlyPort p s (s.modPort p f) := by
  unfold OnlyPort State.modPort; rw [port_setPort]

theorem OnlyPort.trans {p : Port} {s t u : State} (h : OnlyPort p s t) (k : OnlyPort p t u) : OnlyPort p s u := by
  unfold OnlyPort at *
  rw [k, h, setPort_setPort, port_setPort]

theorem OnlyPort.other {p q : Port} {s t : State} (h : OnlyPort p s t) (hq : q ≠ p) : t.port q = s.port q := by
  rw [h]; exact port_setPort_ne _ _ _ _ hq

theorem discardFrame_only (p : Port) (s : State) : OnlyPort p s (discardFrame p s) := by
  have h : OnlyPort p s (receiverHunts p s) := modPort_only ..
  exact h.trans (modPort_only p (fun h => { h with framingErrors := satAdd 65535 h.framingErrors 1 }) (receiverHunts p s))

theorem badStartByte_only (p : Port) (run : Bool) (s : State) : OnlyPort p s (badStartByte p run s) := by
  unfold badStartByte
  dsimp only
  split
  · exact modPort_only ..
  · exact OnlyPort.trans (t := s.modPort p _) (modPort_only ..) (modPort_only ..)

theorem busyFrameTaken_only (p : Port) (tag code : Byte) (s : State) : OnlyPort p s (busyFrameTaken p tag code s) := by
  unfold busyFrameTaken
  split
  · exact modPort_only ..
  · exact modPort_only ..

theorem takeByteError_only (p : Port) (s : State) : OnlyPort p s (takeByteError p s) := by
  unfold takeByteError
  split
  · exact badStartByte_only ..
  all_goals exact discardFrame_only ..

theorem malformedFrame_only (p : Port) (cause : FramingCause) (s : State) : OnlyPort p s (malformedFrame p cause s) := by
  unfold malformedFrame
  split
  · exact badStartByte_only ..
  · exact OnlyPort.refl ..
  · exact discardFrame_only ..
  · exact discardFrame_only ..
  · exact OnlyPort.refl ..
  · exact takeByteError_only ..
  · exact discardFrame_only ..

theorem interByteExpires_only (p : Port) (s : State) : OnlyPort p s (interByteExpires p s) := by
  unfold interByteExpires
  split
  · exact OnlyPort.refl ..
  all_goals
    split
    · exact discardFrame_only ..
    · exact OnlyPort.refl ..

theorem afterResponse_only (p : Port) (s : State) : OnlyPort p s (afterResponse p s) := by
  unfold afterResponse
  split <;> exact modPort_only ..

/-! ### The clock -/

theorem tickPoints_only (s : State) : tickPoints s = { s with points := (tickPoints s).points } :=
  let R : State → State → Prop := fun s t => t = { s with points := t.points }
  foldl_rel R _ (fun _ => rfl) (fun s t u h k => by simp only [R] at *; rw [k]; rw [h]) (fun _ _ => rfl) _ _

theorem tickPorts_only (s : State) : tickPorts s = { s with ports := (tickPorts s).ports } :=
  let R : State → State → Prop := fun s t => t = { s with ports := t.ports }
  foldl_rel R _ (fun _ => rfl) (fun s t u h k => by simp only [R] at *; rw [k]; rw [h]) (fun _ _ => rfl) _ _

end Sys2Proof.Machine
end

