-- ==== Sys2Proof/Laws/PerInstr.lean ====
section
/-!
SUPPORT. A family of statements about every command as syntax, one lemma for each constructor: the body of a well-formed
command fits the frame that carries it.
-/

namespace Sys2Proof.Laws.FrameFits

open Sys2Proof.Machine

/-- The LEN byte of the frame that carries a well-formed command counts TAG, CODE and the body, and lies within the 2 to
250 of R196; so the whole frame has at most 254 bytes. -/
def Statement (i : Instr) : Prop :=
  i.wellFormed = true → ∀ body, i.body? = some body →
    (requestLen body).toNat = body.length + 2 ∧ (requestLen body).toNat ≤ 250 ∧
    ∀ tag code, (requestFrame tag code body).length = (requestLen body).toNat + 4

/-- A body that fits has the frame length that its LEN byte says. -/
theorem of_bodyFits {body : List Byte} (h : bodyFits body = true) :
    (requestLen body).toNat = body.length + 2 ∧ (requestLen body).toNat ≤ 250 ∧
      ∀ tag code, (requestFrame tag code body).length = (requestLen body).toNat + 4 := by
  have hl : body.length + 2 ≤ 250 := by simpa [bodyFits, Config.lenTop] using h
  have hn : (requestLen body).toNat = body.length + 2 := by
    simp only [requestLen, byteOf, BitVec.toNat_ofNat]; omega
  refine ⟨hn, by omega, fun tag code => ?_⟩
  simp [requestFrame, requestCovered, crcBytes, bytes16, hn]

/-- A command whose well-formedness says that its body fits. -/
theorem of_fits {i : Instr} (h : i.wellFormed = true → ∀ body, i.body? = some body → bodyFits body = true) :
    Statement i := fun hw body hb => of_bodyFits (h hw body hb)

/-- A command that carries no body. -/
theorem of_noBody {i : Instr} (h : i.body? = none) : Statement i := fun _ body hb => by simp [h] at hb

theorem fullReset : Statement .fullReset :=
  of_noBody rfl

theorem resetRelease (share cdiv baud : StrapCode) (trgLevels : Vector Bool 6) : Statement (.resetRelease share cdiv baud trgLevels) :=
  of_noBody rfl

theorem trgEdge (n : TrgIdx) (edge : Edge) : Statement (.trgEdge n edge) :=
  of_noBody rfl

theorem periodicExpiry (i : PointIdx) : Statement (.periodicExpiry i) :=
  of_noBody rfl

theorem delayExpiry (i : PointIdx) : Statement (.delayExpiry i) :=
  of_noBody rfl

theorem conversionCompletion (level : Level) : Statement (.conversionCompletion level) :=
  of_noBody rfl

theorem tripFiring (k : TripIdx) : Statement (.tripFiring k) :=
  of_noBody rfl

theorem framingError (p : Port) (cause : FramingCause) : Statement (.framingError p cause) :=
  of_noBody rfl

theorem interByteTimeout (p : Port) : Statement (.interByteTimeout p) :=
  of_noBody rfl

theorem busyReply (p : Port) (tag code : Byte) (body : List Byte) : Statement (.busyReply p tag code body) :=
  of_fits (fun hw b hb => by cases hb; exact hw)

theorem responseSent (p : Port) : Statement (.responseSent p) :=
  of_noBody rfl

theorem supervisionExpiry (p : Port) : Statement (.supervisionExpiry p) :=
  of_noBody rfl

theorem attach (p : Port) (tag : Byte) (body : List Byte) : Statement (.attach p tag body) :=
  of_fits (fun hw b hb => by cases hb; exact hw)

theorem detach (p : Port) (tag : Byte) (body : List Byte) : Statement (.detach p tag body) :=
  of_fits (fun hw b hb => by cases hb; exact hw)

theorem ping (p : Port) (tag : Byte) (body : List Byte) : Statement (.ping p tag body) :=
  of_fits (fun hw b hb => by cases hb; exact hw)

theorem partStatus (p : Port) (tag : Byte) (body : List Byte) : Statement (.partStatus p tag body) :=
  of_fits (fun hw b hb => by cases hb; exact hw)

theorem definePoint (p : Port) (tag : Byte) (body : List Byte) : Statement (.definePoint p tag body) :=
  of_fits (fun hw b hb => by cases hb; exact hw)

theorem leavePoint (p : Port) (tag : Byte) (body : List Byte) : Statement (.leavePoint p tag body) :=
  of_fits (fun hw b hb => by cases hb; exact hw)

theorem pauseSubscription (p : Port) (tag : Byte) (body : List Byte) : Statement (.pauseSubscription p tag body) :=
  of_fits (fun hw b hb => by cases hb; exact hw)

theorem resumeSubscription (p : Port) (tag : Byte) (body : List Byte) : Statement (.resumeSubscription p tag body) :=
  of_fits (fun hw b hb => by cases hb; exact hw)

theorem setConditioning (p : Port) (tag : Byte) (body : List Byte) : Statement (.setConditioning p tag body) :=
  of_fits (fun hw b hb => by cases hb; exact hw)

theorem pointStatus (p : Port) (tag : Byte) (body : List Byte) : Statement (.pointStatus p tag body) :=
  of_fits (fun hw b hb => by cases hb; exact hw)

theorem listSubscriptions (p : Port) (tag : Byte) (body : List Byte) : Statement (.listSubscriptions p tag body) :=
  of_fits (fun hw b hb => by cases hb; exact hw)

theorem sampleNow (p : Port) (tag : Byte) (body : List Byte) : Statement (.sampleNow p tag body) :=
  of_fits (fun hw b hb => by cases hb; exact hw)

theorem calibrate (p : Port) (tag : Byte) (body : List Byte) : Statement (.calibrate p tag body) :=
  of_fits (fun hw b hb => by cases hb; exact hw)

theorem trimStatus (p : Port) (tag : Byte) (body : List Byte) : Statement (.trimStatus p tag body) :=
  of_fits (fun hw b hb => by cases hb; exact hw)

theorem readResults (p : Port) (tag : Byte) (body : List Byte) : Statement (.readResults p tag body) :=
  of_fits (fun hw b hb => by cases hb; exact hw)

theorem ackResults (p : Port) (tag : Byte) (body : List Byte) : Statement (.ackResults p tag body) :=
  of_fits (fun hw b hb => by cases hb; exact hw)

theorem readEvents (p : Port) (tag : Byte) (body : List Byte) : Statement (.readEvents p tag body) :=
  of_fits (fun hw b hb => by cases hb; exact hw)

theorem createMonitor (p : Port) (tag : Byte) (body : List Byte) : Statement (.createMonitor p tag body) :=
  of_fits (fun hw b hb => by cases hb; exact hw)

theorem deleteMonitor (p : Port) (tag : Byte) (body : List Byte) : Statement (.deleteMonitor p tag body) :=
  of_fits (fun hw b hb => by cases hb; exact hw)

theorem clearMonitorClaim (p : Port) (tag : Byte) (body : List Byte) : Statement (.clearMonitorClaim p tag body) :=
  of_fits (fun hw b hb => by cases hb; exact hw)

theorem monitorStatus (p : Port) (tag : Byte) (body : List Byte) : Statement (.monitorStatus p tag body) :=
  of_fits (fun hw b hb => by cases hb; exact hw)

theorem claimLine (p : Port) (tag : Byte) (body : List Byte) : Statement (.claimLine p tag body) :=
  of_fits (fun hw b hb => by cases hb; exact hw)

theorem releaseLine (p : Port) (tag : Byte) (body : List Byte) : Statement (.releaseLine p tag body) :=
  of_fits (fun hw b hb => by cases hb; exact hw)

theorem releaseStart (p : Port) (tag : Byte) (body : List Byte) : Statement (.releaseStart p tag body) :=
  of_fits (fun hw b hb => by cases hb; exact hw)

theorem releaseOrphan (p : Port) (tag : Byte) (body : List Byte) : Statement (.releaseOrphan p tag body) :=
  of_fits (fun hw b hb => by cases hb; exact hw)

theorem lineStatus (p : Port) (tag : Byte) (body : List Byte) : Statement (.lineStatus p tag body) :=
  of_fits (fun hw b hb => by cases hb; exact hw)

theorem takeTrip (p : Port) (tag : Byte) (body : List Byte) : Statement (.takeTrip p tag body) :=
  of_fits (fun hw b hb => by cases hb; exact hw)

theorem setTrip (p : Port) (tag : Byte) (body : List Byte) : Statement (.setTrip p tag body) :=
  of_fits (fun hw b hb => by cases hb; exact hw)

theorem giveTrip (p : Port) (tag : Byte) (body : List Byte) : Statement (.giveTrip p tag body) :=
  of_fits (fun hw b hb => by cases hb; exact hw)

theorem clearTrip (p : Port) (tag : Byte) (body : List Byte) : Statement (.clearTrip p tag body) :=
  of_fits (fun hw b hb => by cases hb; exact hw)

theorem tripStatus (p : Port) (tag : Byte) (body : List Byte) : Statement (.tripStatus p tag body) :=
  of_fits (fun hw b hb => by cases hb; exact hw)

theorem unknownRequest (p : Port) (tag code : Byte) (body : List Byte) : Statement (.unknownRequest p tag code body) :=
  of_fits (fun hw b hb => by
    cases hb; simp only [Instr.wellFormed, Bool.and_eq_true] at hw; exact hw.1)

theorem comparatorSample (k : TripIdx) (input : SampledInput) : Statement (.comparatorSample k input) :=
  of_noBody rfl

theorem byteTaken (p : Port) (b : Byte) : Statement (.byteTaken p b) :=
  of_noBody rfl

end Sys2Proof.Laws.FrameFits
end

