-- ==== Sys2Proof/Laws/Pins.lean ====
section
/-!
SUPPORT. What one CLK period does, said once for each of its parts: the entries it leaves, the fields it can change, and
the line of commands that its events join; with the frame of a comparator sample and the bits of a byte on a line.
-/

namespace Sys2Proof.Machine

/-! ### Folds over a table -/

/-- A fold that rewrites each entry of a table once leaves every entry rewritten: `read` reads an entry, `write` rewrites
one, and the entries do not meet. -/
theorem foldl_entries {ι α : Type} [DecidableEq ι] (read : State → ι → α) (f : ι → α → α) (write : State → ι → State)
    (h : ∀ s i j, read (write s i) j = if j = i then f i (read s i) else read s j) (xs : List ι) (hn : xs.Nodup)
    (s : State) (j : ι) :
    read (xs.foldl write s) j = if j ∈ xs then f j (read s j) else read s j := by
  induction xs generalizing s with
  | nil => simp
  | cons x xs ih =>
    have hx : x ∉ xs := (List.nodup_cons.mp hn).1
    rw [List.foldl_cons, ih (List.nodup_cons.mp hn).2, h]
    by_cases hj : j = x
    · subst hj; simp [hx]
    · simp [hj]

theorem point_tickPoints (s : State) (i : PointIdx) : (tickPoints s).point i = pointTick (s.point i) := by
  have h := foldl_entries State.point (fun _ => pointTick) (fun s i => s.modPoint i pointTick)
    (fun s i j => by rw [State.modPoint, point_setPoint_eq]) allPoints (List.nodup_finRange 32) s i
  simpa [tickPoints, allPoints] using h

theorem port_tickPorts (s : State) (p : Port) : (tickPorts s).port p = portTick (s.port p) := by
  have h := foldl_entries State.port (fun _ => portTick) (fun s p => s.modPort p portTick)
    (fun s i j => by rw [State.modPort, port_setPort_eq]) allPorts (List.nodup_finRange 4) s p
  simpa [tickPorts, allPorts] using h

theorem comparator_sampleComparators (s : State) (k : TripIdx) :
    (sampleComparators s).comparator k =
      if firesNow k s then s.comparator k else sampled (outputNow k s) (s.comparator k) := by
  have h := foldl_entries State.comparator (fun k c => if firesNow k s then c else sampled (outputNow k s) c)
    (fun t k => t.modComparator k (fun c => if firesNow k s then c else sampled (outputNow k s) c))
    (fun t i j => by rw [State.modComparator, comparator_setComparator_eq]) allComparators (List.nodup_finRange 2) s k
  simpa [sampleComparators, allComparators] using h

theorem sampleComparators_only (s : State) :
    sampleComparators s = { s with comparators := (sampleComparators s).comparators } :=
  let R : State → State → Prop := fun s t => t = { s with comparators := t.comparators }
  foldl_rel R _ (fun _ => rfl) (fun s t u h k => by simp only [R] at *; rw [k]; rw [h]) (fun _ _ => rfl) _ _

theorem port_clkLinks (s : State) (p : Port) : (clkLinks s).port p = linesClk s.baud s.pins.rxd[p] (s.port p) := by
  have h := foldl_entries State.port (fun p => linesClk s.baud s.pins.rxd[p])
    (fun t p => t.modPort p (linesClk s.baud s.pins.rxd[p]))
    (fun t i j => by rw [State.modPort, port_setPort_eq]) allPorts (List.nodup_finRange 4) s p
  simpa [clkLinks, allPorts] using h

theorem clkLinks_only (s : State) : clkLinks s = { s with ports := (clkLinks s).ports } :=
  let R : State → State → Prop := fun s t => t = { s with ports := t.ports }
  foldl_rel R _ (fun _ => rfl) (fun s t u h k => by simp only [R] at *; rw [k]; rw [h]) (fun _ _ => rfl) _ _

/-! ### One CLK period -/

theorem timebaseTick_only (s : State) :
    timebaseTick s = { s with points := (timebaseTick s).points, ports := (timebaseTick s).ports, clkPhase := 0,
                              timebase := s.timebase + 1 } := by
  unfold timebaseTick
  dsimp only
  rw [tickPorts_only, tickPoints_only]

/-- The fields that the timebase and its timers can change. -/
theorem clkTimebase_only (s : State) :
    clkTimebase s = { s with points := (clkTimebase s).points, ports := (clkTimebase s).ports,
                             clkPhase := (clkTimebase s).clkPhase, timebase := (clkTimebase s).timebase } := by
  unfold clkTimebase
  split
  · rw [timebaseTick_only]
  · rfl

/-- The fields that what is clocked can change. -/
theorem clkAdvance_only (s : State) :
    clkAdvance s =
      { s with
        points := (clkAdvance s).points, ports := (clkAdvance s).ports, comparators := (clkAdvance s).comparators
        clkPhase := (clkTimebase s).clkPhase, timebase := (clkTimebase s).timebase, trgSamples := s.pins.trg
        conversion := s.conversion.map (fun c => conversionClk s.cdiv (clkTimebase s).timebase (presented s c) c) } := by
  unfold clkAdvance
  dsimp only
  rw [clkLinks_only, sampleComparators_only, clkTimebase_only]

/-- With no command waiting, a released part takes the grant decision that is due, or else a CLK period passes. -/
theorem step_noCommand {s : State} (h : s.pending = []) (released : s.resetLow = false) :
    step s = .next (if s.decisionDue then takeDecision s else clkPeriod s) := by
  simp [step, h, withNoCommand, released]

/-! ### The line of commands -/

theorem insertAt_perm (g : List Instr) (line : List Instr) (k : Nat) : (insertAt g line k).Perm (g ++ line) := by
  induction line generalizing k with
  | nil => simp [insertAt]
  | cons x xs ih =>
    cases k with
    | zero => rfl
    | succ k => exact ((ih k).cons x).trans List.perm_middle.symm

theorem group_sublist_insertAt (g line : List Instr) (k : Nat) : g.Sublist (insertAt g line k) := by
  induction line generalizing k with
  | nil => simp [insertAt]
  | cons x xs ih =>
    cases k with
    | zero => exact List.sublist_append_left g (x :: xs)
    | succ k => exact (ih k).cons x

theorem line_sublist_insertAt (g line : List Instr) (k : Nat) : line.Sublist (insertAt g line k) := by
  induction line generalizing k with
  | nil => simp
  | cons x xs ih =>
    cases k with
    | zero => exact List.sublist_append_right g (x :: xs)
    | succ k => exact (ih k).cons_cons x

/-- The line holds exactly the groups and what stood in it, each once. -/
theorem joinGroups_perm (draw j : Nat) (gs : List (List Instr)) (line : List Instr) :
    (joinGroups draw j gs line).Perm (gs.flatten ++ line) := by
  induction gs generalizing j line with
  | nil => rfl
  | cons g gs ih =>
    cases g with
    | nil => simpa [joinGroups] using ih (j + 1) line
    | cons x g =>
      refine (ih (j + 1) _).trans (((insertAt_perm ..).append_left _).trans ?_)
      rw [List.flatten_cons, ← List.append_assoc]
      exact List.perm_append_comm.append_right line

/-- What stood in the line keeps its order. -/
theorem line_sublist_joinGroups (draw j : Nat) (gs : List (List Instr)) (line : List Instr) :
    line.Sublist (joinGroups draw j gs line) := by
  induction gs generalizing j line with
  | nil => simp [joinGroups]
  | cons g gs ih =>
    cases g with
    | nil => simpa [joinGroups] using ih (j + 1) line
    | cons x g => exact (line_sublist_insertAt ..).trans (ih (j + 1) _)

/-- Every group keeps its order. -/
theorem group_sublist_joinGroups (draw j : Nat) (gs : List (List Instr)) (line : List Instr) {g : List Instr}
    (h : g ∈ gs) : g.Sublist (joinGroups draw j gs line) := by
  induction gs generalizing j line with
  | nil => simp at h
  | cons g' gs ih =>
    cases g' with
    | nil =>
      rcases List.mem_cons.mp h with rfl | h
      · simp
      · simpa [joinGroups] using ih (j + 1) line h
    | cons x g' =>
      rcases List.mem_cons.mp h with rfl | h
      · exact (group_sublist_insertAt ..).trans (line_sublist_joinGroups ..)
      · exact ih (j + 1) _ h

/-! ### Comparators, trigger levels, bytes -/

theorem takeSample_only (k : TripIdx) (output : Bool) (s : State) :
    takeSample k output s =
      { s with comparators := (takeSample k output s).comparators, lines := (takeSample k output s).lines,
               queues := (takeSample k output s).queues } := by
  unfold takeSample
  split
  · rw [fireComparator_only]; rfl
  · rfl

/-- A sample that completes no run, or is safe, is counted (R163). -/
theorem takeSample_counts {k : TripIdx} {output : Bool} {s : State} (h : (runCompletes k s && output) = false) :
    takeSample k output s = s.modComparator k (sampled output) := by simp [takeSample, h]

/-- A beyond sample that completes the run fires the comparator (R163, R164). -/
theorem takeSample_fires {k : TripIdx} {s : State} (h : runCompletes k s = true) :
    takeSample k true s = fireComparator k (s.modComparator k (fun c => { c with beyond := true })) := by
  simp [takeSample, h]

theorem acceptLevel_only (n : TrgIdx) (level : Bool) (s : State) :
    acceptLevel n level s = { s with pins := (acceptLevel n level s).pins, trgLevels := s.trgLevels.set n level,
                                     trgSamples := s.trgSamples.set n level } := rfl

/-- The data bits of a byte, put together again, are the byte. -/
theorem byteOfBits_dataBits (b : Byte) : byteOfBits (dataBits b) = b := by
  revert b; decide +kernel

theorem lineBits_length (b : Byte) : (lineBits b).length = Config.byteBits := rfl

end Sys2Proof.Machine
end

