-- ==== Sys2Proof/Laws/Statement.lean ====
section
/-!
SUPPORT. Lemmas about the vocabulary of the statements: what a fresh good frame does (`Arrives`), that the port's own
bookkeeping before the owner acts (`atOwner`) changes nothing but that port, and that the layouts, levels and line steps
that the statements spell out are those of the model.
-/

namespace Sys2Proof.Statement

open Sys2Proof.Machine

/-! ### The state in which the owner acts -/

@[simp] theorem point_atOwner (p : Port) (s : State) (i : PointIdx) : (atOwner p s).point i = s.point i := rfl
@[simp] theorem slots_atOwner (p : Port) (s : State) (q : Port) : (atOwner p s).slots q = s.slots q := rfl
@[simp] theorem slot_atOwner (p : Port) (s : State) (q : Port) (k : SlotIdx) : (atOwner p s).slot q k = s.slot q k := rfl
@[simp] theorem ring_atOwner (p : Port) (s : State) (q : Port) : (atOwner p s).ring q = s.ring q := rfl
@[simp] theorem queue_atOwner (p : Port) (s : State) (q : Port) : (atOwner p s).queue q = s.queue q := rfl
@[simp] theorem monitor_atOwner (p : Port) (s : State) (k : MonitorIdx) : (atOwner p s).monitor k = s.monitor k := rfl
@[simp] theorem line_atOwner (p : Port) (s : State) (l : LineIdx) : (atOwner p s).line l = s.line l := rfl
@[simp] theorem claims_atOwner (p : Port) (s : State) (l : LineIdx) (c : Claimant) :
    (atOwner p s).claims l c = s.claims l c := rfl
@[simp] theorem linesHolding_atOwner (p : Port) (s : State) (c : Claimant) :
    (atOwner p s).linesHolding c = linesWith s c := rfl
@[simp] theorem job_atOwner (p : Port) (s : State) (g : Gain) : (atOwner p s).job g = s.job g := rfl
@[simp] theorem trimEntry_atOwner (p : Port) (s : State) (g : Gain) : (atOwner p s).trimEntry g = s.trimEntry g := rfl
@[simp] theorem fifo_atOwner (p : Port) (s : State) (q : Port) : (atOwner p s).fifo q = s.fifo q := rfl
@[simp] theorem comparator_atOwner (p : Port) (s : State) (k : TripIdx) :
    (atOwner p s).comparator k = s.comparator k := rfl
@[simp] theorem converter_atOwner (p : Port) (s : State) : (atOwner p s).converter = s.converter := rfl
@[simp] theorem timebase_atOwner (p : Port) (s : State) : (atOwner p s).timebase = s.timebase := rfl

@[simp] theorem attached_atOwner (p q : Port) (s : State) : (atOwner p s).attached q = s.attached q := by
  simp only [atOwner, State.attached, State.modPort, port_setPort_eq]
  split <;> simp_all

/-! ### A fresh good frame -/

/-- No cached request has this TAG and CRC, so the cache does not answer. -/
theorem cacheHit_none {h : HostPort} {tag : Byte} {crc : BitVec 16}
    (fresh : ∀ e ∈ h.cache, e.tag = tag → e.crc ≠ crc) : cacheHit h tag crc = none := by
  unfold cacheHit
  split
  · rename_i c hc
    exact if_neg fun both => fresh c (by simp [hc]) both.1 both.2
  · rfl

/-- The receiver returning to HUNTING and the port becoming EXECUTING together are `atOwner`. -/
theorem receiverHunts_executing (p : Port) (s : State) :
    (receiverHunts p s).modPort p (fun h => { h with request := .executing, supervision := none }) = atOwner p s := by
  simp [receiverHunts, State.modPort, atOwner]

/-- A frame that arrives is answered by the common checks and the owner, and its response is sent and cached. -/
theorem frameRow_arrives {p : Port} {tag code : Byte} {body : List Byte} {s : State} (h : Arrives p tag code body s) :
    frameRow p tag code body s =
      .next (answered p tag code body (answerRequest p code body (atOwner p s)).2
        (answerRequest p code body (atOwner p s)).1) := by
  rw [frameRow_executes h.1 h.2.1 h.2.2.1 (cacheHit_none h.2.2.2), receiverHunts_executing]
  rfl

/-- A frame that arrives and passes the common checks is served by its owner. -/
theorem frameRow_serves {p : Port} {tag : Byte} {body : List Byte} {s : State} (r : Request)
    (h : Arrives p tag (requestCode r) body s) (session : s.attached p = true ∨ servedDetached r = true)
    (length : body.length = requestLength r) :
    frameRow p tag (requestCode r) body s =
      .next (answered p tag (requestCode r) body (serve r p body (atOwner p s)).2 (serve r p body (atOwner p s)).1) := by
  rw [frameRow_arrives h, answerRequest_serves r (by rw [attached_atOwner]; exact session) length]

/-! ### Layouts -/

theorem pointStateCode_eq (x : PointState) : pointStateCode x = stateByte x := by cases x <;> rfl

theorem keyBytes_eq (k : Key) : keyBytes k = keyLayout k := by
  rcases k with ⟨c, g, st, o, t, d, u⟩
  cases g <;> cases o <;> rcases t with ⟨i, e, n⟩ | n | _ <;> try cases e
  all_goals rfl

theorem recordBytes_eq (r : Record) : recordBytes r = recordLayout r := by
  rcases r with ⟨p, q, t, v, sc, m, l, a, b, c, d, e⟩
  cases a <;> cases b <;> cases c <;> cases d <;> cases e <;> rfl

theorem eventBytes_eq (e : Event) : eventBytes e = eventLayout e := by
  rcases e with ⟨k, sub, v, t⟩
  cases k <;> rfl

/-! ### Levels and samples -/

theorem amplifiedLevel_eq (c : Channel) (g : Gain) (l : Level) : amplifiedLevel c g l = amplified c g l := by
  unfold amplifiedLevel amplified
  by_cases h16 : c = 16
  · subst h16; rfl
  · by_cases h17 : c = 17
    · subst h17; cases g <;> rfl
    · have h16' : c.val ≠ 16 := fun h => h16 (Fin.ext h)
      have h17' : c.val ≠ 17 := fun h => h17 (Fin.ext h)
      have : c.val < 16 := by omega
      cases g <;> simp [h16, h17, this, gainLevel, gainFactor]

theorem levelCode_eq (l : Level) : levelCode l = codeOf l := by
  unfold levelCode codeOf
  have hd : (0 : Int) < (l.den : Int) + 1 := by omega
  split
  · next h =>
    have : l.num * 4096 / ((l.den : Int) + 1) ≤ 0 :=
      Int.ediv_nonpos_of_nonpos_of_neg (by omega) hd
    rw [Int.toNat_of_nonpos this]
    rfl
  · next h =>
    split
    · next h2 =>
      have : 4095 ≤ l.num * 4096 / ((l.den : Int) + 1) := (Int.le_ediv_iff_mul_le hd).mpr h2
      rw [min_eq_left (by omega)]
      rfl
    · next h2 =>
      have : l.num * 4096 / ((l.den : Int) + 1) < 4095 := (Int.ediv_lt_iff_lt_mul hd).mpr (by omega)
      rw [min_eq_right (by omega)]
      congr 1
      obtain ⟨n, hn⟩ := Int.eq_ofNat_of_zero_le (show 0 ≤ l.num by omega)
      rw [hn]
      norm_cast

theorem beyondThreshold_eq (c : TripConfig) (l : Level) : beyondThreshold c l = isBeyond c l := by
  unfold beyondThreshold isBeyond
  cases c.polarity <;> simp [Int.mul_comm l.num 128]

theorem sampleOutput_eq (k : TripIdx) (c : TripConfig) (l : Level) (near : Bool) :
    sampleOutput k c l near = outputAt k c l near := by
  have h : (nearThreshold k c l = true) ↔ inDoubt k c l = true := by
    simp only [nearThreshold, inDoubt, decide_eq_true_eq, Int.mul_comm l.num 128]
  unfold sampleOutput outputAt
  rw [beyondThreshold_eq]
  by_cases hn : nearThreshold k c l = true
  · simp [hn, h.mp hn]
  · have hd : inDoubt k c l = false := by simpa using fun x => hn (h.mpr x)
    by_cases he : near = isBeyond c l <;> simp [hn, hd, he]

theorem filterSamples_eq (c : TripConfig) : filterSamples c.filter = fireCount c := by
  unfold filterSamples fireCount; cases c.filter <;> rfl

/-! ### The lines -/

theorem baudRate_eq (baud : StrapCode) : baudRate baud = rate baud := by revert baud; decide

theorem bitSampled_eq (baud : StrapCode) (x : LineByte) : bitSampled baud x = middle baud x := by
  simp [bitSampled, halfBitsPast, middle, Config.clkRate, baudRate_eq]

theorem lineClk_eq (baud : StrapCode) (level : Bool) (x : Option LineByte) :
    lineClk baud level x = received baud level x := by
  rcases x with _ | x
  · rfl
  · simp only [lineClk, arrivingClk, received, stopSampled, bitSampled_eq, Config.byteBits, halfBitsPast, Config.clkRate,
      awaitStart, baudRate_eq]
    by_cases h10 : x.bits.length < 10
    · by_cases h9 : x.bits.length = 9 <;> by_cases hm : middle baud x <;> cases level <;> simp [h10, h9, hm]
    · by_cases ht : 20 * 48000000 ≤ 2 * (x.elapsed + 1) * rate baud <;> simp [h10, ht]

theorem allSent_eq (baud : StrapCode) (x : Transmission) :
    allSent baud x = !decide (x.elapsed * rate baud < 10 * x.bytes.length * 48000000) := by
  have h : 2 * (10 * x.bytes.length) * 48000000 ≤ 2 * x.elapsed * rate baud ↔
      ¬x.elapsed * rate baud < 10 * x.bytes.length * 48000000 := by
    rw [Nat.mul_assoc 2 x.elapsed]; omega
  simp only [allSent, halfBitsPast, baudRate_eq, Config.clkRate, Config.byteBits, ← decide_not]
  exact decide_eq_decide.mpr h

theorem sendingClk_eq (baud : StrapCode) (x : Transmission) : sendingClk baud x = transmitted baud x := by
  unfold sendingClk transmitted
  rw [allSent_eq]
  by_cases h : x.elapsed * rate baud < 10 * x.bytes.length * 48000000 <;> simp [h]

end Sys2Proof.Statement
end

