-- ==== Sys2Proof/Laws/Triggers.lean ====
section
/-!
SUPPORT. The command that enqueues a finalized point before the grant decision brings that decision: a decision that is due
never outlives the next command (R53, R88).
-/

namespace Sys2Proof.Machine

/-! ### Enqueues -/

theorem enqueueDue_converter (i : PointIdx) (s : State) : (enqueueDue i s).converter = s.converter := by
  rw [enqueueDue_only]

theorem enqueueDue_decisionDue (i : PointIdx) (s : State) : (enqueueDue i s).decisionDue = s.decisionDue := by
  rw [enqueueDue_only]

/-- An enqueue that finds the converter IDLE leaves no decision due. -/
theorem decisionDue_becomeDue (i : PointIdx) {s : State} (h : s.converter = none) :
    (becomeDue i s).decisionDue = false := by
  unfold becomeDue
  rw [decideIfIdle_decides (by rw [enqueueDue_converter]; exact h), decisionDue_takeDecision]

/-- A trigger makes no decision due. -/
theorem decisionDue_triggerPoint (i : PointIdx) {s : State} (h : s.decisionDue = false) :
    (triggerPoint i s).decisionDue = false := by
  have due : (becomeDue i s).decisionDue = false := by
    unfold becomeDue decideIfIdle
    split
    · exact decisionDue_takeDecision _
    · rw [enqueueDue_decisionDue]; exact h
  unfold triggerPoint
  split
  · unfold takeTrigger
    split
    · exact due
    · exact h
  all_goals exact h

/-- A trigger that enqueues its point at once, with the converter IDLE, leaves no decision due. -/
theorem decisionDue_triggerPoint_enqueues (i : PointIdx) {s : State} (h : s.converter = none)
    (e : enqueuesAtOnce (s.point i) = true) : (triggerPoint i s).decisionDue = false := by
  simp only [enqueuesAtOnce, Bool.and_eq_true, beq_iff_eq] at e
  simp only [triggerPoint, e.1, takeTrigger, e.2, if_true]
  exact decisionDue_becomeDue i h

/-! ### Edges -/

theorem decisionDue_edgeAtPoint (n : TrgIdx) (edge : Edge) (i : PointIdx) {s : State} (h : s.decisionDue = false) :
    (edgeAtPoint n edge i s).decisionDue = false := by
  unfold edgeAtPoint
  split
  · exact h
  · split
    · exact decisionDue_triggerPoint i h
    · exact h

theorem decisionDue_edges (n : TrgIdx) (edge : Edge) (points : List PointIdx) {s : State} (h : s.decisionDue = false) :
    (points.foldl (fun s i => edgeAtPoint n edge i s) s).decisionDue = false := by
  induction points generalizing s with
  | nil => exact h
  | cons i rest ih => exact ih (decisionDue_edgeAtPoint n edge i h)

/-- An edge at a point that it does not enqueue at once changes that entry alone. -/
theorem edgeAtPoint_waits (n : TrgIdx) (edge : Edge) (i : PointIdx) (s : State)
    (h : edgeEnqueues n edge (s.point i) = false) : ∃ e, edgeAtPoint n edge i s = s.setPoint i e := by
  unfold edgeAtPoint
  split
  · exact ⟨s.point i, (setPoint_point s i).symm⟩
  · next divider reaches =>
    split
    · next fires =>
      have armed : enqueuesAtOnce (s.point i) = false := by
        simpa [edgeEnqueues, reaches, fires] using h
      simp only [triggerPoint, takeTrigger, State.modPoint, point_setPoint, loseTrigger, setPoint_setPoint]
      cases hs : (s.point i).state <;> simp only
      case armed =>
        have : (s.point i).key.delay ≠ 0 := by simpa [enqueuesAtOnce, hs] using armed
        simp only [this, if_false]
        exact ⟨_, rfl⟩
      all_goals exact ⟨_, rfl⟩
    · exact ⟨_, rfl⟩

/-- An edge that enqueues a point at once, with the converter IDLE, leaves no decision due. -/
theorem decisionDue_edges_enqueue (n : TrgIdx) (edge : Edge) (points : List PointIdx) {s : State}
    (h : s.converter = none) (e : ∃ i ∈ points, edgeEnqueues n edge (s.point i) = true) :
    (points.foldl (fun s i => edgeAtPoint n edge i s) s).decisionDue = false := by
  induction points generalizing s with
  | nil => obtain ⟨_, m, _⟩ := e; cases m
  | cons x rest ih =>
    cases hx : edgeEnqueues n edge (s.point x) with
    | true =>
      refine decisionDue_edges n edge rest ?_
      have := hx
      simp only [edgeEnqueues, Bool.and_eq_true, beq_iff_eq] at this
      unfold edgeAtPoint
      simp only [this.2, if_true]
      exact decisionDue_triggerPoint_enqueues x h (by simpa [State.modPoint, enqueuesAtOnce] using this.1)
    | false =>
      obtain ⟨v, hv⟩ := edgeAtPoint_waits n edge x s hx
      rw [List.foldl_cons, hv]
      obtain ⟨i, m, hi⟩ := e
      have ne : i ≠ x := fun h => by rw [h, hx] at hi; cases hi
      refine ih (by simpa using h) ⟨i, (List.mem_cons.1 m).resolve_left ne, ?_⟩
      rw [point_setPoint_ne s x i v ne]; exact hi

theorem decisionDue_edgeTaken (n : TrgIdx) (edge : Edge) {s : State} {i : PointIdx} (h : s.converter = none)
    (e : enqueuedFirst s (.trgEdge n edge) = some i) : (edgeTaken n edge s).decisionDue = false := by
  simp only [enqueuedFirst] at e
  unfold edgeTaken
  split at e
  · cases e
  · next moved =>
    rw [if_neg moved]
    have found := List.find?_some e
    exact decisionDue_edges_enqueue n edge allPoints (s := acceptLevel n (levelAfter edge) s) h
      ⟨i, List.mem_of_find?_eq_some e, found⟩

/-! ### Expiries and requests -/

theorem decisionDue_periodicExpires (i : PointIdx) {s : State} (h : s.converter = none)
    (e : expiryEnqueues (s.point i) = true) : (periodicExpires i s).decisionDue = false := by
  unfold expiryEnqueues at e
  unfold periodicExpires
  split at e
  · next period trigger =>
    simp only [Bool.and_eq_true] at e
    have armed : (s.point i).state = .armed := by
      have := e.2; simp only [enqueuesAtOnce, Bool.and_eq_true, beq_iff_eq] at this; exact this.1
    have isLive : live (s.point i) = true := by simp [live, armed]
    simp only [isLive, e.1, Bool.and_self, if_true]
    exact decisionDue_triggerPoint_enqueues i h (by simpa [State.modPoint, enqueuesAtOnce] using e.2)
  all_goals cases e

/-- A SAMPLE NOW that enqueues its point at once, with the converter IDLE, leaves no decision due. -/
theorem decisionDue_executeFrame (p : Port) (tag : Byte) (body : List Byte) {s : State} {i : PointIdx}
    (h : s.converter = none) (e : sampleEnqueues p tag body s = some i) :
    (executeFrame p tag (requestCode .sampleNow) body s).decisionDue = false := by
  unfold sampleEnqueues at e
  split at e
  · next passes =>
    simp only [Bool.and_eq_true, executesFrame, beq_iff_eq, Option.isNone_iff_eq_none] at passes
    obtain ⟨⟨⟨-, fresh⟩, attached⟩, length⟩ := passes
    split at e
    · next j subscribed =>
      split at e
      · next demand =>
        have answered : ∀ t : State, t.converter = none → t.attached p = true → subscribedPoint p body t = .ok j →
            (t.point j).key.trigger = .demand → enqueuesAtOnce (t.point j) = true →
            (answerRequest p (requestCode .sampleNow) body t).1.decisionDue = false := by
          intro t idle at_ sub dem enq
          have code : requestOf (requestCode .sampleNow) = some .sampleNow := by decide
          simp only [answerRequest, sessionRefuses, at_, code, length, serve, serveSampleNow, sub, dem, if_true,
            Bool.not_true, Bool.false_and, Bool.false_eq_true, if_false]
          exact decisionDue_triggerPoint_enqueues j idle enq
        simp only [executeFrame, fresh]
        exact answered _ h (by simpa [State.modPort, State.attached, State.port, State.setPort] using attached) subscribed demand.1 demand.2
      · cases e
    · cases e
  · cases e

theorem sampleEnqueues_receiverHunts (p : Port) (tag : Byte) (body : List Byte) (s : State) :
    sampleEnqueues p tag body (receiverHunts p s) = sampleEnqueues p tag body s := by
  simp [sampleEnqueues, executesFrame, cacheHit, receiverHunts, State.modPort, State.attached, State.port, State.setPort]
  rfl

theorem sampleEnqueues_ready {p : Port} {tag : Byte} {body : List Byte} {s : State} {i : PointIdx}
    (e : sampleEnqueues p tag body s = some i) : (s.port p).request = .ready := by
  unfold sampleEnqueues at e
  split at e
  · next passes =>
    simp only [Bool.and_eq_true, executesFrame, beq_iff_eq] at passes
    exact passes.1.1.1
  · cases e

theorem decisionDue_goodFrame (p : Port) (tag : Byte) (body : List Byte) {s : State} {i : PointIdx}
    (h : s.converter = none) (e : sampleEnqueues p tag body s = some i) :
    (goodFrame p tag (requestCode .sampleNow) body s).decisionDue = false := by
  rw [← sampleEnqueues_receiverHunts] at e
  unfold goodFrame
  simp only [sampleEnqueues_ready e]
  exact decisionDue_executeFrame p tag body (s := receiverHunts p s) h e

theorem decisionDue_takeByte (p : Port) (b : Byte) {s : State} {i : PointIdx} (h : s.converter = none)
    (e : byteEnqueues p b s = some i) : (takeByte p b s).decisionDue = false := by
  unfold byteEnqueues at e
  split at e
  · next len tag code body high receiver =>
    split at e
    · next good =>
      simp only [takeByte, receiver, frameComplete, good.2, if_true]
      rw [good.1]
      exact decisionDue_goodFrame p tag body h e
    · cases e
  · cases e

/-! ### The step -/

/-- Whom the next command enqueues does not depend on the converter. -/
theorem nextEnqueued_leaveDecisionDue (s : State) : nextEnqueued (leaveDecisionDue s) = nextEnqueued s := by
  unfold nextEnqueued
  have : enqueuedFirst (leaveDecisionDue s) = enqueuedFirst s := by funext c; cases c <;> rfl
  rw [this]; rfl

/-- A decision is left due only to a command that enqueues the finalized point. -/
theorem nextEnqueued_burstEnds (i : PointIdx) (s : State) (h : decisionWaits i (endBurst (.point i) s) = true) :
    nextEnqueued (burstEnds (.point i) s) = some i := by
  simp only [burstEnds, h, if_true, nextEnqueued_leaveDecisionDue]
  simp only [decisionWaits, Bool.and_eq_true, beq_iff_eq] at h
  exact h.1

/-- A command that enqueues a point first, as a trigger, while the converter is IDLE leaves no decision due. -/
theorem exec_enqueuedFirst (c : Instr) {s : State} {i : PointIdx} (released : s.resetLow = false)
    (h : s.converter = none) (e : enqueuedFirst s c = some i) : ∃ t, exec c s = .next t ∧ t.decisionDue = false := by
  cases c
  case trgEdge n edge =>
    exact ⟨_, by simp [exec, execTrgEdge, whenReleased, released], decisionDue_edgeTaken n edge h e⟩
  case periodicExpiry j =>
    refine ⟨_, by simp [exec, execPeriodicExpiry, whenReleased, released], decisionDue_periodicExpires j h ?_⟩
    simp only [enqueuedFirst] at e
    split at e
    · assumption
    · cases e
  case sampleNow p tag body =>
    simp only [enqueuedFirst] at e
    split at e
    · next completes =>
      exact ⟨_, by simp [exec, execSampleNow, frameRow, whenReleased, released, completes],
        decisionDue_goodFrame p tag body h e⟩
    · cases e
  case byteTaken p b =>
    exact ⟨_, by simp [exec, execByteTaken, whenReleased, released], decisionDue_takeByte p b h e⟩
  all_goals cases e

/-- A decision that is due, which the table laws let stand only while the next command enqueues a point, does not outlive
that command (R53, R88). -/
theorem step_takes_due {s : State} (due : s.decisionDue = true) (laws : Safety.ConverterLaw s) :
    ∃ t, step s = .next t ∧ t.decisionDue = false := by
  obtain ⟨-, -, -, -, waits, -⟩ := laws
  obtain ⟨idle, released, next⟩ := waits due
  obtain ⟨i, hi⟩ := Option.isSome_iff_exists.1 next
  unfold nextEnqueued at hi
  unfold step
  split
  · next c rest line =>
    rw [line] at hi
    exact exec_enqueuedFirst c (s := { s with pending := rest }) released idle hi
  · next line => rw [line] at hi; cases hi

end Sys2Proof.Machine
end

