-- ==== Sys2Proof/Tests/Slice0.lean ====
section
/-!
SUPPORT. Tests.  First the well-formedness smoke test and values worked out in the manual; then a state that keeps every
law and is used as the witness of the statements' hypotheses; then, for each statement with hypotheses, named theorems
`witness_<Statement>…` that show them met, at the boundaries of their ranges; then small tests of the commands.  The
expected values come from the manual's rules and worked examples.
-/

namespace Sys2Proof.Tests

set_option synthInstance.maxHeartbeats 400000
set_option synthInstance.maxSize 2000
set_option Elab.async false

open Sys2Proof Sys2Proof.Machine Sys2Proof.Safety Sys2Proof.Statement

/-! ### Well-formedness (R196, R199) -/

/-- A body of 248 bytes gives LEN 250 and fits; one of 249 bytes does not. -/
theorem test_wellFormed_body : (Instr.definePoint 0 0 (List.replicate 248 0)).wellFormed = true ∧
    (Instr.definePoint 0 0 (List.replicate 249 0)).wellFormed = false ∧
    (Instr.busyReply 0 0 0x03 (List.replicate 249 0)).wellFormed = false := by decide +kernel

/-- UNKNOWN_REQUEST carries a CODE that names no request, and a body that fits. -/
theorem test_wellFormed_unknown : (Instr.unknownRequest 0 0 0x05 []).wellFormed = true ∧
    (Instr.unknownRequest 0 0 0x64 []).wellFormed = false ∧
    (Instr.unknownRequest 0 0 0x05 (List.replicate 249 0)).wellFormed = false := by decide +kernel

/-- A command that carries no body is well formed. -/
theorem test_wellFormed_event : (Instr.byteTaken 3 0xFF).wellFormed = true := by decide

/-! ### Values worked out in the manual -/

/-- R198's parameters are those of the CRC whose check value over "123456789" is 29B1 hex. -/
theorem test_crc_check_value :
    crc16 [0x31, 0x32, 0x33, 0x34, 0x35, 0x36, 0x37, 0x38, 0x39] = 0x29B1 := by decide +kernel

/-- 10_frame_and_record_formats.md, "Example: the encoded record of H2". -/
theorem test_record_bytes :
    recordBytes { point := 5, sequence := 212, timestamp := 1234567, value16 := 15984, scaled := -1189, missed := 0,
                  lost := 0, sat := false, trim := false, clamp := false, resumed := false, first := true } =
      [0x05, 0x10, 0x00, 0xD4, 0x00, 0x12, 0xD6, 0x87, 0x3E, 0x70, 0xFF, 0xFF, 0xFB, 0x5B, 0x00, 0x00] := by
  decide +kernel

/-- 04, "Worked timing": gain 1 to 2, settle code 5: 24 CCLK with the sample instant after 11; then 20 CCLK after 7. -/
theorem test_conversion_time :
    let c : Conversion := { channel := 0, gain := .g2, settle := 5, gainSwitch := true, elapsed := 0, reading := none,
                            held := none }
    conversionTime c = 24 ∧ settleTime c = 11 ∧ conversionTime { c with gainSwitch := false } = 20 := by decide

/-- 03, 3.10: after decision 5 under pattern 1 the position is 4; the scan passes slots 5 and 6 and stops at 7 (H3). -/
theorem test_wheel_scan :
    wheelScan { State.reset with share := 1, wheelPosition := 4, fifos := #v[[], [], [], [.point 7]] } = some 7 := by
  decide +kernel

/-- R51, R54 under pattern 3: no slot names H2, so the wheel scan finds nothing and the idle scan finds H2. -/
theorem test_idle_scan :
    wheelScan { State.reset with share := 3, fifos := #v[[], [], [.point 7], []] } = none ∧
    idleScan { State.reset with share := 3, fifos := #v[[], [], [.point 7], []] } = some 2 := by decide +kernel

/-- R69: REF, half of VREF, reads 2048 at gain 1 and 4095 at gain 4, whatever the pins; ZERO reads a positive offset of
12 codes as 12 and an offset below zero as 0; 08's NOTE: step 7 lies at code 480. -/
theorem test_level_codes :
    levelCode (amplifiedLevel 17 .g1 ⟨0, 0⟩) = 2048 ∧ levelCode (amplifiedLevel 17 .g4 ⟨0, 0⟩) = 4095 ∧
    levelCode (amplifiedLevel 16 .g8 ⟨12, 4095⟩) = 12 ∧ levelCode (amplifiedLevel 16 .g8 ⟨-1, 4095⟩) = 0 ∧
    levelCode (amplifiedLevel 3 .g1 ⟨15, 127⟩) = 480 := by decide +kernel

/-- R162: step 7 has the threshold 15/128; a level on the threshold is not beyond it. -/
theorem test_beyond :
    let c : TripConfig := { input := 0, step := 7, polarity := .above, filter := .f0, mask := 0 }
    beyondThreshold c ⟨15, 127⟩ = false ∧ beyondThreshold c ⟨16, 127⟩ = true ∧
      beyondThreshold { c with polarity := .below } ⟨15, 127⟩ = false ∧
      beyondThreshold { c with polarity := .below } ⟨14, 127⟩ = true := by decide +kernel

/-- R173: A5 hex on a line: start bit low, 1010 0101 from the least significant bit, stop bit high. -/
theorem test_line_bits :
    lineBits 0xA5 = [false, true, false, true, false, false, true, false, true, true] ∧
    byteOfBits (dataBits 0xA5) = 0xA5 := by decide +kernel

/-! ### A state that keeps every law

H0 and H1 are ATTACHED, H2 and H3 are not.  The urgent point P0 holds the converter with one conversion to go, P1 stands
suspended behind it, P2, P3 and P8 and two calibration jobs wait. -/

/-- The state after a command that answers a next state. -/
def after : Host.Outcome State Fault Refusal → State
  | .next t => t
  | .fault _ | .refused _ => State.reset

/-- STATUS and body of the response that port `p` is sending (R197: bytes 4 to the last before the CRC). -/
def said (p : Port) (s : State) : List Byte := ((((s.port p).sending.map (·.bytes)).getD []).drop 4).dropLast.dropLast

/-- A key: settle code `n` tells points apart. -/
def key (n : Fin 16) (trigger : TriggerSpec) (delay : Nat) (urgent : Bool) (oversample : Oversample) : Key :=
  { channel := 3, gain := .g2, settle := n, oversample, trigger, delay, urgent }

/-- A point entry in a state with no counts. -/
def entry (state : PointState) (key : Key) (subscribers : List Port) : PointEntry :=
  { PointEntry.cleared with state, key, subscribers }

/-- A plain subscription to point `i`. -/
def subscription (i : PointIdx) : Subscription :=
  { point := i, state := .active, offset := 0, multiplier := 1, shift := 0, decimation := 1, counter := 0, missed := 0,
    firstPending := true }

/-- The table that holds plain subscriptions to these points in its first slots. -/
def table (points : List PointIdx) : Vector (Option Subscription) 16 :=
  Vector.ofFn (fun k => (points[k.val]?).map subscription)

/-- An ATTACHED, READY port with session id `id` and this supervision interval. -/
def livePort (id : BitVec 8) (interval : Nat) : HostPort :=
  { HostPort.cleared with
    session := .attached, sessionId := id, interval,
    supervision := if interval = 0 then none else some (interval * 10000) }

/-- A released part with H0 and H1 ATTACHED and nothing defined. -/
def twoPorts : State :=
  { State.reset with resetLow := false, ports := #v[livePort 1 1, livePort 7 0, .cleared, .cleared] }

def latchMonitor : Monitor :=
  { creator := 0, point := 5, low := 4000, high := 28000, hysteresis := 1000, qualify := 1, action := .latch 2,
    broadcast := false, state := .inside, count := 0, claimHeld := true }

def followMonitor : Monitor :=
  { creator := 0, point := 0, low := 12000, high := 20000, hysteresis := 500, qualify := 2, action := .follow 1,
    broadcast := true, state := .out, count := 2, claimHeld := true }

def noneMonitor : Monitor :=
  { creator := 1, point := 5, low := 0, high := 0, hysteresis := 0, qualify := 8, action := .none,
    broadcast := false, state := .qualifying, count := 7, claimHeld := false }

/-- A claim set of these claimants. -/
def claimSet (claimants : List Claimant) : ClaimSet :=
  claimants.foldl (fun set c => set.set (claimantIndex c) true) (Vector.replicate 15 false)

def rich : State :=
  { twoPorts with
    timebase := 99
    pins := { Pins.undriven with ain := Pins.undriven.ain.set 4 ⟨16, 127⟩ }
    points := (((((((((((Vector.replicate 32 PointEntry.cleared
      ).set 0 { entry .converting (key 0 .demand 0 true .n2) [0] with accumulator := 1000, done := 1, stamp := some 50 }
      ).set 1 { entry .suspended (key 1 .demand 0 false .n4) [0] with
                  accumulator := 4095, done := 2, stamp := some 40, satSoFar := true, resumedSoFar := true }
      ).set 2 (entry .due (key 2 .demand 0 false .n1) [0, 1])
      ).set 3 (entry .due (key 3 .demand 0 true .n1) [0])
      ).set 4 { entry .delaying (key 4 .demand 1023 false .n1) [0] with delayTimer := some 1 }
      ).set 5 (entry .armed (key 5 .demand 0 false .n1) [0, 1])
      ).set 6 { entry .armed (key 6 (.line 2 .rise 3) 0 false .n1) [1] with divider := 2 }
      ).set 7 { entry .armed (key 7 (.periodic 4) 5 false .n1) [1] with countdown := some 1 }
      ).set 8 (entry .due (key 8 .demand 0 false .n1) [0])
      ).set 9 { entry .armed (key 9 .demand 0 false .n1) [1] with missed := 255 })
    subs := #v[table [0, 1, 2, 3, 4, 5, 8], (table [2, 5, 6, 7, 9]).set 4 (some { subscription 9 with state := .paused }),
               table [], table []]
    urgentQueue := [3]
    fifos := #v[[.point 2, .job .g4, .point 8], [.job .g2], [], []]
    suspended := some { subject := .point 1, burstClass := .background, length := 4 }
    converter := some { subject := .point 0, burstClass := .urgent, length := 2 }
    conversion := some { channel := 3, gain := .g2, settle := 0, gainSwitch := false, elapsed := 3, reading := none,
                          held := none }
    jobs := #v[.idle, { CalibrationJob.idle with state := .queued, requester := some 1 },
               { CalibrationJob.idle with state := .queued, requester := some 0 }, .idle]
    monitors := #v[some followMonitor, some latchMonitor, some noneMonitor, none, none, none, none, none]
    lines := #v[claimSet [.start, .host 2, .trip 1], claimSet [.monitor 0], claimSet [.monitor 1, .host 3], claimSet []]
    comparators := #v[{ Comparator.cleared with
                          config := { input := 4, step := 7, polarity := .above, filter := .f1, mask := 0b1001 }
                          state := .watching, holder := some 0, run := 47, beyond := true },
                      { Comparator.cleared with
                          config := { input := 5, step := 7, polarity := .above, filter := .f0, mask := 1 }
                          state := .fired, claimed := 1 }] }

/-- `rich` with the countdown of P7, the delay timer of P4 and the supervision timer of H0 at 0. -/
def atZero : State :=
  { rich with
    points := (rich.points.set 4 { rich.point 4 with delayTimer := some 0 }).set 7 { rich.point 7 with countdown := some 0 }
    ports := rich.ports.set 0 { rich.port 0 with supervision := some 0 } }

theorem atZero_claims : ClaimLaws atZero := by decide +kernel
theorem atZero_sessions : SessionLaws atZero := by decide +kernel
theorem atZero_tables : TableLaws atZero := by decide +kernel

/-- P0's finalize has left its grant decision to the SAMPLE NOW that is next in line: P1 stands suspended, P2, P3 and P8 and
two jobs wait, and the converter is IDLE. -/
def deciding : State :=
  { rich with
    points := rich.points.set 0 { rich.point 0 with state := .armed, accumulator := 1000, done := 1 }
    converter := none, conversion := none, decisionDue := true, pending := [.sampleNow 0 1 [0]] }

theorem deciding_tables : TableLaws deciding := by decide +kernel

theorem rich_bounds : BoundsLaw rich := by decide +kernel
theorem rich_claims : ClaimLaws rich := by decide +kernel
theorem rich_sessions : SessionLaws rich := by decide +kernel

theorem rich_tables : TableLaws rich := by decide +kernel

/-! ### Witnesses: steps, reset and time -/

theorem witness_ResetIsHeldUntilItsRelease :
    State.reset.resetLow = true ∧ State.reset.claims 3 .start = true ∧ State.reset.pending = [] ∧
    Instr.responseSent 0 ≠ .fullReset ∧ ∀ sh cd bd lv, Instr.responseSent 0 ≠ .resetRelease sh cd bd lv :=
  ⟨rfl, rfl, rfl, by decide, fun _ _ _ _ h => by cases h⟩

/-- The last CLK period before a tick at which a periodic countdown, a delay timer, an inter-byte timer and a supervision
timer reach 0.  TRG2 stands high for the second sample, P0's conversion has one CLK period to go, a byte ends on RXD1, one
is in error on RXD2, and the response of one byte on TXD0 ends (BAUD 3 has 24 CLK periods to a bit). -/
def expiring : State :=
  { rich with
    baud := 3
    clkPhase := 47
    pins := { rich.pins with trg := rich.pins.trg.set 2 true, rxd := rich.pins.rxd.set 2 false }
    trgSamples := rich.trgSamples.set 2 true
    conversion := rich.conversion.map (fun c => { c with elapsed := 29, held := some ⟨1, 3⟩ })
    ports := #v[{ livePort 1 1 with supervision := some 1, sending := some { bytes := [0x5A], elapsed := 239 } },
                { livePort 7 0 with receiver := .length, interByte := some 1,
                                    rxByte := some { elapsed := 227, bits := false :: dataBits 0xA5 } },
                { HostPort.cleared with rxByte := some { elapsed := 227, bits := false :: dataBits 0 } }, .cleared] }

theorem witness_ClkPeriodAdvancesTheClockedParts :
    (let s := { deciding with pending := [] }; s.resetLow = false ∧ s.pending = [] ∧ s.decisionDue = true) ∧
    (expiring.resetLow = false ∧ expiring.pending = [] ∧ expiring.decisionDue = false ∧ expiring.clkPhase ≤ 47) ∧
    ({ expiring with clkPhase := 0 }.clkPhase ≤ 47 ∧ { expiring with clkPhase := 46 }.clkPhase ≠ 47) ∧
    ((expiring.port 1).sending = none ∧ (∃ x ∈ (expiring.port 0).sending, ∃ b ∈ x.bytes[0]?, b = 0x5A ∧
      x.elapsed * rate expiring.baud / 48000000 = 10 * 0 + 9)) :=
  ⟨by decide +kernel, by decide +kernel, by decide +kernel, rfl, _, rfl, _, rfl, rfl, by decide +kernel⟩

/-- Each of the conditions but the output of a comparator, which the free resolution takes part in. -/
theorem witness_ClkPeriodQueuesWhatComesAbout :
    expiring.resetLow = false ∧ expiring.pending = [] ∧ expiring.decisionDue = false ∧ expiring.clkPhase = 47 ∧
    (expiring.point 7).countdown = some 1 ∧ (expiring.point 4).delayTimer = some 1 ∧
    (expiring.port 1).interByte = some 1 ∧ (expiring.port 0).supervision = some 1 ∧
    (expiring.pins.trg[2] = expiring.trgSamples[2] ∧ expiring.pins.trg[2] ≠ expiring.trgLevels[2]) ∧
    expiring.conversion.any (fun c => c.elapsed + 1 == completedAt expiring.cdiv c) = true ∧
    (StopBitNow 1 { elapsed := 227, bits := false :: dataBits 0xA5 } expiring ∧ expiring.pins.rxd[1] = true) ∧
    (StopBitNow 2 { elapsed := 227, bits := false :: dataBits 0 } expiring ∧ expiring.pins.rxd[2] = false) ∧
    (∀ x ∈ (expiring.port 0).sending, x.elapsed * rate expiring.baud < 10 * x.bytes.length * 48000000 ∧
      10 * x.bytes.length * 48000000 ≤ (x.elapsed + 1) * rate expiring.baud) := by decide +kernel

/-! ### Witnesses: the link -/

/-- `rich` with the receiver of port H2 as given. -/
def receiving (r : Receiver) : State :=
  rich.setPort 2 { HostPort.cleared with receiver := r, interByte := if hunting r then none else some 1000 }

/-- The same with the inter-byte timer at 0. -/
def timedOut (r : Receiver) : State := (receiving r).modPort 2 (fun h => { h with interByte := some 0 })

/-- `rich` with H0 sending a response and this BUSY reply waiting. -/
def executing (busy : Option (Byte × Byte)) (detaching : Bool) : State :=
  rich.setPort 0
    { livePort 1 1 with
      request := .executing, supervision := none, sending := some { bytes := [0x5A], elapsed := 240 }, busy, detaching }

/-- A whole frame from HUNTING; the last byte of a frame; UNKNOWN_REQUEST; BUSY_REPLY on an EXECUTING port. -/
theorem witness_BytesOfAFrameAreItsCommand :
    (goodFrameOf (.ping 2 9 []) = some (2, 9, 0x03, []) ∧ (Instr.ping 2 9 []).wellFormed = true ∧
      (receiving (.hunting true)).resetLow = false ∧ ReceiverLaw ((receiving (.hunting true)).port 2) ∧
      frameCanComplete 2 9 0x03 [] (receiving (.hunting true)) = true) ∧
    (let r := Receiver.checking 2 [9, 0x03] ((crcBytes [2, 9, 0x03]).head?);
      ReceiverLaw ((receiving r).port 2) ∧ frameCanComplete 2 9 0x03 [] (receiving r) = true) ∧
    (goodFrameOf (.unknownRequest 2 9 0xFF [1]) = some (2, 9, 0xFF, [1]) ∧
      (Instr.unknownRequest 2 9 0xFF [1]).wellFormed = true ∧
      frameCanComplete 2 9 0xFF [1] (receiving (.collecting 3 [9])) = true ∧
      ReceiverLaw ((receiving (.collecting 3 [9])).port 2)) ∧
    (goodFrameOf (.busyReply 0 9 0x03 []) = some (0, 9, 0x03, []) ∧ (Instr.busyReply 0 9 0x03 []).wellFormed = true ∧
      ReceiverLaw ((executing none false).port 0) ∧ frameCanComplete 0 9 0x03 [] (executing none false) = true ∧
      ((executing none false).port 0).request = .executing) := by decide +kernel

/-- Each receiver state occurs on a released part; a frame of LEN 2 whose CRC bytes disagree. -/
theorem witness_ReceiverTakesBytesAndErrors :
    (receiving (.hunting true)).resetLow = false ∧ ((receiving (.hunting true)).port 2).receiver = .hunting true ∧
    ((receiving .length).port 2).receiver = .length ∧
    ((receiving (.collecting 2 [9])).port 2).receiver = .collecting 2 [9] ∧
    ((receiving (.checking 2 [9, 3] none)).port 2).receiver = .checking 2 [9, 3] none ∧
    ((receiving (.checking 2 [9, 3] (some 0))).port 2).receiver = .checking 2 [9, 3] (some 0) ∧
    ((timedOut .length).port 2).interByte = some 0 ∧ ((receiving .length).port 2).interByte = some 1000 ∧
    crcBytes (2 :: [9, 3]) ≠ [0, 0] := by decide +kernel

/-- R174 at the ends of the LEN range: 2 and 250 are taken, 1 and 251 are framing errors. -/
theorem test_byteTaken_len :
    ((after (exec (.byteTaken 2 250) (receiving .length))).port 2).receiver = .collecting 250 [] ∧
    ((after (exec (.byteTaken 2 2) (receiving .length))).port 2).receiver = .collecting 2 [] ∧
    ((after (exec (.byteTaken 2 251) (receiving .length))).port 2).framingErrors = 1 ∧
    ((after (exec (.byteTaken 2 1) (receiving .length))).port 2).receiver = .hunting false := by decide +kernel

/-- DETACH on a DETACHED port; an unknown CODE on an ATTACHED port; bodies one byte short and one byte long. -/
theorem witness_CommonChecksComeInOrder :
    (requestFrameOf (.detach 2 0 []) = some (2, 0, 0x02, []) ∧ Arrives 2 0 0x02 [] rich ∧ rich.attached 2 = false ∧
      ∀ x ∈ codeTable, x.1 = 0x02 → x.2.2 = false) ∧
    (requestFrameOf (.unknownRequest 0 0 0x65 []) = some (0, 0, 0x65, []) ∧
      (Instr.unknownRequest 0 0 0x65 []).wellFormed = true ∧ Arrives 0 0 0x65 [] rich ∧ rich.attached 0 = true ∧
      ∀ x ∈ codeTable, x.1 ≠ 0x65) ∧
    (Arrives 2 0 0x01 [0, 0] rich ∧ (0x01, 3, true) ∈ codeTable ∧ (Instr.attach 2 0 [0, 0]).wellFormed = true) ∧
    (Arrives 0 0 0x02 [0] rich ∧ (0x02, 0, false) ∈ codeTable ∧ rich.attached 0 = true) := by decide +kernel

/-- `rich` with the answer to a PING of TAG 9 in the cache of H0. -/
def cached : State :=
  rich.setPort 0 { livePort 1 1 with cache := some { tag := 9, crc := crc16 (requestCovered 9 0x03 []), response := [0x5A] } }

theorem witness_DuplicatesAndBusyFramesAreNotExecuted :
    (cached.resetLow = false ∧ frameCanComplete 0 9 0x03 [] cached = true ∧ (cached.port 0).request = .ready ∧
      (cached.port 0).cache.any (fun e => e.tag == 9 && e.crc == crc16 (requestCovered 9 0x03 [])) = true) ∧
    (frameCanComplete 0 9 0x03 [] (executing (some (1, 2)) false) = true ∧
      ((executing (some (1, 2)) false).port 0).request = .executing ∧
      ((executing none false).port 0).request = .executing) := by decide +kernel

theorem witness_EndOfResponse :
    (executing none false).resetLow = false ∧ ((executing none false).port 0).request = .executing ∧
    ((executing none false).port 0).detaching = false ∧ ((executing none false).port 0).busy = none ∧
    ((executing (some (9, 3)) false).port 0).busy = some (9, 3) := by decide +kernel

/-! ### Witnesses: sessions -/

/-- Fields out of range on either side of each range; an ATTACHED port; a DETACHED port at both ends of the watermark. -/
theorem witness_AttachStartsASession :
    Arrives 2 0 0x01 [0, 2, 1] rich ∧ Arrives 2 0 0x01 [0, 0, 0] rich ∧ Arrives 2 0 0x01 [0, 0, 65] rich ∧
    (Arrives 0 0 0x01 [0, 0, 1] rich ∧ rich.attached 0 = true) ∧
    (Arrives 2 0 0x01 [255, 1, 64] rich ∧ Arrives 2 0 0x01 [0, 0, 1] rich ∧ rich.attached 2 = false) := by decide +kernel

/-- H0's monitors hold claims; H1 holds none, and then a HOST claim. -/
theorem witness_DetachTakesItsFirstStage :
    ((Asks 0 0 0x02 [] rich ∧ ∃ k : MonitorIdx, ∃ m ∈ rich.monitor k, m.creator = 0 ∧ m.claimHeld = true) ∧
    (Asks 1 0 0x02 [] rich ∧ (∀ l : LineIdx, rich.claims l (.host 1) = false) ∧
      ∀ k : MonitorIdx, ∀ m ∈ rich.monitor k, m.creator = 1 → m.claimHeld = false) ∧
    (let s := rich.setLine 3 (claimSet [.host 1]); Asks 1 0 0x02 [] s ∧ s.claims 3 (.host 1) = true ∧ ClaimLaws s)) ∧
    TableLaws rich ∧ ClaimLaws rich ∧ TableLaws (rich.setLine 3 (claimSet [.host 1])) :=
  ⟨by decide +kernel, rich_tables, rich_claims, rich_tables⟩

theorem witness_DetachSecondStageAtEndOfResponse :
    (executing none true).resetLow = false ∧ ((executing none true).port 0).request = .executing ∧
    ((executing none true).port 0).detaching = true ∧ ((executing (some (9, 3)) true).port 0).busy = some (9, 3) ∧
    ((executing (some (9, 3)) true).port 0).detaching = true := by decide +kernel

/-- An expired timer; a timer that runs still, a DETACHED port and an EXECUTING one. -/
theorem witness_SupervisionExpiryEndsTheSession :
    (atZero.resetLow = false ∧ atZero.attached 0 = true ∧ (atZero.port 0).request = .ready ∧
      (atZero.port 0).supervision = some 0 ∧ (rich.port 0).supervision = some 10000 ∧ rich.attached 2 = false ∧
      ((executing none false).port 0).request = .executing) ∧ TableLaws atZero ∧ ClaimLaws atZero :=
  ⟨by decide +kernel, atZero_tables, atZero_claims⟩

theorem witness_PingReportsTimeAndSession :
    (Arrives 0 9 0x03 [] rich ∧ (rich.port 0).busy = none ∧ (rich.port 0).detaching = false ∧ rich.attached 0 = true ∧
      (rich.port 0).interval ≠ 0) ∧
    (Arrives 2 9 0x03 [] rich ∧ (rich.port 2).busy = none ∧ (rich.port 2).detaching = false) := by decide +kernel

theorem witness_StatusRequestsChangeNothing :
    Arrives 2 0 0x04 [] rich ∧ Asks 0 0 0x15 [0] rich ∧ Asks 0 0 0x15 [31] rich ∧ Asks 0 0 0x15 [32] rich ∧
    Asks 0 0 0x16 [] rich ∧ Asks 0 0 0x21 [] rich ∧ Asks 0 0 0x43 [] rich ∧ Asks 0 0 0x54 [] rich ∧
    Asks 0 0 0x64 [] rich := by decide +kernel

/-- The hypothesis of EveryResponseFitsAFrame is met by `rich`; its longest answers come from rings of 15 records. -/
theorem witness_EveryResponseFitsAFrame : BoundsLaw rich := rich_bounds

/-! ### Witnesses: points and subscriptions -/

theorem witness_RequestBodiesReadBack :
    KeyInRange (key 15 (.line 5 .both 16) 1023 true .n16) ∧ KeyInRange (key 0 (.line 0 .rise 1) 0 false .n1) ∧
    KeyInRange (key 0 (.periodic 4) 0 false .n1) ∧ KeyInRange (key 0 (.periodic 65535) 0 false .n1) ∧
    KeyInRange (key 0 .demand 0 false .n1) ∧
    ConditioningInRange { offset := 0, multiplier := 0xFFFF, shift := 15, decimation := 256 } ∧
    ConditioningInRange { offset := 0xFFFF, multiplier := 0, shift := 0, decimation := 1 } ∧
    (let f : MonitorFields := { point := 31, low := 0, high := 8190, hysteresis := 4095, qualify := 8,
                                action := .latch 3, broadcast := true };
      f.low ≤ 65535 ∧ f.high ≤ 65535 ∧ f.hysteresis ≤ 4095 ∧ 1 ≤ f.qualify ∧ f.qualify ≤ 8 ∧
        f.low + 2 * f.hysteresis ≤ f.high) ∧
    (let f : ReadResultsFields := { k := 15, ack := none }; 1 ≤ f.k ∧ f.k ≤ 15) := by
  simp [KeyInRange, key]
  decide

/-- A DEFINE POINT body with this key, d = 1, multiplier 1. -/
def defineBody' (k : Key) : List Byte :=
  keyLayout k ++ conditioningLayout { offset := 0, multiplier := 1, shift := 0, decimation := 1 }

/-- A key that no point of `rich` has. -/
def newKey : Key := key 15 (.periodic 4) 1023 false .n16

/-- A channel of 18 is out of range, 17 is not. -/
theorem witness_DefineRefusesFieldsOutOfRange :
    (Asks 0 0 0x10 ((defineBody' newKey).set 0 18) rich ∧ ((defineBody' newKey).set 0 18).length = 20 ∧
      DefineOutOfRange ((defineBody' newKey).set 0 18)) ∧
    (Asks 0 0 0x10 ((defineBody' newKey).set 0 17) rich ∧ ¬DefineOutOfRange ((defineBody' newKey).set 0 17)) := by
  decide +kernel

/-- `rich` with the table of H0 full. -/
def fullTable : State := rich.setSlots 0 (table (List.finRange 16 |>.map (fun k => ⟨k.val, by omega⟩)))

theorem witness_DefineRefusedWithoutASlot :
    Asks 0 0 0x10 (defineBody' newKey) fullTable ∧ (defineBody' newKey).length = 20 ∧
    ¬DefineOutOfRange (defineBody' newKey) ∧ ∀ k : SlotIdx, fullTable.slot 0 k ≠ none := by decide +kernel

/-- H0 subscribes to P5 already; H1 joins P4. -/
theorem witness_DefineJoinsAMatchingPoint :
    (let body := defineBody' (rich.point 5).key;
      Asks 0 0 0x10 body rich ∧ body.length = 20 ∧ (readDefine body).map (·.key) = some (rich.point 5).key ∧
        LowestFree 0 7 rich ∧ (∀ j : PointIdx, Matches (rich.point 5).key (rich.point j) ↔ j = 5) ∧
        0 ∈ (rich.point 5).subscribers) ∧
    (let body := defineBody' (rich.point 4).key;
      Asks 1 0 0x10 body rich ∧ body.length = 20 ∧ (readDefine body).map (·.key) = some (rich.point 4).key ∧
        LowestFree 1 5 rich ∧ (∀ j : PointIdx, Matches (rich.point 4).key (rich.point j) ↔ j = 4) ∧
        1 ∉ (rich.point 4).subscribers) := by decide +kernel

/-- `rich` with the first `n` entries ARMED at this key. -/
def crowded (n : Nat) (k : Key) : State :=
  { rich with points := Vector.ofFn (fun i => if i.val < n then entry .armed k [3] else .cleared) }

/-- 7 and 8 urgent entries; 31 and 32 entries in use. -/
theorem witness_DefineCreatesAPoint :
    (let k := { newKey with urgent := true };
      Asks 0 0 0x10 (defineBody' k) (crowded 8 (key 0 .demand 0 true .n1)) ∧
        8 ≤ (crowded 8 (key 0 .demand 0 true .n1)).urgentInUse ∧
        (crowded 7 (key 0 .demand 0 true .n1)).urgentInUse < 8 ∧
        ((crowded 7 (key 0 .demand 0 true .n1)).point 7).state = .free) ∧
    (let s := crowded 32 (key 0 .demand 0 false .n1);
      Asks 0 0 0x10 (defineBody' newKey) s ∧ (readDefine (defineBody' newKey)).map (·.key) = some newKey ∧
        LowestFree 0 7 s ∧ (∀ j : PointIdx, ¬Matches newKey (s.point j)) ∧ ∀ j : PointIdx, (s.point j).state ≠ .free) ∧
    (let s := crowded 31 (key 0 .demand 0 false .n1);
      Asks 0 0 0x10 (defineBody' newKey) s ∧ (s.point 31).state = .free ∧
        (∀ j : PointIdx, j < 31 → (s.point j).state ≠ .free) ∧ ∀ j : PointIdx, ¬Matches newKey (s.point j)) := by
  decide +kernel

/-- Index 32; the FREE entry P31; P9, of which H0 is no subscriber; a shift of 16, decimations of 0 and 257. -/
theorem witness_SubscriberRequestsAreChecked :
    (∀ c ∈ [(0x11 : Byte), 0x12, 0x13], ∀ i ∈ [(32 : Byte), 31, 9], Asks 0 0 c [i] rich) ∧
    (∀ i ∈ [(32 : Byte), 31, 9],
      SubscriberRequest (.setConditioning 0 0 [i, 0, 0, 0, 0, 15, 1, 0]) 0 0 0x14 [i, 0, 0, 0, 0, 15, 1, 0] ∧
      Asks 0 0 0x14 [i, 0, 0, 0, 0, 15, 1, 0] rich) ∧
    (∀ body ∈ [[(5 : Byte), 0, 0, 0, 0, 16, 1, 0], [5, 0, 0, 0, 0, 15, 0, 0], [5, 0, 0, 0, 0, 15, 1, 1]],
      SubscriberRequest (.setConditioning 0 0 body) 0 0 0x14 body ∧ Asks 0 0 0x14 body rich ∧
        SubscriberOutOfRange 0x14 body) ∧
    SubscriberRequest (.leavePoint 0 0 [32]) 0 0 0x11 [32] ∧ SubscriberOutOfRange 0x11 [32] ∧
    ¬SubscriberOutOfRange 0x11 [31] ∧ ¬SubscriberOutOfRange 0x14 [31, 0, 0, 0, 0, 15, 1, 0] ∧
    at8 [31] 0 = (31 : PointIdx).val ∧
    (rich.point 31).state = .free ∧ (rich.point 9).state = .armed ∧ 0 ∉ (rich.point 9).subscribers := by decide +kernel

/-- The last subscriber of P0 (CONVERTING, with a monitor that holds a claim), P1 (SUSPENDED), P3 (DUE, urgent), P4
(DELAYING) and P8 (DUE); the sponsor of P2 (DUE) and another subscriber of it. -/
theorem witness_LeavePointEndsTheSubscription :
    ((Asks 0 0 0x11 [0] rich ∧ Subscribes 0 0 0 rich) ∧ (Asks 0 0 0x11 [1] rich ∧ Subscribes 0 1 1 rich) ∧
    (Asks 0 0 0x11 [3] rich ∧ Subscribes 0 3 3 rich) ∧ (Asks 0 0 0x11 [4] rich ∧ Subscribes 0 4 4 rich) ∧
    (Asks 0 0 0x11 [8] rich ∧ Subscribes 0 8 6 rich) ∧ (Asks 0 0 0x11 [2] rich ∧ Subscribes 0 2 2 rich) ∧
    (Asks 1 0 0x11 [2] rich ∧ Subscribes 1 2 0 rich)) ∧
    TableLaws rich ∧ ClaimLaws rich :=
  ⟨by decide +kernel, rich_tables, rich_claims⟩

/-- P5 is ACTIVE for H0, P9 is PAUSED for H1. -/
theorem witness_PauseResumeAndConditioningActOnOneSlot :
    (Subscribes 0 5 5 rich ∧ rich.slot 0 5 = some (subscription 5) ∧ Asks 0 0 0x12 [5] rich ∧ Asks 0 0 0x13 [5] rich) ∧
    (Subscribes 1 9 4 rich ∧ (rich.slot 1 4).map (·.state) = some .paused ∧ Asks 1 0 0x13 [9] rich) ∧
    (let c : Conditioning := { offset := 0xFFFF, multiplier := 0x8000, shift := 15, decimation := 256 };
      ConditioningInRange c ∧ Asks 0 0 0x14 (5 :: conditioningLayout c) rich) := by decide +kernel

/-! ### Witnesses: triggers and the scheduler -/

/-- A part with an IDLE converter: P0 ARMED, P1 DELAYING and urgent, P2 and P3 line points on TRG2, P4 PERIODIC, P5
DELAYING with a trigger lost, P6 ARMED with a delay. -/
def idle : State :=
  { twoPorts with
    points := (((((((Vector.replicate 32 PointEntry.cleared
      ).set 0 (entry .armed (key 0 .demand 0 false .n1) [0, 1])
      ).set 1 { entry .delaying (key 1 .demand 1 true .n16) [1] with delayTimer := some 0 }
      ).set 2 { entry .armed (key 2 (.line 2 .both 16) 0 false .n8) [1] with divider := 15 }
      ).set 3 (entry .armed (key 3 (.line 2 .fall 1) 0 true .n1) [0])
      ).set 4 { entry .armed (key 4 (.periodic 65535) 0 false .n1) [0] with countdown := some 0 }
      ).set 5 { entry .delaying (key 5 .demand 1023 false .n1) [1] with delayTimer := some 1, missed := 255 }
      ).set 6 (entry .armed (key 6 .demand 1 false .n1) [1])
    subs := #v[table [0, 3, 4], table [0, 1, 2, 5, 6], table [], table []] }

/-- TRG2 stands high, and its level is accepted. -/
def lifted : State :=
  { idle with
    pins := { idle.pins with trg := idle.pins.trg.set 2 true }
    trgSamples := idle.trgSamples.set 2 true
    trgLevels := idle.trgLevels.set 2 true }

/-- Index 32, a FREE entry, no subscriber, no DEMAND point, an ARMED point, and points in busy states; with the converter
IDLE, a busy point and a delay. -/
theorem witness_SampleNowTriggersADemandPoint :
    (idle.converter = none ∧ Asks 1 0 0x17 [5] idle ∧ goesDue (idle.point 5) = false ∧ Asks 1 0 0x17 [6] idle ∧
      goesDue (idle.point 6) = false ∧ 1 ∈ (idle.point 6).subscribers) ∧
    rich.converter ≠ none ∧ Asks 0 0 0x17 [32] rich ∧ (Asks 0 0 0x17 [31] rich ∧ (rich.point 31).state = .free) ∧
    (Asks 0 0 0x17 [9] rich ∧ 0 ∉ (rich.point 9).subscribers) ∧
    (Asks 1 0 0x17 [6] rich ∧ (rich.point 6).key.trigger ≠ .demand ∧ 1 ∈ (rich.point 6).subscribers) ∧
    (Asks 0 0 0x17 [5] rich ∧ goesDue (rich.point 5) = true ∧ 0 ∈ (rich.point 5).subscribers) ∧
    (Asks 0 0 0x17 [4] rich ∧ (rich.point 4).state = .delaying ∧ 0 ∈ (rich.point 4).subscribers) ∧
    (deciding.converter = none ∧ Asks 0 1 0x17 [0] deciding ∧ goesDue (deciding.point 0) = true) := by
  decide +kernel

/-- The converter BUSY with a point that becomes DUE; IDLE with work for one and for two points, and with none; an edge to
the level accepted already. -/
theorem witness_TriggerEdgeReachesLinePoints :
    ((∀ i : PointIdx, ListLaw (rich.point i)) ∧ rich.converter ≠ none ∧ edgeWork 2 .rising rich = [6] ∧
      rich.trgLevels[2] = false) ∧
    ((∀ i : PointIdx, ListLaw (lifted.point i)) ∧ NothingWaits lifted ∧ edgeWork 2 .falling lifted = [2, 3] ∧
      lifted.trgLevels[2] = true) ∧
    ((∀ i : PointIdx, ListLaw (idle.point i)) ∧ NothingWaits idle ∧ edgeWork 2 .rising idle = [2] ∧
      edgeWork 1 .rising idle = [] ∧ idle.trgLevels = Vector.replicate 6 false) ∧
    ((∀ i : PointIdx, ListLaw (deciding.point i) ∧ PlaceLaw deciding i) ∧ deciding.converter = none ∧
      edgeWork 2 .rising deciding = [6]) := by
  decide +kernel

/-- Expired timers, with the converter BUSY: a delay, and a point that becomes DUE; with it IDLE, a lost trigger; with a
decision due; timers that run still; a point of another kind and state. -/
theorem witness_ExpiriesTriggerAndEnqueue :
    (atZero.resetLow = false ∧ atZero.converter ≠ none ∧ (atZero.point 7).key.trigger = .periodic 4 ∧
      live (atZero.point 7) = true ∧ (atZero.point 7).countdown = some 0 ∧ (atZero.point 4).state = .delaying ∧
      (atZero.point 4).delayTimer = some 0) ∧
    ((rich.point 7).countdown ≠ some 0 ∧ (rich.point 4).delayTimer ≠ some 0 ∧ (rich.point 5).key.trigger = .demand ∧
      (rich.point 5).state ≠ .delaying) ∧
    (let s := { idle with points := idle.points.set 4 { idle.point 4 with state := .suspended, missed := 255 } };
      s.converter = none ∧ (s.point 4).key.trigger = .periodic 65535 ∧ live (s.point 4) = true ∧
      (s.point 4).countdown = some 0 ∧ goesDue (s.point 4) = false) ∧
    (let s := { deciding with points := deciding.points.set 4 (atZero.point 4) };
      s.converter = none ∧ (s.point 4).state = .delaying ∧ (s.point 4).delayTimer = some 0) := by
  decide +kernel

/-- Under pattern 3 the wheel scan finds H1; with H2 alone waiting, the idle scan finds it. -/
theorem witness_GrantDecisionOrder :
    (let s := { idle with share := 3, wheelPosition := 7, fifos := #v[[], [.point 0], [.point 2], []] };
      s.urgentQueue = [] ∧ s.suspended = none ∧ s.fifo (onWheel 3 1) = .point 0 :: [] ∧
      (scanSlots s.wheelPosition).find? (fun k => !(s.fifo (onWheel s.share k)).isEmpty) = some 1) ∧
    (let s := { idle with share := 3, wheelPosition := 7, fifos := #v[[], [], [.point 2], []] };
      (scanSlots s.wheelPosition).find? (fun k => !(s.fifo (onWheel s.share k)).isEmpty) = none ∧
      s.fifo 2 = .point 2 :: []) := by decide +kernel

/-- An urgent point, a point at its periodic expiry, one at SAMPLE NOW; and CALIBRATE with no point defined at all. -/
theorem witness_EnqueueIntoIdleConverterIsGranted :
    (NothingWaits idle ∧ idle.resetLow = false ∧ (idle.point 1).subscribers ≠ [] ∧ (idle.point 1).state = .delaying ∧
      (idle.point 1).delayTimer = some 0) ∧
    ((idle.point 4).subscribers ≠ [] ∧ (idle.point 4).state = .armed ∧ (idle.point 4).key.delay = 0 ∧
      (idle.point 4).key.trigger = .periodic 65535 ∧ (idle.point 4).countdown = some 0) ∧
    ((idle.point 0).subscribers ≠ [] ∧ Asks 1 0 0x17 [0] idle ∧ (idle.point 0).state = .armed ∧
      (idle.point 0).key.trigger = .demand ∧ (idle.point 0).key.delay = 0 ∧ 1 ∈ (idle.point 0).subscribers) ∧
    (NothingWaits twoPorts ∧ Asks 1 0 0x20 [BitVec.ofNat 8 (gainIndex .g8).val] twoPorts ∧
      (twoPorts.job .g8).state = .none) := by decide +kernel

/-- Gain code 4; a QUEUED job; a job in NONE while the converter is BUSY. -/
theorem witness_CalibrateQueuesAJob :
    Asks 0 0 0x20 [4] rich ∧ (Asks 0 0 0x20 [2] rich ∧ (rich.job .g4).state ≠ .none) ∧
    (Asks 0 0 0x20 [3] rich ∧ (rich.job .g8).state = .none ∧ rich.converter ≠ none) ∧
    (Asks 0 0 0x20 [3] idle ∧ (idle.job .g8).state = .none ∧ idle.converter = none) := by decide +kernel

/-! ### Witnesses: conversions -/

/-- The burst of a subject. -/
def burst (subject : Subject) (burstClass : BurstClass) (length : Nat) : Burst := { subject, burstClass, length }

/-- `idle` with P2 (N = 8) converting as a BACKGROUND burst, `done` conversions done. -/
def converting (state : PointState) (done : Nat) (urgentQueue : List PointIdx) : State :=
  { idle with
    points := idle.points.set 2 { idle.point 2 with state := state, done := done }
    converter := some (burst (.point 2) .background 8), urgentQueue }

/-- A RETIRING point; a BACKGROUND burst with urgent work waiting and without; an URGENT burst with urgent work. -/
theorem witness_CompletionFreesSuspendsOrContinues :
    (let s := converting .retiring 0 []; s.resetLow = false ∧ s.converter = some (burst (.point 2) .background 8) ∧
      (s.point 2).state = .retiring) ∧
    (let s := converting .converting 6 [3]; (s.point 2).state ≠ .retiring ∧ (s.point 2).done + 1 ≠ 8 ∧ s.urgentQueue ≠ []) ∧
    (let s := converting .converting 0 []; (s.point 2).done + 1 ≠ 8 ∧ s.urgentQueue = []) ∧
    (let s := rich.setPoint 0 { rich.point 0 with done := 0 }; s.converter = some (burst (.point 0) .urgent 2) ∧
      (s.point 0).state ≠ .retiring ∧ (s.point 0).done + 1 ≠ 2) := by decide +kernel

/-- `idle` with the job of gain 4 RUNNING, requested by H2, who is DETACHED. -/
def calibrating (done sum : Nat) (urgentQueue : List PointIdx) : State :=
  { idle with
    jobs := idle.jobs.set 2 { state := .running, requester := some 2, done, partialSum := sum }
    converter := some (burst (.job .g4) .background 16), urgentQueue }

theorem witness_CalibrationCountsAndCompletes :
    (let s := calibrating 6 70 [3]; s.resetLow = false ∧ s.converter = some (burst (.job .g4) .background 16) ∧
      (s.job .g4).done + 1 ≠ 16 ∧ s.urgentQueue ≠ []) ∧
    (let s := calibrating 14 0 []; (s.job .g4).done + 1 ≠ 16 ∧ s.urgentQueue = []) ∧
    (let s := calibrating 15 172 []; (s.job .g4).done + 1 = 16) := by decide +kernel;

/-- A BACKGROUND point with two subscribers at its only conversion; H0 takes a record of every result, H1 of every
256th.  Nothing else waits, and no monitor watches it. -/
def shared : State :=
  { twoPorts with
    points := (Vector.replicate 32 PointEntry.cleared).set 31
      { entry .converting (key 0 .demand 0 false .n1) [1, 0] with sequence := 0xFFFF, missed := 255 }
    subs := #v[table [31], (table [31]).set 0 (some { subscription 31 with decimation := 256, missed := 255 }), table [],
               table []]
    converter := some (burst (.point 31) .background 1)
    conversion := some { channel := 3, gain := .g2, settle := 0, gainSwitch := true, elapsed := 38, reading := some 7,
                          held := some ⟨1, 3⟩ } }

theorem shared_tables : TableLaws shared := by decide +kernel

theorem shared_laws : SessionLaws shared ∧ ClaimLaws shared := by decide +kernel

theorem witness_FinalizeDeliversRecords :
    ((LastConversion 0 rich ∧ ∃ v, rich.slot 0 0 = some v ∧ v.point = 0) ∧
    (LastConversion 31 shared ∧ (∃ v, shared.slot 0 0 = some v ∧ v.point = 31 ∧ delivers v = true) ∧
      (∃ v, shared.slot 1 0 = some v ∧ v.point = 31 ∧ delivers v = false) ∧ 2 ∉ (shared.point 31).subscribers ∧
      ∀ k : MonitorIdx, ∀ m ∈ shared.monitor k, m.point ≠ 31) ∧
    TableLaws rich ∧ SessionLaws rich ∧ TableLaws shared ∧ SessionLaws shared) :=
  ⟨⟨by decide +kernel, _, rfl, rfl⟩, ⟨by decide +kernel, ⟨_, rfl, rfl, rfl⟩, ⟨_, rfl, rfl, rfl⟩, by decide +kernel,
    by decide +kernel⟩, rich_tables, rich_sessions, shared_tables, shared_laws.1⟩

/-- M0 alone watches P0; with the same conversion for P5, M1 and M2 watch it. -/
theorem witness_MonitorsEvaluateEachResult :
    (LastConversion 0 rich ∧ rich.monitor 0 = some followMonitor ∧ followMonitor.point = 0 ∧
    ∀ j : MonitorIdx, j ≠ 0 → ∀ m ∈ rich.monitor j, m.point ≠ 0) ∧
    TableLaws rich ∧ ClaimLaws rich ∧ SessionLaws rich :=
  ⟨by decide +kernel, rich_tables, rich_claims, rich_sessions⟩

/-- Two FOLLOW monitors of one point on one line, each one result short of OUT. -/
def watched : State :=
  let m := { followMonitor with point := 31, state := .qualifying, count := 1, claimHeld := false }
  { shared with
    lines := Vector.replicate 4 (claimSet [])
    monitors := (Vector.replicate 8 none).set 3 (some m) |>.set 6 (some { m with creator := 1, broadcast := false }) }

theorem watched_tables : TableLaws watched := by decide +kernel

theorem watched_laws : LastConversion 31 watched ∧ SessionLaws watched ∧ ClaimLaws watched := by decide +kernel

/-- R136: the events of two monitors at one finalize: M3 asserts INH1 between its TRIP and that of M6, which goes to H1
alone. -/
theorem test_monitor_order :
    let t := after (exec (.conversionCompletion ⟨0, 0⟩)
      { watched with conversion := watched.conversion.map (fun c => { c with held := some ⟨7, 7⟩ }) })
    (t.queue 1).events.map (fun e => (e.kind, e.subject)) = [(.trip, 3), (.lineAsserted, 1), (.trip, 6)] ∧
    (t.queue 0).events.map (fun e => (e.kind, e.subject)) = [(.trip, 3), (.lineAsserted, 1)] := by decide +kernel

/-! ### Witnesses: rings and event queues -/

def record (n : Nat) : Record :=
  { point := 5, sequence := BitVec.ofNat 16 n, timestamp := 0, value16 := 0, scaled := 0, missed := 0, lost := 0,
    sat := false, trim := false, clamp := false, resumed := false, first := false }

/-- A ring with `w` records in the window and `u` unsent, under token 7. -/
def ring (w u : Nat) (policy : RingPolicy) (pendingLost : Nat) : Ring :=
  { window := (List.range w).map record, unsent := (List.range u).map (fun n => record (w + n)), policy, watermark := 3,
    token := 7, pendingLost, totalLost := pendingLost }

theorem witness_RecordArrivesAtARing :
    (RingBounds (ring 15 48 .keepOldest 255) ∧ ringFill (ring 15 48 .keepOldest 255) < 64) ∧
    (RingBounds (ring 10 54 .keepOldest 255) ∧ ringFill (ring 10 54 .keepOldest 255) = 64) ∧
    (RingBounds (ring 15 49 .keepNewest 0) ∧ ringFill (ring 15 49 .keepNewest 0) = 64) ∧
    (let s := rich.setRing 1 (ring 15 48 .keepOldest 255); s.ring 1 = ring 15 48 .keepOldest 255 ∧ s.attached 1 = true ∧
      s.attached 2 = false) := by decide +kernel

/-- `rich` with this ring at H1. -/
def reading (r : Ring) : State := rich.setRing 1 r

/-- k of 0 and 16, acknowledgement kind 2; no window outstanding; the token of the window; another token. -/
theorem witness_ReadResultsHandlesTheWindow :
    (Asks 1 0 0x30 [0, 0, 0] (reading (ring 0 5 .keepOldest 0)) ∧ Asks 1 0 0x30 [16, 0, 0] (reading (ring 0 5 .keepOldest 0)) ∧
      Asks 1 0 0x30 [1, 2, 0] (reading (ring 0 5 .keepOldest 0))) ∧
    (Asks 1 0 0x30 [15, 1, 7] (reading (ring 0 5 .keepOldest 0)) ∧ ((reading (ring 0 5 .keepOldest 0)).ring 1).window = []) ∧
    (Asks 1 0 0x30 [1, 1, 7] (reading (ring 3 2 .keepOldest 0)) ∧ ((reading (ring 3 2 .keepOldest 0)).ring 1).window ≠ [] ∧
      ((reading (ring 3 2 .keepOldest 0)).ring 1).token = 7) ∧
    Asks 1 0 0x30 [1, 0, 7] (reading (ring 3 2 .keepOldest 0)) := by decide +kernel

theorem witness_AckResultsReleasesTheWindow :
    (Asks 1 0 0x31 [7] (reading (ring 3 2 .keepOldest 0)) ∧ ((reading (ring 3 2 .keepOldest 0)).ring 1).window ≠ []) ∧
    (Asks 1 0 0x31 [8] (reading (ring 3 2 .keepOldest 0)) ∧ Asks 1 0 0x31 [7] (reading (ring 0 2 .keepOldest 0)) ∧
      ((reading (ring 0 2 .keepOldest 0)).ring 1).window = []) := by decide +kernel

theorem witness_ReadEventsTakesTheOldest :
    Asks 0 0 0x32 [0] rich ∧ Asks 0 0 0x32 [17] rich ∧ Asks 0 0 0x32 [1] rich ∧ Asks 0 0 0x32 [16] rich := by decide +kernel

/-! ### Witnesses: monitors -/

/-- A CREATE MONITOR body: point, h = 4095, high = `high`, q = 8, LATCH on INH3. -/
def monitorBody (point : Byte) (high : Nat) : List Byte :=
  point :: (two 0 ++ two high ++ two 4095 ++ [8, 2, 3, 0])

/-- high of 8189 leaves no recovery window, 8190 leaves one; a FREE point; no subscriber; all entries in use; room. -/
theorem witness_CreateMonitorTakesTheLowestEntry :
    (Asks 0 0 0x40 (monitorBody 5 8189) rich ∧ (monitorBody 5 8189).length = 11 ∧ MonitorOutOfRange (monitorBody 5 8189)) ∧
    (Asks 0 0 0x40 (monitorBody 31 8190) rich ∧ (readMonitor (monitorBody 31 8190)).map (·.point) = some 31 ∧
      (rich.point 31).state = .free) ∧
    (Asks 0 0 0x40 (monitorBody 9 8190) rich ∧ (readMonitor (monitorBody 9 8190)).map (·.point) = some 9 ∧
      0 ∉ (rich.point 9).subscribers) ∧
    (Asks 0 0 0x40 (monitorBody 5 8190) rich ∧ (readMonitor (monitorBody 5 8190)).map (·.point) = some 5 ∧
      0 ∈ (rich.point 5).subscribers ∧ rich.monitor 3 = none ∧ ∀ j : MonitorIdx, j < 3 → rich.monitor j ≠ none) ∧
    (let s := { rich with monitors := Vector.replicate 8 (some noneMonitor) };
      Asks 0 0 0x40 (monitorBody 5 8190) s ∧ ∀ k : MonitorIdx, s.monitor k ≠ none) := by decide +kernel

/-- Index 8, a free entry, another port's monitor, a monitor that holds a claim, one that holds none. -/
theorem witness_DeleteMonitorConvertsItsClaim :
    (Asks 0 0 0x41 [8] rich ∧ (Asks 0 0 0x41 [7] rich ∧ rich.monitor 7 = none) ∧
    (Asks 0 0 0x41 [2] rich ∧ rich.monitor 2 = some noneMonitor ∧ noneMonitor.creator ≠ 0) ∧
    (Asks 0 0 0x41 [0] rich ∧ rich.monitor 0 = some followMonitor ∧ heldLine followMonitor = some 1) ∧
    (Asks 1 0 0x41 [2] rich ∧ heldLine noneMonitor = none)) ∧
    ClaimLaws rich :=
  ⟨by decide +kernel, rich_claims⟩

/-- Index 8, a free entry, another port's monitor, an OUT one, a held claim, none held. -/
theorem witness_ClearMonitorClaimReleasesALatch :
    (Asks 0 0 0x42 [8] rich ∧ (Asks 0 0 0x42 [7] rich ∧ rich.monitor 7 = none) ∧
    (Asks 1 0 0x42 [0] rich ∧ followMonitor.creator ≠ 1) ∧ (Asks 0 0 0x42 [0] rich ∧ followMonitor.state = .out) ∧
    (Asks 0 0 0x42 [1] rich ∧ rich.monitor 1 = some latchMonitor ∧ heldLine latchMonitor = some 2) ∧
    (Asks 1 0 0x42 [2] rich ∧ heldLine noneMonitor = none)) ∧
    ClaimLaws rich :=
  ⟨by decide +kernel, rich_claims⟩

/-! ### Witnesses: lines and comparators -/

theorem witness_ClaimLineAddsTheHostClaim : Asks 0 0 0x50 [15] rich ∧ Asks 0 0 0x50 [16] rich := by decide +kernel

/-- Masks of 15 and 16; ports 1 (ATTACHED), 3 (DETACHED, with a claim) and 4. -/
theorem witness_ReleaseRequestsRemoveOneClaimant :
    Asks 0 0 0x51 [15] rich ∧ Asks 0 0 0x51 [16] rich ∧ Asks 0 0 0x52 [15] rich ∧ Asks 0 0 0x52 [16] rich ∧
    (Asks 0 0 0x53 [1, 15] rich ∧ rich.attached 1 = true) ∧
    (Asks 0 0 0x53 [3, 15] rich ∧ rich.attached 3 = false ∧ rich.claims 2 (.host 3) = true) ∧
    Asks 0 0 0x53 [4, 15] rich ∧ Asks 0 0 0x53 [3, 16] rich := by decide +kernel

/-- Index 2; an unheld comparator; one's own; another's. -/
theorem witness_TakeAndGiveTripMoveTheHolder :
    Asks 0 0 0x60 [2] rich ∧ Asks 0 0 0x62 [2] rich ∧ (Asks 0 0 0x60 [1] rich ∧ (rich.comparator 1).holder = none) ∧
    (Asks 0 0 0x60 [0] rich ∧ Asks 0 0 0x62 [0] rich ∧ (rich.comparator 0).holder = some 0) ∧
    (Asks 1 0 0x60 [0] rich ∧ Asks 1 0 0x62 [0] rich) := by decide +kernel

/-- A field out of range; no holder; FIRED; a configuration. -/
theorem witness_SetTripConfiguresTheComparator :
    Asks 0 0 0x61 [0, 16, 63, 1, 3, 15, 1] rich ∧ (Asks 0 0 0x61 [1, 15, 63, 1, 3, 15, 1] rich ∧
      (rich.comparator 1).holder ≠ some 0) ∧
    (let s := rich.setComparator 1 { rich.comparator 1 with holder := some 0 };
      Asks 0 0 0x61 [1, 15, 63, 1, 3, 15, 1] s ∧ (s.comparator 1).state = .fired) ∧
    (Asks 0 0 0x61 [0, 15, 63, 1, 3, 15, 1] rich ∧ (rich.comparator 0).holder = some 0 ∧
      (rich.comparator 0).state ≠ .fired) := by decide +kernel

/-- Index 2; not FIRED; FIRED and beyond; FIRED and safe. -/
theorem witness_ClearTripReleasesTheClaimedLines :
    (Asks 0 0 0x63 [2] rich ∧ (Asks 0 0 0x63 [0] rich ∧ (rich.comparator 0).state ≠ .fired) ∧
    (let s := rich.setComparator 1 { rich.comparator 1 with beyond := true };
      Asks 0 0 0x63 [1] s ∧ (s.comparator 1).state = .fired ∧ (s.comparator 1).beyond = true ∧ ClaimLaws s) ∧
    (Asks 0 0 0x63 [1] rich ∧ (rich.comparator 1).state = .fired ∧ (rich.comparator 1).beyond = false)) ∧
    ClaimLaws rich :=
  ⟨by decide +kernel, rich_claims⟩

/-- FIRED; WATCHING one sample short of the filter's 48, and two short of it; a beyond and a safe input; the pin of T0, which
TRIP_FIRING samples, beyond. -/
theorem witness_ComparatorFiresAfterItsFilter :
    (rich.resetLow = false ∧ (rich.comparator 1).state ≠ .watching ∧
      (rich.comparator 0).state = .watching ∧ (rich.comparator 0).run + 1 = fireCount (rich.comparator 0).config) ∧
    (let s := rich.setComparator 0 { rich.comparator 0 with run := 46 };
      (s.comparator 0).state = .watching ∧ (s.comparator 0).run + 1 ≠ fireCount (s.comparator 0).config) ∧
    outputAt 0 (rich.comparator 0).config ⟨16, 127⟩ true = true ∧
    outputAt 0 (rich.comparator 0).config ⟨15, 127⟩ false = false ∧
    outputAt 0 (rich.comparator 0).config rich.pins.ain[(rich.comparator 0).config.input]
      (true || Config.nearOutput rich.draws 0) = true :=
  ⟨by decide +kernel, by decide +kernel, by unfold outputAt; split <;> decide +kernel,
    by unfold outputAt; split <;> decide +kernel, by unfold outputAt; split <;> decide +kernel⟩

/-! ### Witnesses: invariants and rules of the whole part -/

theorem witness_EveryStepKeepsBounds : BoundsLaw rich ∧ ∃ t, step { rich with clkPhase := 47 } = .next t :=
  ⟨rich_bounds, _, rfl⟩

theorem witness_EveryStepKeepsClaimLaws :
    ClaimLaws rich ∧ ∃ t, step { rich with pending := [.conversionCompletion ⟨1, 0⟩] } = .next t := ⟨rich_claims, _, rfl⟩

theorem witness_EveryStepKeepsSessionLaws :
    SessionLaws atZero ∧ ∃ t, step { atZero with pending := [.supervisionExpiry 0] } = .next t := ⟨atZero_sessions, _, rfl⟩

/-- A command, and the step that takes the decision due. -/
theorem witness_EveryStepKeepsTableLaws :
    (TableLaws rich ∧ SessionLaws rich ∧ ∃ t, step { rich with pending := [.leavePoint 0 0 [0]] } = .next t) ∧
    (TableLaws deciding ∧ ∃ t, step deciding = .next t) :=
  ⟨⟨rich_tables, rich_sessions, _, rfl⟩, deciding_tables, _, rfl⟩

theorem witness_OnlyAResetRestoresThese :
    (∃ t, exec (.conversionCompletion ⟨0, 0⟩) rich = .next t) ∧ Instr.conversionCompletion ⟨0, 0⟩ ≠ .fullReset ∧
    rich.claims 0 .start = true ∧
    (let s := rich.setTrimEntry .g8 { state := .valid, trim := 2047 }; (s.trimEntry .g8).state = .valid) :=
  ⟨⟨_, rfl⟩, by decide, by decide +kernel, by decide +kernel⟩

/-- Each way out of a claim set and each way in occurs. -/
theorem witness_ClaimsChangeOnlyByTheirOwners :
    (rich.claims 0 .start = true ∧ (after (exec (.releaseStart 1 0 [15]) rich)).claims 0 .start = false) ∧
    (rich.claims 2 (.host 3) = true ∧ (after (exec (.releaseOrphan 1 0 [3, 4]) rich)).claims 2 (.host 3) = false) ∧
    (rich.claims 1 (.host 0) = false ∧ (after (exec (.supervisionExpiry 0) atZero)).claims 1 (.host 0) = true ∧
      (after (exec (.leavePoint 0 0 [0]) rich)).claims 1 (.host 0) = true) ∧
    (rich.claims 2 (.monitor 1) = true ∧ (after (exec (.clearMonitorClaim 0 0 [1]) rich)).claims 2 (.monitor 1) = false) ∧
    (rich.claims 0 (.trip 1) = true ∧ (after (exec (.clearTrip 1 0 [1]) rich)).claims 0 (.trip 1) = false) ∧
    (rich.claims 3 (.trip 0) = false ∧ (after (exec (.comparatorSample 0 ⟨⟨16, 127⟩, true⟩) rich)).claims 3 (.trip 0) = true) := by
  decide +kernel

theorem witness_OnePortsRequestLeavesOthersAlone :
    goodFrameOf (.detach 1 0 []) = some (1, 0, 0x02, []) ∧ (0 : Port) ≠ 1 ∧ (rich.queue 0).lost ≤ 255 ∧
    ∃ t, exec (.detach 1 0 []) rich = .next t := ⟨rfl, by decide, by decide +kernel, ⟨_, rfl⟩⟩

/-! ### Events at the part -/

/-- R67, R160: the wheel position is 7 and every claim set is {START}. -/
theorem test_fullReset : let t := after (exec .fullReset rich)
    t.wheelPosition = 7 ∧ t.lines = Vector.replicate 4 (claimSet [.start]) ∧ t.resetLow = true := by decide +kernel

/-- R31, R33: the levels present become the accepted levels, and the timebase starts from 0. -/
theorem test_resetRelease :
    let t := after (exec (.resetRelease 1 2 3 (Vector.replicate 6 true)) State.reset)
    t.trgLevels = Vector.replicate 6 true ∧ t.timebase = 0 ∧ t.share = 1 ∧ t.cdiv = 2 ∧ t.baud = 3 := by decide +kernel

/-- 02, 2.8: rising edge 3 of a divider of 3 makes the point DUE at the tail of its sponsor's pending FIFO. -/
theorem test_trgEdge_rise : let t := after (exec (.trgEdge 2 .rising) rich)
    (t.point 6).state = .due ∧ (t.point 6).divider = 0 ∧ t.fifo 1 = [.job .g2, .point 6] := by decide +kernel

/-- 02, 2.8: a falling edge does not match RISE; R33: the second of two rising edges is no change. -/
theorem test_trgEdge_fall :
    let t := after (exec (.trgEdge 2 .rising) rich)
    (after (exec (.trgEdge 2 .falling) t)).point 6 = t.point 6 ∧ after (exec (.trgEdge 2 .rising) t) = t := by
  decide +kernel

/-- R38: 8 times the period is loaded anew; the trigger finds delay 5 (R35). -/
theorem test_periodicExpiry : let t := after (exec (.periodicExpiry 7) atZero)
    (t.point 7).countdown = some 32 ∧ (t.point 7).state = .delaying ∧ (t.point 7).delayTimer = some 5 := by decide +kernel

/-- R13, R38: a point created anew, its countdown at 8 times the period, takes no expiry of the entry's past; R36: nor does
a delay timer that is not at 0. -/
theorem test_expiry_of_the_past :
    let s := rich.setPoint 7 (newPoint 1 (key 7 (.periodic 4) 5 false .n1))
    after (exec (.periodicExpiry 7) s) = s ∧ after (exec (.delayExpiry 4) s) = s := by decide +kernel

/-- R36, R37: the point is DUE in its sponsor's pending FIFO. -/
theorem test_delayExpiry : let t := after (exec (.delayExpiry 4) atZero)
    (t.point 4).state = .due ∧ t.fifo 0 = [.point 2, .job .g4, .point 8, .point 4] := by decide +kernel

/-- 05, 5.6: the fourth code of P5's burst, 1,003 at gain 2; H1 created the point and H2 joined it. -/
theorem test_conversionCompletion_finalize :
    let s : State :=
      { twoPorts with
        ports := #v[.cleared, livePort 1 0, livePort 1 0, .cleared]
        points := (Vector.replicate 32 PointEntry.cleared).set 5
          { entry .converting (key 5 (.line 2 .rise 3) 0 false .n4) [1, 2] with
            sequence := 211, accumulator := 3003, done := 3, stamp := some 1234567 }
        subs := #v[table [], (table [5]).set 0 (some { subscription 5 with firstPending := false }),
                   (table [5]).set 0 (some { subscription 5 with offset := 16003, multiplier := 1001, shift := 4 }), table []]
        trims := twoPorts.trims.set 1 { state := .valid, trim := 40 }
        converter := some (burst (.point 5) .background 4) };
    let t := after (exec (.conversionCompletion ⟨1003, 8191⟩) s)
    ((t.ring 1).unsent.map (fun x => (x.sequence, x.value16, x.scaled, recordFlags x))) = [(212, 15984, 15984, 0x00)] ∧
    ((t.ring 2).unsent.map (fun x => (x.sequence, x.value16, x.scaled, recordFlags x))) = [(212, 15984, -1189, 0x10)] ∧
    (t.point 5).state = .armed ∧ t.converter = none := by decide +kernel

/-- R88: triggered before the decision, and the first work it finds, the finalized point starts its next burst at once; the
decision taken first resumes the suspended burst. -/
theorem test_decision_after_trigger :
    let s := { deciding with urgentQueue := [] }
    let t := after (step s)
    (t.point 0).state = .converting ∧ t.suspended.isSome = true ∧ t.decisionDue = false ∧
    ((takeDecision s).point 1).state = .converting := by decide +kernel

/-- R53, R88: the byte or the expiry of another point, a SAMPLE NOW that is refused, and an edge that another point meets
first do not come before the decision; a SAMPLE NOW, an edge and the last byte of a frame that enqueue the point do. -/
theorem test_next_enqueued :
    let next := fun c => nextEnqueued { deciding with pending := [c] }
    next (.sampleNow 0 1 [0]) = some 0 ∧ next (.sampleNow 0 1 [5]) = some 5 ∧ next (.sampleNow 2 1 [0]) = none ∧
    next (.sampleNow 0 1 [4]) = none ∧ next (.delayExpiry 4) = none ∧ next (.calibrate 0 1 [3]) = none ∧
    next (.trgEdge 2 .rising) = some 6 ∧ next (.trgEdge 2 .falling) = none ∧ next (.byteTaken 0 0xA5) = none := by
  decide +kernel

/-- R174: the last byte of a good SAMPLE NOW frame enqueues the point; a last byte with which the CRC disagrees does not. -/
theorem test_next_enqueued_byte :
    let c := crcBytes [3, 1, 0x17, 0]
    let s := deciding.modPort 0 (fun h =>
      { h with receiver := .checking 3 [1, 0x17, 0] (some (c.getD 0 0)), interByte := some 900 })
    nextEnqueued { s with pending := [.byteTaken 0 (c.getD 1 0)] } = some 0 ∧
    nextEnqueued { s with pending := [.byteTaken 0 (c.getD 1 0 + 1)] } = none := by decide +kernel

/-- 04, 4.7: the sixteenth code of the job of gain 4. -/
theorem test_conversionCompletion_calibration :
    let t := after (exec (.conversionCompletion ⟨12, 4095⟩) (calibrating 15 172 []))
    t.trimEntry .g4 = { state := .valid, trim := 184 } ∧ t.job .g4 = .idle ∧
    (t.queue 0).events.map (fun e => (e.kind, e.subject, e.value)) = [(.calDone, 2, 184)] := by decide +kernel

/-- R164: TRIP_FIRED before the line event; INH0 was asserted already. -/
theorem test_tripFiring : let t := after (exec (.tripFiring 0) rich)
    (t.queue 1).events.map (·.kind) = [.tripFired, .lineAsserted] ∧ (t.comparator 0).claimed = 0b1001 := by decide +kernel

/-- R169: with a SET TRIP taken first the firing does not occur; R163: the sample counts afresh. -/
theorem test_tripFiring_reconfigured :
    let enabled := after (exec (.setTrip 0 1 [0, 4, 7, 0, 1, 9, 1]) rich)
    let disabled := after (exec (.setTrip 0 1 [0, 4, 7, 0, 1, 9, 0]) rich)
    ((after (exec (.tripFiring 0) enabled)).comparator 0).state = .watching ∧
    ((takeSample 0 true enabled).comparator 0).run = 1 ∧
    ((after (exec (.tripFiring 0) disabled)).comparator 0).state = .off := by decide +kernel

/-- R163: the forty-eighth beyond sample fires the comparator. -/
theorem test_comparatorSample_beyond :
    ((after (exec (.comparatorSample 0 ⟨⟨16, 127⟩, true⟩) rich)).comparator 0).state = .fired := by decide +kernel

/-- R163: a safe sample returns the run to 0. -/
theorem test_comparatorSample_safe :
    let t := after (exec (.comparatorSample 0 ⟨⟨14, 127⟩, false⟩) rich)
    (t.comparator 0).run = 0 ∧ (t.comparator 0).state = .watching := by decide +kernel

/-- R174: a LEN out of range ends the partial frame and is counted. -/
theorem test_framingError :
    let t := after (exec (.framingError 2 .lenOutOfRange) (receiving .length))
    (t.port 2).framingErrors = 1 ∧ (t.port 2).receiver = .hunting false := by decide +kernel

/-- R174: of a run of bad start bytes the first alone is counted. -/
theorem test_framingError_run :
    ((after (exec (.framingError 2 .badStart) (receiving (.hunting true)))).port 2).framingErrors = 0 ∧
    ((after (exec (.framingError 2 .badStart) (receiving (.hunting false)))).port 2).framingErrors = 1 := by decide +kernel

/-- R175. -/
theorem test_interByteTimeout :
    let t := after (exec (.interByteTimeout 2) (timedOut (.collecting 2 [9])))
    (t.port 2).framingErrors = 1 ∧ (t.port 2).interByte = none := by decide +kernel

/-- 09, 9.12: the second frame's BUSY reply waits with its TAG; R179: a third frame is discarded and counted. -/
theorem test_busyReply :
    ((after (exec (.busyReply 0 17 0x10 []) (executing none false))).port 0).busy = some (17, 0x10) ∧
    ((after (exec (.busyReply 0 18 0x10 []) (executing (some (17, 0x10)) false))).port 0).framingErrors = 1 := by
  decide +kernel

/-- 09, 9.12: the last byte of the response; the BUSY reply is sent and the port stays EXECUTING. -/
theorem test_responseSent_busy :
    let t := after (exec (.responseSent 0) (executing (some (17, 0x10)) false))
    (t.port 0).request = .executing ∧ (((t.port 0).sending.map (·.bytes)).getD []).take 5 = [0x5A, 3, 17, 0x10, 0x03] := by decide +kernel

/-- R188: the second stage of a DETACH tells H1. -/
theorem test_responseSent_detach :
    let t := after (exec (.responseSent 0) (executing none true))
    t.attached 0 = false ∧ (t.queue 1).events.map (fun e => (e.kind, e.subject, e.value)) = [(.peerLeft, 0, 1)] := by
  decide +kernel

/-- R141, R186: a held monitor claim becomes a HOST claim; P0, whose burst runs, is RETIRING (R18). -/
theorem test_supervisionExpiry :
    let t := after (exec (.supervisionExpiry 0) atZero)
    t.line 1 = claimSet [.host 0] ∧ (t.point 0).state = .retiring ∧ (t.point 4).state = .free ∧
    (t.queue 1).events.map (fun e => (e.kind, e.subject, e.value)) = [(.peerLost, 0, 1)] := by decide +kernel

/-- R174, R198: the second CRC byte of a PING completes it. -/
theorem test_byteTaken_completes :
    let crc := crcBytes [2, 9, 0x03];
    said 2 (after (exec (.byteTaken 2 (crc.getD 1 0)) (receiving (.checking 2 [9, 0x03] crc.head?)))) =
      [0x00, 0, 0, 0, 99, 0, 0] := by decide +kernel

/-! ### Requests

`said` gives STATUS and body of the answer. -/

/-- R181: a CODE of no request, on an ATTACHED and on a DETACHED port. -/
theorem test_unknownRequest :
    said 0 (after (exec (.unknownRequest 0 1 0x65 []) rich)) = [0x04] ∧
    said 2 (after (exec (.unknownRequest 2 1 0x65 []) rich)) = [0x01] := by decide +kernel

/-- 11, start-up: session id 1; the inherited mask names the line where HOST 2 stands (INH0). -/
theorem test_attach : said 2 (after (exec (.attach 2 1 [10, 1, 4]) rich)) = [0x00, 1, 0b0001] := by decide +kernel

/-- R187: the port stays ATTACHED and EXECUTING, and its subscriptions are gone. -/
theorem test_detach :
    let t := after (exec (.detach 1 1 []) rich)
    said 1 t = [0x00] ∧ t.attached 1 = true ∧ t.slots 1 = table [] ∧ (t.job .g2).state = .none ∧ t.fifo 1 = [] := by
  decide +kernel

/-- R187: CLAIMS_HELD. -/
theorem test_detach_refused : said 0 (after (exec (.detach 0 1 []) rich)) = [0x16] := by decide +kernel

/-- R184: the timebase is 99. -/
theorem test_ping : said 1 (after (exec (.ping 1 1 []) rich)) = [0x00, 0, 0, 0, 99, 1, 7] := by decide +kernel

/-- R193, R205: 50 bytes; the last two count 10 entries in use and 2 urgent ones. -/
theorem test_partStatus :
    let a := said 2 (after (exec (.partStatus 2 1 []) rich));
    a.length = 51 ∧ a.drop 49 = [10, 2] := by decide +kernel

/-- R13: the lowest FREE entry, P10. -/
theorem test_definePoint : said 0 (after (exec (.definePoint 0 1 (defineBody' newKey)) rich)) = [0x00, 1, 10, 0, 0] := by
  decide +kernel

/-- R6, R63: H0, the sponsor of P2, leaves; the DUE point moves to the tail of H1's FIFO. -/
theorem test_leavePoint :
    let t := after (exec (.leavePoint 0 1 [2]) rich)
    said 0 t = [0x00, 3] ∧ t.fifo 0 = [.job .g4, .point 8] ∧ t.fifo 1 = [.job .g2, .point 2] := by decide +kernel

/-- R18: the last subscriber of a suspended point leaves. -/
theorem test_leavePoint_suspended :
    let t := after (exec (.leavePoint 0 1 [1]) rich)
    said 0 t = [0x00, 0] ∧ t.suspended = none ∧ t.point 1 = .cleared := by decide +kernel

/-- R22. -/
theorem test_pauseSubscription :
    ((after (exec (.pauseSubscription 0 1 [5]) rich)).slot 0 5).map (·.state) = some .paused := by decide +kernel

/-- R23. -/
theorem test_resumeSubscription :
    (after (exec (.resumeSubscription 1 1 [9]) rich)).slot 1 4 = some (subscription 9) := by decide +kernel

/-- R24, R203: offset 16,003, multiplier 1,001, shift 4, d = 256. -/
theorem test_setConditioning :
    (after (exec (.setConditioning 0 1 [5, 0x3E, 0x83, 0x03, 0xE9, 4, 1, 0]) rich)).slot 0 5 =
      some { subscription 5 with offset := 16003, multiplier := 1001, shift := 4, decimation := 256 } := by decide +kernel

/-- R205: P6 is ARMED; LINE on TRG2, RISE, divider 3; its list is H1. -/
theorem test_pointStatus :
    said 0 (after (exec (.pointStatus 0 1 [6]) rich)) =
      [0x00, 1, 3, 1, 6, 1, 0, 2, 0, 3, 0, 0, 0, 0, 0, 1, 1, 0xFF, 0xFF, 0xFF, 0, 0, 0] := by decide +kernel

/-- R27, R205: five slots of 13 bytes; the PAUSED subscription to P9 is the last. -/
theorem test_listSubscriptions :
    let a := said 1 (after (exec (.listSubscriptions 1 1 []) rich));
    a.length = 67 ∧ a.take 2 = [0x00, 5] ∧ a.drop 54 = [4, 9, 1, 0, 0, 0, 1, 0, 0, 1, 0, 0, 1] := by decide +kernel

/-- R39: a DEMAND point with delay 0 goes DUE; a busy one loses the trigger, its count held at 255 (R41). -/
theorem test_sampleNow :
    said 0 (after (exec (.sampleNow 0 1 [5]) rich)) = [0x00, 3, 0] ∧
    said 0 (after (exec (.sampleNow 0 1 [4]) rich)) = [0x0E, 2, 1] := by decide +kernel

/-- R77: gain code 3. -/
theorem test_calibrate :
    let t := after (exec (.calibrate 1 1 [3]) rich)
    said 1 t = [0x00] ∧ t.fifo 1 = [.job .g2, .job .g8] ∧ (t.job .g8).requester = some 1 := by decide +kernel

/-- R83, R205: four UNCALIBRATED entries; the job of gain 2 is QUEUED for H1, that of gain 4 for H0. -/
theorem test_trimStatus :
    said 0 (after (exec (.trimStatus 0 1 []) rich)) =
      [0x00, 0, 0, 0, 0, 0xFF, 0, 0, 0, 0, 1, 1, 0, 0, 0, 0, 1, 0, 0, 0, 0, 0, 0, 0xFF, 0] := by decide +kernel

/-- 06, 6.7, step 1: k = 3 of five unsent records; the next token is taken and two stay. -/
theorem test_readResults :
    (said 1 (after (exec (.readResults 1 1 [3, 0, 0]) (reading (ring 0 5 .keepOldest 0))))).take 6 =
      [0x00, 0, 8, 3, 2, 0] := by decide +kernel

/-- 06, 6.7, steps 3 and 9: RESENT, and ACK_IGNORED with nothing outstanding. -/
theorem test_readResults_flags :
    (said 1 (after (exec (.readResults 1 1 [3, 1, 6]) (reading (ring 3 2 .keepOldest 0))))).take 6 =
      [0x00, 1, 7, 3, 2, 0] ∧
    said 1 (after (exec (.readResults 1 1 [3, 1, 7]) (reading (ring 0 0 .keepOldest 0)))) = [0x00, 2, 7, 0, 0, 0] := by
  decide +kernel

/-- 06, 6.7, steps 7 and 8. -/
theorem test_ackResults :
    said 1 (after (exec (.ackResults 1 1 [7]) (reading (ring 3 0 .keepOldest 0)))) = [0x00, 0, 0] ∧
    said 1 (after (exec (.ackResults 1 1 [7]) (reading (ring 0 0 .keepOldest 0)))) = [0x10, 7, 0] := by decide +kernel

/-- 06, 6.8: the first record that arrives at a full ring, and the fourth after the window was released. -/
theorem test_ring_policies :
    (ringArrive (ring 10 54 .keepOldest 0) (record 64)).pendingLost = 1 ∧
    ((ringArrive (ring 10 54 .keepNewest 0) (record 64)).unsent.getLast?).map (·.lost) = some 1 ∧
    ((ringArrive (ring 0 54 .keepOldest 3) (record 67)).unsent.getLast?).map (·.lost) = some 3 := by decide +kernel

/-- R121, R202: one event of two; the other is left, and the lost-event count is read and zeroed. -/
theorem test_readEvents :
    let s := rich.setQueue 0 { events := [⟨.lineAsserted, 2, 1, 1234567⟩, ⟨.peerLost, 3, 5, 0⟩], lost := 9 };
    let t := after (exec (.readEvents 0 1 [1]) s)
    said 0 t = [0x00, 1, 9, 1, 3, 2, 0, 1, 0x00, 0x12, 0xD6, 0x87] ∧ (t.queue 0).lost = 0 := by decide +kernel

/-- 07, 7.9: low 12,000, high 20,000, h 500, q 2, FOLLOW INH1; M0 to M2 are in use, so M3 is taken. -/
theorem test_createMonitor :
    said 0 (after (exec (.createMonitor 0 1 [5, 0x2E, 0xE0, 0x4E, 0x20, 0x01, 0xF4, 2, 1, 1, 0]) rich)) = [0x00, 3] := by
  decide +kernel

/-- 07, 7.9, finalizes 5 and 7: TRIP before LINE_ASSERTED, RECOVER before LINE_RELEASED. -/
theorem test_monitor_evaluation :
    let m := { followMonitor with state := .qualifying, count := 1, claimHeld := false };
    let s := { twoPorts with lines := Vector.replicate 4 (claimSet []), monitors := twoPorts.monitors.set 2 (some m) };
    let t := evaluateMonitor 2 m 21000 s
    (t.queue 0).events.map (fun e => (e.kind, e.subject, e.value)) = [(.trip, 2, 21000), (.lineAsserted, 1, 1)] ∧
    ((after (.next (evaluateMonitor 2 { m with state := .out, count := 2, claimHeld := true } 19200 t))).queue 0).events.map
      (·.kind) = [.trip, .lineAsserted, .recover, .lineReleased] := by decide +kernel

/-- R141: the claim of M0 on INH1 becomes HOST 0's. -/
theorem test_deleteMonitor :
    let t := after (exec (.deleteMonitor 0 1 [0]) rich)
    said 0 t = [0x00, 1, 1] ∧ t.line 1 = claimSet [.host 0] ∧ t.queue 1 = .empty := by decide +kernel

/-- R138: STILL_OUT for M0; the latched claim of M1 on INH2 is released, where HOST 3 stays. -/
theorem test_clearMonitorClaim :
    said 0 (after (exec (.clearMonitorClaim 0 1 [0]) rich)) = [0x14] ∧
    said 0 (after (exec (.clearMonitorClaim 0 1 [1]) rich)) = [0x00, 1, 2] ∧
    (after (exec (.clearMonitorClaim 0 1 [1]) rich)).line 2 = claimSet [.host 3] := by decide +kernel

/-- R205: M0 in 16 bytes; a free entry is all 0. -/
theorem test_monitorStatus :
    let a := said 0 (after (exec (.monitorStatus 0 1 []) rich));
    a.length = 129 ∧ (a.drop 1).take 16 = [1, 0, 0, 0x2E, 0xE0, 0x4E, 0x20, 0x01, 0xF4, 2, 1, 1, 1, 2, 2, 1] ∧
      a.drop 113 = List.replicate 16 0 := by decide +kernel

/-- R151: HOST 0 is added to INH0 and INH3; INH3 was released. -/
theorem test_claimLine :
    let t := after (exec (.claimLine 0 1 [0b1001]) rich)
    said 0 t = [0x00, 0b1001, 0b1001] ∧ (t.queue 1).events.map (fun e => (e.kind, e.subject, e.value)) =
      [(.lineAsserted, 3, 1)] := by decide +kernel

/-- R152: HOST 0 stands nowhere, so nothing is released; INH0, INH1 and INH2 stay asserted. -/
theorem test_releaseLine : said 0 (after (exec (.releaseLine 0 1 [15]) rich)) = [0x00, 0, 0b0111] := by decide +kernel

/-- 11, start-up: RELEASE START of all four lines with {START} in each. -/
theorem test_releaseStart :
    let t := after (exec (.releaseStart 0 1 [15]) twoPorts)
    said 0 t = [0x00, 0x0F, 0] ∧ (t.queue 1).events.map (fun e => (e.kind, e.subject)) =
      [(.lineReleased, 0), (.lineReleased, 1), (.lineReleased, 2), (.lineReleased, 3)] := by decide +kernel

/-- R154: NOT_ORPHAN for an ATTACHED port; HOST 2 leaves INH0. -/
theorem test_releaseOrphan :
    said 0 (after (exec (.releaseOrphan 0 1 [1, 15]) rich)) = [0x15] ∧
    said 0 (after (exec (.releaseOrphan 0 1 [2, 15]) rich)) = [0x00, 0b0001, 0b0111] := by decide +kernel

/-- R205: INH0 holds START, HOST 2 and TRIP 1: bits 0, 3 and 14. -/
theorem test_lineStatus :
    said 0 (after (exec (.lineStatus 0 1 []) rich)) =
      [0x00, 1, 3, 0x40, 0x09, 1, 1, 0x00, 0x20, 1, 2, 0x00, 0x50, 0, 0, 0, 0] := by decide +kernel

/-- R165. -/
theorem test_takeTrip :
    said 1 (after (exec (.takeTrip 1 1 [1]) rich)) = [0x00, 1] ∧ said 1 (after (exec (.takeTrip 1 1 [0]) rich)) = [0x17, 0] := by
  decide +kernel

/-- R166: 11, start-up: AIN4, step 7, ABOVE, 4 µs, INH0 and INH1, enable; the run is 0 again. -/
theorem test_setTrip :
    let t := after (exec (.setTrip 0 1 [0, 4, 7, 0, 2, 3, 1]) rich)
    said 0 t = [0x00, 1] ∧ (t.comparator 0).run = 0 ∧ (t.comparator 0).config.mask = 3 ∧
      (t.comparator 0).config.filter = .f4 := by decide +kernel

/-- R167: the state stays. -/
theorem test_giveTrip :
    let t := after (exec (.giveTrip 0 1 [0]) rich)
    said 0 t = [0x00] ∧ (t.comparator 0).holder = none ∧ (t.comparator 0).state = .watching := by decide +kernel

/-- R168: NOT_FIRED for T0; T1 returns to WATCHING and TRIP 1 leaves INH0, which stays asserted. -/
theorem test_clearTrip :
    let t := after (exec (.clearTrip 1 1 [1]) rich)
    said 1 t = [0x00, 1] ∧ (t.comparator 1).state = .watching ∧ t.line 0 = claimSet [.start, .host 2] ∧
      (t.queue 0).events.map (·.kind) = [.tripCleared] ∧ said 1 (after (exec (.clearTrip 1 1 [0]) rich)) = [0x1B] := by
  decide +kernel

/-- R205: T0 WATCHING, held by H0, filter code 1, beyond; T1 FIRED, unheld, claimed INH0. -/
theorem test_tripStatus :
    said 0 (after (exec (.tripStatus 0 1 []) rich)) =
      [0x00, 1, 0, 4, 7, 0, 1, 9, 0, 1, 2, 0xFF, 5, 7, 0, 0, 1, 1, 0] := by decide +kernel

/-! ### Time -/

/-- R31: the 48th CLK period is a tick, and every timer that runs loses one microsecond. -/
theorem test_clk_tick :
    let t := after (step { rich with clkPhase := 47 })
    t.timebase = 100 ∧ (t.port 0).supervision = some 9999 ∧ t.clkPhase = 0 := by decide +kernel

/-- R70, R72: CDIV 1, no gain switch, settle code 0: the sample instant is the end of the eighth CLK period; the timebase
and the amplified level of AIN3, at gain 2, are kept. -/
theorem test_clk_sample_instant :
    let c : Conversion := { channel := 3, gain := .g2, settle := 0, gainSwitch := false, elapsed := 7, reading := none,
                            held := none }
    let s : State := { rich with cdiv := 1, conversion := some c, pins := { rich.pins with ain := rich.pins.ain.set 3 ⟨1, 4⟩ } }
    (after (step s)).conversion.map (fun c => (c.reading, c.held)) = some (some 99, some ⟨2, 4⟩) := by decide +kernel

/-- R33: a level is accepted at its second sample, not at its first; a level accepted already is no edge. -/
theorem test_clk_trigger_filter :
    let s : State := { twoPorts with pins := { twoPorts.pins with trg := twoPorts.pins.trg.set 4 true } }
    (after (step s)).pending = [] ∧ (after (step (after (step s)))).pending = [.trgEdge 4 .rising] ∧
    (after (step { s with trgLevels := s.trgLevels.set 4 true, trgSamples := s.pins.trg })).pending = [] := by decide +kernel

/-- R173, R174: at BAUD 3, 24 CLK periods a bit, the stop bit is sampled 228 periods after the start bit was met. -/
theorem test_clk_byte :
    let s := { twoPorts with baud := 3 }.setPort 2
      { HostPort.cleared with rxByte := some { elapsed := 227, bits := false :: dataBits 0xA5 } }
    (after (step s)).pending = [.byteTaken 2 0xA5] ∧
    (after (step { s with pins := { s.pins with rxd := s.pins.rxd.set 2 false } })).pending = [.framingError 2 .byteError] := by
  decide +kernel

/-- R173, R177: one byte at BAUD 3 takes 240 CLK periods. -/
theorem test_clk_response_end :
    let s := { twoPorts with baud := 3 }.setPort 0
      { livePort 1 1 with request := .executing, sending := some { bytes := [0x5A], elapsed := 239 } }
    (after (step s)).pending = [.responseSent 0] ∧ s.txdHigh 0 = true ∧
    (s.setPort 0 { s.port 0 with sending := some { bytes := [0x5A], elapsed := 0 } }).txdHigh 0 = false := by decide +kernel

end Sys2Proof.Tests
end

section
/-!
PROOFS. DEFINE POINT (R8 to R14): when its fields are out of range, what its searches find, one equation for each outcome
of its owner, and from these the statements of the family.
-/

namespace Sys2Proof.DefinePoint

open Sys2Proof.Machine Sys2Proof.Statement

/-! ### The fields of a body that are out of range (R9, R24) -/

theorem gainOf_eq_none (n : Nat) : gainOf n = none ↔ 3 < n := by
  unfold gainOf
  split <;> simp <;> omega

theorem oversampleOf_eq_none (n : Nat) : oversampleOf n = none ↔ n ∉ [1, 2, 4, 8, 16] := by
  unfold oversampleOf
  split <;> simp_all

theorem edgeSelectOf_eq_none (n : Nat) : edgeSelectOf n = none ↔ 2 < n := by
  match n with
  | 0 | 1 | 2 => simp [edgeSelectOf]
  | _ + 3 => simp [edgeSelectOf]

theorem flagOf_eq_none (n : Nat) : flagOf n = none ↔ 1 < n := by
  match n with
  | 0 | 1 => simp [flagOf]
  | _ + 2 => simp [flagOf]

theorem readConditioning_eq_none (body : List Byte) (k : Nat) :
    readConditioning body k = none ↔
      15 < byteAt body (k + 4) ∨ word16At body (k + 5) = 0 ∨ 256 < word16At body (k + 5) := by
  unfold readConditioning
  dsimp only
  split
  · next inRange => simp only [reduceCtorEq, false_iff]; omega
  · next outOfRange => simp only [true_iff]; omega

/-- The trigger bytes that are read depend on the kind in byte 4. -/
theorem readTrigger_eq_none (body : List Byte) :
    readTrigger body = none ↔
      2 < byteAt body 4 ∨
      (byteAt body 4 = 0 ∧ (5 < byteAt body 5 ∨ 2 < byteAt body 6 ∨ byteAt body 7 = 0 ∨ 16 < byteAt body 7)) ∨
      (byteAt body 4 = 1 ∧ word16At body 8 < 4) := by
  unfold readTrigger
  split
  · next line =>
    have edge := edgeSelectOf_eq_none (byteAt body 6)
    cases h : edgeSelectOf (byteAt body 6) with
    | none => simp [line, edge.mp h]
    | some e =>
      have : ¬2 < byteAt body 6 := fun out => by simp [edge.mpr out] at h
      simp [line]
      omega
  · next periodic => simp [periodic]
  · next demand => simp [demand]
  · next h0 h1 h2 =>
    have other : 2 < byteAt body 4 := by
      have n0 : byteAt body 4 ≠ 0 := h0
      have n1 : byteAt body 4 ≠ 1 := h1
      have n2 : byteAt body 4 ≠ 2 := h2
      omega
    simp [other]

/-- Whichever reader fails first, the key is refused; in the order of the bytes. -/
theorem readKey_eq_none (body : List Byte) :
    readKey body = none ↔
      17 < byteAt body 0 ∨ gainOf (byteAt body 1) = none ∨ 15 < byteAt body 2 ∨ oversampleOf (byteAt body 3) = none ∨
      readTrigger body = none ∨ 1023 < word16At body 10 ∨ flagOf (byteAt body 12) = none := by
  unfold readKey
  cases gainOf (byteAt body 1) with
  | none => simp
  | some gain => cases oversampleOf (byteAt body 3) with
    | none => simp
    | some oversample => cases readTrigger body with
      | none => simp
      | some trigger => cases flagOf (byteAt body 12) with
        | none => simp
        | some urgent => simp; omega

theorem readDefine_eq_none (body : List Byte) : readDefine body = none ↔ DefineOutOfRange body := by
  have parts : readDefine body = none ↔ readKey body = none ∨ readConditioning body 13 = none := by
    unfold readDefine
    cases readKey body <;> cases readConditioning body 13 <;> simp
  rw [parts, readKey_eq_none, gainOf_eq_none, oversampleOf_eq_none, readTrigger_eq_none, flagOf_eq_none,
    readConditioning_eq_none]
  simp only [DefineOutOfRange, at16, at8, word16At, byteAt, Nat.reduceAdd, or_assoc]

/-! ### The searches (R8, R11, R13) -/

theorem lowestFreeSlot_eq_some (s : State) (p : Port) (k : SlotIdx) :
    lowestFreeSlot s p = some k ↔ LowestFree p k s := by
  simp [lowestFreeSlot, allSlots, ← Fin.find?_eq_find?_finRange, Option.isSome_iff_ne_none]

theorem lowestFreeSlot_eq_none (s : State) (p : Port) :
    lowestFreeSlot s p = none ↔ ∀ k : SlotIdx, s.slot p k ≠ none := by
  simp [lowestFreeSlot, allSlots]

theorem lowestFreePoint_eq_some (s : State) (i : PointIdx) :
    lowestFreePoint s = some i ↔ (s.point i).state = .free ∧ ∀ j : PointIdx, j < i → (s.point j).state ≠ .free := by
  simp [lowestFreePoint, allPoints, ← Fin.find?_eq_find?_finRange]

theorem lowestFreePoint_eq_none (s : State) :
    lowestFreePoint s = none ↔ ∀ i : PointIdx, (s.point i).state ≠ .free := by
  simp [lowestFreePoint, allPoints]

/-- The test of the search is the match of R11. -/
theorem live_and_key_iff (e : PointEntry) (key : Key) : (live e && e.key == key) = true ↔ Matches key e := by
  simp only [live, Matches, Bool.and_eq_true, bne_iff_ne, beq_iff_eq]
  tauto

theorem matchingPoint_eq_none (s : State) (key : Key) :
    matchingPoint s key = none ↔ ∀ i : PointIdx, ¬Matches key (s.point i) := by
  simp only [matchingPoint, allPoints, List.find?_eq_none, live_and_key_iff, List.mem_finRange, true_implies]

theorem matches_of_matchingPoint {s : State} {key : Key} {i : PointIdx} (found : matchingPoint s key = some i) :
    Matches key (s.point i) :=
  (live_and_key_iff _ key).mp (List.find?_some (p := fun j => live (s.point j) && (s.point j).key == key) found)

/-- A sole match is the one the search finds. -/
theorem matchingPoint_of_sole {s : State} {key : Key} {i : PointIdx}
    (sole : ∀ j : PointIdx, Matches key (s.point j) ↔ j = i) : matchingPoint s key = some i := by
  cases found : matchingPoint s key with
  | none => exact absurd ((sole i).mpr rfl) ((matchingPoint_eq_none s key).mp found i)
  | some j => rw [(sole j).mp (matches_of_matchingPoint found)]

/-! ### The owner, one outcome at a time (R9 to R14) -/

section Outcomes

variable {p : Port} {body : List Byte} {s : State} {f : DefineFields} {k : SlotIdx} {i : PointIdx}

theorem serveDefinePoint_badField (fields : readDefine body = none) :
    serveDefinePoint p body s = (s, refusal .badField) := by
  simp only [serveDefinePoint, fields]

theorem serveDefinePoint_noSlot (fields : readDefine body = some f) (slot : lowestFreeSlot s p = none) :
    serveDefinePoint p body s = (s, refusal .noSlot) := by
  simp only [serveDefinePoint, fields, slot]

theorem serveDefinePoint_alreadySubscribed (fields : readDefine body = some f) (slot : lowestFreeSlot s p = some k)
    (found : matchingPoint s f.key = some i) (subscribed : p ∈ (s.point i).subscribers) :
    serveDefinePoint p body s =
      (s, { status := .alreadySubscribed, body := defineBody 0 i (s.point i).sequence }) := by
  simp only [serveDefinePoint, fields, slot, found, if_pos subscribed]

theorem serveDefinePoint_joins (fields : readDefine body = some f) (slot : lowestFreeSlot s p = some k)
    (found : matchingPoint s f.key = some i) (subscribed : p ∉ (s.point i).subscribers) :
    serveDefinePoint p body s =
      (joinPoint p k i f.conditioning s, okAnswer (defineBody 2 i (s.point i).sequence)) := by
  simp only [serveDefinePoint, fields, slot, found, if_neg subscribed]

theorem serveDefinePoint_noUrgentRoom (fields : readDefine body = some f) (slot : lowestFreeSlot s p = some k)
    (found : matchingPoint s f.key = none) (full : f.key.urgent = true ∧ Config.urgentRoom ≤ s.urgentInUse) :
    serveDefinePoint p body s = (s, refusal .noUrgentRoom) := by
  simp only [serveDefinePoint, fields, slot, found, if_pos full]

theorem serveDefinePoint_noRoom (fields : readDefine body = some f) (slot : lowestFreeSlot s p = some k)
    (found : matchingPoint s f.key = none) (room : ¬(f.key.urgent = true ∧ Config.urgentRoom ≤ s.urgentInUse))
    (entry : lowestFreePoint s = none) : serveDefinePoint p body s = (s, refusal .noRoom) := by
  simp only [serveDefinePoint, fields, slot, found, if_neg room, entry]

theorem serveDefinePoint_creates (fields : readDefine body = some f) (slot : lowestFreeSlot s p = some k)
    (found : matchingPoint s f.key = none) (room : ¬(f.key.urgent = true ∧ Config.urgentRoom ≤ s.urgentInUse))
    (entry : lowestFreePoint s = some i) :
    serveDefinePoint p body s = (createPoint p k i f s, okAnswer (defineBody 1 i 0)) := by
  simp only [serveDefinePoint, fields, slot, found, if_neg room, entry]

/-- BAD_FIELD comes of the fields alone. -/
theorem serveDefinePoint_status_ne_badField (fields : readDefine body = some f) :
    (serveDefinePoint p body s).2.status ≠ .badField := by
  simp only [serveDefinePoint, fields]
  split
  · simp [refusal]
  · split
    · split <;> simp [okAnswer]
    · split
      · simp [refusal]
      · split <;> simp [refusal, okAnswer]

end Outcomes

/-! ### The command on the part -/

/-- What the owner answers is what the command does: a DEFINE POINT that arrives on an ATTACHED port with its 20 bytes
passes the common checks (R181). -/
theorem exec_definePoint {p : Port} {tag : Byte} {body : List Byte} {s t : State} {a : Answer}
    (asks : Asks p tag 0x10 body s) (length : body.length = 20)
    (served : serveDefinePoint p body (atOwner p s) = (t, a)) :
    exec (.definePoint p tag body) s = .next (answered p tag 0x10 body a t) := by
  have row := frameRow_serves .definePoint asks.1 (.inl asks.2) length
  rw [show serve .definePoint = serveDefinePoint from rfl, served] at row
  exact row

/-- Settles O20: the readers of the fields fail exactly on a field out of range. -/
theorem defineRefusesFieldsOutOfRange : Obligations.DefineRefusesFieldsOutOfRange := by
  intro p tag body s asks length
  constructor
  · intro outOfRange
    exact exec_definePoint asks length (serveDefinePoint_badField ((readDefine_eq_none body).mpr outOfRange))
  · intro inRange
    obtain ⟨f, fields⟩ := Option.ne_none_iff_exists'.mp (mt (readDefine_eq_none body).mp inRange)
    exact ⟨_, _, serveDefinePoint_status_ne_badField fields, exec_definePoint asks length rfl⟩

/-- Settles O21: the search for a slot comes before the search for a matching entry. -/
theorem defineRefusedWithoutASlot : Obligations.DefineRefusedWithoutASlot := by
  intro p tag body s asks length inRange full
  obtain ⟨f, fields⟩ := Option.ne_none_iff_exists'.mp (mt (readDefine_eq_none body).mp inRange)
  exact exec_definePoint asks length (serveDefinePoint_noSlot fields ((lowestFreeSlot_eq_none _ p).mpr full))

/-- Settles O22: the search finds the sole match, and the port's place in its list decides. -/
theorem defineJoinsAMatchingPoint : Obligations.DefineJoinsAMatchingPoint := by
  intro p tag body f k i s asks length fields lowest sole
  have slot : lowestFreeSlot (atOwner p s) p = some k := (lowestFreeSlot_eq_some _ p k).mpr lowest
  have found : matchingPoint (atOwner p s) f.key = some i := matchingPoint_of_sole sole
  exact ⟨fun subscribed => exec_definePoint asks length (serveDefinePoint_alreadySubscribed fields slot found subscribed),
    fun joins => exec_definePoint asks length (serveDefinePoint_joins fields slot found joins)⟩

/-- Settles O23: with no match, the urgent room check comes first, then the search for a FREE entry. -/
theorem defineCreatesAPoint : Obligations.DefineCreatesAPoint := by
  intro p tag body f k s asks length fields lowest noMatch
  have slot : lowestFreeSlot (atOwner p s) p = some k := (lowestFreeSlot_eq_some _ p k).mpr lowest
  have found : matchingPoint (atOwner p s) f.key = none := (matchingPoint_eq_none _ _).mpr noMatch
  have hasRoom (room : f.key.urgent = true → s.urgentInUse < 8) :
      ¬(f.key.urgent = true ∧ Config.urgentRoom ≤ (atOwner p s).urgentInUse) :=
    fun ⟨urgent, full⟩ => absurd (room urgent) (Nat.not_lt.mpr full)
  refine ⟨fun urgent full => ?_, fun room noneFree => ?_, fun room i free lower => ?_⟩
  · exact exec_definePoint asks length (serveDefinePoint_noUrgentRoom fields slot found ⟨urgent, full⟩)
  · have entry : lowestFreePoint (atOwner p s) = none := (lowestFreePoint_eq_none _).mpr noneFree
    exact exec_definePoint asks length (serveDefinePoint_noRoom fields slot found (hasRoom room) entry)
  · have entry : lowestFreePoint (atOwner p s) = some i := (lowestFreePoint_eq_some _ i).mpr ⟨free, lower⟩
    exact exec_definePoint asks length (serveDefinePoint_creates fields slot found (hasRoom room) entry)

end Sys2Proof.DefinePoint
end

section
/-!
SUPPORT. What DEFINE POINT can change.  The lemma is elaborated at once and not in the background (`Elab.async`): it makes
the equation of `serveDefinePoint` before the proofs about DEFINE POINT, which are still waiting for a thread, all ask for it
side by side, each holding a thread while it waits.
-/

namespace Sys2Proof.DefinePointFrame

open Sys2Proof.Machine

set_option Elab.async false in
/-- DEFINE POINT changes points and slots alone: no waiting place, no burst, no grant count (R9 to R14). -/
theorem serveDefinePoint_only (p : Port) (body : List Byte) (s : State) :
    (serveDefinePoint p body s).1 =
      { s with points := (serveDefinePoint p body s).1.points, subs := (serveDefinePoint p body s).1.subs } := by
  simp only [serveDefinePoint]
  split
  · rfl
  · split
    · rfl
    · split
      · split <;> rfl
      · split
        · rfl
        · split <;> rfl

end Sys2Proof.DefinePointFrame
end

section
/-!
PROOFS. The grant decision (R53 to R59): the two scans as the statements write them, what a burst start and a resumption
bring about, what each grant bills, and the decision one waiting place at a time.
-/

namespace Sys2Proof.GrantDecision

open Sys2Proof.Machine Sys2Proof.Statement

/-! ### The scans (R51, R54) -/

theorem wheelPort_eq (share : StrapCode) (slot : WheelSlot) : wheelPort share slot = onWheel share slot := by
  revert share slot; decide

theorem scanOrder_eq (position : WheelSlot) : scanOrder position = scanSlots position := by
  revert position; decide

theorem wheelScan_eq (s : State) :
    wheelScan s = (scanSlots s.wheelPosition).find? (fun k => !(s.fifo (onWheel s.share k)).isEmpty) := by
  simp only [wheelScan, scanOrder_eq, wheelPort_eq]

theorem idleScan_eq (s : State) : idleScan s = [0, 1, 2, 3].find? (fun q : Port => !(s.fifo q).isEmpty) := rfl

/-! ### The entry of a subject -/

theorem point_modPoint_subject (i j : PointIdx) (f : PointEntry → PointEntry) (s : State) :
    (s.modPoint i f).point j = if Subject.point i = .point j then f (s.point j) else s.point j := by
  refine (point_setPoint_eq s i j _).trans ?_
  simp only [Subject.point.injEq, eq_comm (a := j)]
  split
  · next same => rw [same]
  · rfl

theorem job_setJob_subject (g h : Gain) (f : CalibrationJob → CalibrationJob) (s : State) :
    (s.setJob g (f (s.job g))).job h = if Subject.job g = .job h then f (s.job h) else s.job h := by
  simp only [job_setJob_eq, Subject.job.injEq, eq_comm (a := h)]
  split
  · next same => rw [same]
  · rfl

/-! ### The conversion that begins (R46, R70, R71, R78) -/

theorem beginConversionOf_eq (subject : Subject) (s : State) :
    beginConversionOf subject s =
      { s with conversion := some (conversionOf subject s), lastGain := (conversionOf subject s).gain } := by
  cases subject <;> rfl

/-- The conversion of a subject depends on its key and the last gain alone. -/
theorem conversionOf_congr {subject : Subject} {s t : State} (key : ∀ i : PointIdx, (t.point i).key = (s.point i).key)
    (lastGain : t.lastGain = s.lastGain) : conversionOf subject t = conversionOf subject s := by
  cases subject <;> simp only [conversionOf, firstConversion, key, lastGain]

/-! ### A burst that starts (R55) -/

theorem point_subjectStarts (subject : Subject) (s : State) (i : PointIdx) :
    (subjectStarts subject s).point i = if subject = .point i then
      { s.point i with state := .converting, accumulator := 0, done := 0, stamp := none, satSoFar := false,
                       resumedSoFar := false } else s.point i := by
  cases subject with
  | job g => rfl
  | point j => exact point_modPoint_subject j i (fun e => { clearBurst e with state := .converting }) s

theorem job_subjectStarts (subject : Subject) (s : State) (g : Gain) :
    (subjectStarts subject s).job g = if subject = .job g then
      { s.job g with state := .running, done := 0, partialSum := 0 } else s.job g := by
  cases subject with
  | point j => rfl
  | job h => exact job_setJob_subject h g (fun x => { x with state := .running, done := 0, partialSum := 0 }) s

theorem key_subjectStarts (subject : Subject) (s : State) (i : PointIdx) :
    ((subjectStarts subject s).point i).key = (s.point i).key := by
  rw [point_subjectStarts]; split <;> rfl

/-- A burst start in full: the subject's own start, the burst in the converter and its first conversion. -/
theorem startBurst_eq (subject : Subject) (burstClass : BurstClass) (s : State) :
    startBurst subject burstClass s =
      { subjectStarts subject s with
        converter := some { subject, burstClass, length := burstLength subject s }
        conversion := some (conversionOf subject s)
        lastGain := (conversionOf subject s).gain } := by
  have begins : conversionOf subject { subjectStarts subject s with
      converter := some { subject, burstClass, length := burstLength subject s } } = conversionOf subject s :=
    conversionOf_congr (key_subjectStarts subject s) (by rw [subjectStarts_only])
  simp only [startBurst, beginConversionOf_eq, begins]

theorem startBurst_begins (subject : Subject) (burstClass : BurstClass) (s : State) :
    Begins { subject, burstClass, length := burstLength subject s } (conversionOf subject s)
      (startBurst subject burstClass s) := by
  rw [startBurst_eq]; exact ⟨rfl, rfl, rfl⟩

theorem point_startBurst (subject : Subject) (burstClass : BurstClass) (s : State) (i : PointIdx) :
    (startBurst subject burstClass s).point i = if subject = .point i then
      { s.point i with state := .converting, accumulator := 0, done := 0, stamp := none, satSoFar := false,
                       resumedSoFar := false } else s.point i := by
  rw [startBurst_eq]; exact point_subjectStarts subject s i

theorem job_startBurst (subject : Subject) (burstClass : BurstClass) (s : State) (g : Gain) :
    (startBurst subject burstClass s).job g = if subject = .job g then
      { s.job g with state := .running, done := 0, partialSum := 0 } else s.job g := by
  rw [startBurst_eq]; exact job_subjectStarts subject s g

/-! ### A grant from the urgent queue (R53, R56) -/

theorem urgentGrant_countUrgentGrant (p q : Port) (s : State) :
    (countUrgentGrant p s).urgentGrant q = if q = p then s.urgentGrant q + 1 else s.urgentGrant q := by
  refine (urgentGrant_setUrgentGrant_eq s p q _).trans ?_
  split
  · next same => rw [same]
  · rfl

/-- The head of the urgent queue leaves it and is billed to its sponsor; then its burst starts. -/
theorem grantUrgent_bills (i : PointIdx) (rest : List PointIdx) (s : State) :
    ∃ grants : Vector (BitVec 16) 4,
      grantUrgent i rest s = startBurst (.point i) .urgent { s with urgentQueue := rest, urgentGrants := grants } ∧
      ∀ q : Port, grants[q] = if s.sponsor i = some q then s.urgentGrant q + 1 else s.urgentGrant q := by
  unfold grantUrgent
  cases s.sponsor i with
  | none => exact ⟨s.urgentGrants, rfl, fun _ => rfl⟩
  | some p =>
    refine ⟨(countUrgentGrant p s).urgentGrants, rfl, fun q => ?_⟩
    simp only [Option.some.injEq, eq_comm (a := p)]
    exact urgentGrant_countUrgentGrant p q s

/-! ### A grant from a pending FIFO (R53, R56) -/

theorem wheelGrant_countWheelGrant (p q : Port) (s : State) :
    (countWheelGrant p s).wheelGrant q = if q = p then s.wheelGrant q + 1 else s.wheelGrant q := by
  refine (wheelGrant_setWheelGrant_eq s p q _).trans ?_
  split
  · next same => rw [same]
  · rfl

/-- The head of a pending FIFO leaves it, is billed to the FIFO's port, and its burst starts. -/
theorem grantPending_granted {p : Port} {subject : Subject} {rest : List Subject} {s : State}
    (waiting : s.fifo p = subject :: rest) :
    GrantedPending p subject rest s (grantPending p s) ∧ (grantPending p s).wheelPosition = s.wheelPosition := by
  have starts : grantPending p s = startBurst subject .background (countWheelGrant p (s.setFifo p rest)) := by
    simp only [grantPending, waiting]
  rw [starts]
  have conversion : conversionOf subject (countWheelGrant p (s.setFifo p rest)) = conversionOf subject s :=
    conversionOf_congr (fun _ => rfl) rfl
  refine ⟨⟨?begins, ?frame, fun q => ?fifo, fun q => ?billed, fun i => ?point, fun g _ => ?job⟩, ?position⟩
  case begins =>
    rw [← conversion]
    exact startBurst_begins subject .background (countWheelGrant p (s.setFifo p rest))
  case frame => rw [startBurst_eq, subjectStarts_only]; rfl
  case fifo => rw [startBurst_eq, subjectStarts_only]; exact fifo_setFifo_eq s p q rest
  case billed => rw [startBurst_eq, subjectStarts_only]; exact wheelGrant_countWheelGrant p q (s.setFifo p rest)
  case point => exact point_startBurst subject .background (countWheelGrant p (s.setFifo p rest)) i
  case job => exact job_startBurst subject .background (countWheelGrant p (s.setFifo p rest)) g
  case position => rw [startBurst_eq, subjectStarts_only]; rfl

/-- The wheel scan moves the position before the grant, which the grant's description leaves open. -/
theorem grantedPending_of_wheelPosition {p : Port} {subject : Subject} {rest : List Subject} {s t : State}
    {k : WheelSlot} (granted : GrantedPending p subject rest { s with wheelPosition := k } t) :
    GrantedPending p subject rest s t := by
  obtain ⟨begins, frame, fifo, billed, point, job⟩ := granted
  have conversion : conversionOf subject { s with wheelPosition := k } = conversionOf subject s :=
    conversionOf_congr (fun _ => rfl) rfl
  rw [conversion] at begins
  exact ⟨begins, frame, fifo, billed, point, job⟩

/-! ### A resumption (R59) -/

theorem resumeBurst_begins (b : Burst) (s : State) : Begins b (conversionOf b.subject s) (resumeBurst b s) := by
  obtain ⟨subject, burstClass, length⟩ := b
  cases subject with
  | job g => exact ⟨rfl, rfl, rfl⟩
  | point i =>
    have conversion : conversionOf (.point i) (s.modPoint i (fun e => { e with state := .converting })) =
        conversionOf (.point i) s :=
      conversionOf_congr (fun j => by rw [point_modPoint_subject]; split <;> rfl) rfl
    rw [← conversion]
    exact ⟨rfl, rfl, rfl⟩

theorem resumeBurst_frame (b : Burst) (s : State) :
    let t := resumeBurst b s
    t = { s with points := t.points, jobs := t.jobs, suspended := none, converter := t.converter,
                 conversion := t.conversion, lastGain := t.lastGain } := by
  obtain ⟨subject, burstClass, length⟩ := b
  cases subject <;> rfl

/-- A resumption clears nothing of a point. -/
theorem point_resumeBurst (b : Burst) (s : State) (i : PointIdx) :
    (resumeBurst b s).point i =
      if b.subject = .point i then { s.point i with state := .converting } else s.point i := by
  obtain ⟨subject, burstClass, length⟩ := b
  cases subject with
  | job g => rfl
  | point j => exact point_modPoint_subject j i (fun e => { e with state := .converting }) s

/-- A resumption clears nothing of a job. -/
theorem job_resumeBurst (b : Burst) (s : State) (g : Gain) :
    (resumeBurst b s).job g = if b.subject = .job g then { s.job g with state := .running } else s.job g := by
  obtain ⟨subject, burstClass, length⟩ := b
  cases subject with
  | point j => rfl
  | job h => exact job_setJob_subject h g (fun x => { x with state := .running }) s

/-! ### The decision (R53) -/

/-- Settles O30: each place is looked at only when those before it hold nothing, and what its grant brings about is that
of the burst start or the resumption. -/
theorem grantDecisionOrder : Obligations.GrantDecisionOrder := by
  intro s t
  split
  · next i rest urgent =>
    obtain ⟨grants, starts, billed⟩ := grantUrgent_bills i rest s
    have decided : t = grantUrgent i rest s := by simp only [t, grantDecision, urgent]
    rw [decided, starts]
    refine ⟨startBurst_begins _ _ _, rfl, billed, fun j => ?_⟩
    rw [point_startBurst]
    simp only [Subject.point.injEq, eq_comm (a := j)]
    split
    · next same => subst same; rfl
    · rfl
  · next b noUrgent suspended =>
    have decided : t = resumeBurst b s := by simp only [t, grantDecision, noUrgent, suspended]
    rw [decided]
    exact ⟨resumeBurst_begins b s, resumeBurst_frame b s, point_resumeBurst b s, fun g _ => job_resumeBurst b s g⟩
  · next noUrgent noSuspended =>
    rw [← wheelScan_eq, ← idleScan_eq]
    split
    · next k found =>
      intro subject rest waiting
      obtain ⟨granted, position⟩ := grantPending_granted (s := { s with wheelPosition := k }) waiting
      have decided : t = grantPending (onWheel s.share k) { s with wheelPosition := k } := by
        simp only [t, grantDecision, noUrgent, noSuspended, found, wheelPort_eq]
      rw [decided]
      exact ⟨grantedPending_of_wheelPosition (s := s) granted, position⟩
    · next noSlot =>
      split
      · next q found =>
        intro subject rest waiting
        have decided : t = grantPending q s := by simp only [t, grantDecision, noUrgent, noSuspended, noSlot, found]
        rw [decided]
        exact grantPending_granted waiting
      · next noPort => simp only [t, grantDecision, noUrgent, noSuspended, noSlot, noPort]

end Sys2Proof.GrantDecision
end

section
/-!
PROOFS. The requests on a result ring (R109 to R114): the fields of a READ RESULTS body, the three things READ RESULTS does
to the ring, the body that reports the window, and from these the statements about READ RESULTS and ACK RESULTS.
-/

namespace Sys2Proof.ResultRing

open Sys2Proof.Machine Sys2Proof.Statement

/-- What the owner answers on an ATTACHED port, to a body of the right length, is what the command does (R181). -/
theorem frameRow_served {p : Port} {tag : Byte} {body : List Byte} {s t : State} {a : Answer} (r : Request)
    (asks : Asks p tag (requestCode r) body s) (length : body.length = requestLength r)
    (served : serve r p body (atOwner p s) = (t, a)) :
    frameRow p tag (requestCode r) body s = .next (answered p tag (requestCode r) body a t) := by
  obtain ⟨arrives, attached⟩ := asks
  rw [frameRow_serves r arrives (.inl attached) length, served]

/-! ### The fields of READ RESULTS (R110, R204) -/

/-- The acknowledgement that a kind byte and a token byte stand for: the token with kind 1, NONE otherwise (R110). -/
def acknowledgement (kind token : Byte) : Option Byte := if kind = 1 then some token else none

/-- With no window outstanding, the flags say that a token came and was ignored (R113, R205). -/
theorem windowFlags_ackIgnored (kind token : Byte) :
    windowFlags false (acknowledgement kind token).isSome = if kind = 1 then 2 else 0 := by
  unfold acknowledgement
  split <;> rfl

theorem acknowledgement_eq_some_iff (kind token named : Byte) :
    acknowledgement kind token = some named ↔ kind = 1 ∧ token = named := by
  unfold acknowledgement
  split <;> simp_all

/-- A known kind byte reads as whether a token is acknowledged. -/
theorem flagOf_known {kind : Byte} (known : kind.toNat ≤ 1) : flagOf kind.toNat = some (decide (kind = 1)) := by
  have zeroOrOne : kind = 0 ∨ kind = 1 := by bv_omega
  obtain rfl | rfl := zeroOrOne <;> rfl

/-- The reader fails exactly on a field out of range. -/
theorem readReadResults_eq (k kind token : Byte) :
    readReadResults [k, kind, token] =
      if k.toNat = 0 ∨ 15 < k.toNat ∨ 1 < kind.toNat then none
      else some { k := k.toNat, ack := acknowledgement kind token } := by
  simp only [readReadResults, byteAt, List.getD_cons_zero, List.getD_cons_succ]
  by_cases unknown : 1 < kind.toNat
  · simp [unknown, (DefinePoint.flagOf_eq_none kind.toNat).mpr unknown]
  · rw [flagOf_known (by omega)]
    by_cases inRange : 1 ≤ k.toNat ∧ k.toNat ≤ 15
    · rw [if_neg (by omega)]
      simp [inRange, acknowledgement]
    · rw [if_pos (by omega)]
      simp [inRange]

/-! ### What READ RESULTS does to the ring (R109, R111 to R113) -/

theorem ringForm_eq_formed (r : Ring) {k : Nat} (positive : k ≠ 0) : ringForm r k = formed r k := by
  simp [ringForm, formed, List.take_eq_nil_iff, positive, List.isEmpty_iff]

/-- The window that a release empties is replaced by the new one. -/
theorem ringForm_ringRelease (r : Ring) (k : Nat) : ringForm (ringRelease r) k = ringForm r k := rfl

section Ring

variable {r : Ring} {f : ReadResultsFields}

/-- R113: with no window outstanding, a token is ignored. -/
theorem ringRead_noWindow (noWindow : r.window = []) : ringRead r f = (ringForm r f.k, false, f.ack.isSome) := by
  rw [ringRead, if_pos noWindow]

/-- R111. -/
theorem ringRead_acknowledged (outstanding : r.window ≠ []) (named : f.ack = some r.token) :
    ringRead r f = (ringForm r f.k, false, false) := by
  rw [ringRead, if_neg outstanding, if_pos named, ringForm_ringRelease]

/-- R112. -/
theorem ringRead_repeats (outstanding : r.window ≠ []) (other : f.ack ≠ some r.token) :
    ringRead r f = (r, true, false) := by
  rw [ringRead, if_neg outstanding, if_neg other]

end Ring

theorem windowBody_eq (r : Ring) (resent ackIgnored : Bool) :
    windowBody r resent ackIgnored = windowReport (windowFlags resent ackIgnored) r := by
  simp only [windowBody, windowReport, byteOf, funext recordBytes_eq]

/-! ### READ RESULTS (R110 to R113) -/

theorem exec_readResults {p : Port} {tag k kind token : Byte} {s t : State} {a : Answer}
    (asks : Asks p tag 0x30 [k, kind, token] s) (served : serveReadResults p [k, kind, token] (atOwner p s) = (t, a)) :
    exec (.readResults p tag [k, kind, token]) s = .next (answered p tag 0x30 [k, kind, token] a t) :=
  frameRow_served .readResults asks rfl served

theorem serveReadResults_badField {p : Port} {body : List Byte} {s : State} (fields : readReadResults body = none) :
    serveReadResults p body s = (s, refusal .badField) := by
  simp only [serveReadResults, fields]

theorem serveReadResults_answers {p : Port} {body : List Byte} {s : State} {f : ReadResultsFields} {r : Ring}
    {resent ackIgnored : Bool} (fields : readReadResults body = some f)
    (read : ringRead (s.ring p) f = (r, resent, ackIgnored)) :
    serveReadResults p body s = (s.setRing p r, okAnswer (windowReport (windowFlags resent ackIgnored) r)) := by
  simp only [serveReadResults, fields, read, windowBody_eq]

/-- Settles O38: the reader of the fields decides about BAD_FIELD, and what the ring does decides about the rest. -/
theorem readResultsHandlesTheWindow : Obligations.ReadResultsHandlesTheWindow := by
  intro p tag k kind token s body asks c r answers
  have fields := readReadResults_eq k kind token
  split
  · next outOfRange =>
    rw [if_pos outOfRange] at fields
    exact exec_readResults asks (serveReadResults_badField fields)
  · next inRange =>
    rw [if_neg inRange] at fields
    have answersAfter {r' : Ring} {resent ackIgnored : Bool}
        (read : ringRead r { k := k.toNat, ack := acknowledgement kind token } = (r', resent, ackIgnored)) :
        answers (windowFlags resent ackIgnored) r' :=
      exec_readResults asks (serveReadResults_answers fields read)
    rw [← ringForm_eq_formed r fun zero => inRange (.inl zero)]
    split
    · next noWindow =>
      rw [← windowFlags_ackIgnored kind token]
      exact answersAfter (ringRead_noWindow noWindow)
    · next outstanding =>
      split
      · next named =>
        exact answersAfter (ringRead_acknowledged outstanding ((acknowledgement_eq_some_iff ..).mpr named))
      · next other => exact answersAfter (ringRead_repeats outstanding (mt (acknowledgement_eq_some_iff ..).mp other))

/-! ### ACK RESULTS (R114) -/

theorem exec_ackResults {p : Port} {tag token : Byte} {s t : State} {a : Answer}
    (asks : Asks p tag 0x31 [token] s) (served : serveAckResults p [token] (atOwner p s) = (t, a)) :
    exec (.ackResults p tag [token]) s = .next (answered p tag 0x31 [token] a t) :=
  frameRow_served .ackResults asks rfl served

theorem serveAckResults_eq (p : Port) (token : Byte) (s : State) :
    serveAckResults p [token] s =
      if (s.ring p).window ≠ [] ∧ token = (s.ring p).token then
        (s.setRing p (ringRelease (s.ring p)),
          okAnswer [byteOf (s.ring p).unsent.length, byteOf (s.ring p).pendingLost])
      else (s, { status := .staleAck, body := [(s.ring p).token, byteOf (s.ring p).window.length] }) := by
  simp only [serveAckResults, byteAt, List.getD_cons_zero, BitVec.ofNat_toNat, BitVec.setWidth_eq]

/-- Settles O39: the owner's one test is whether the token names an outstanding window. -/
theorem ackResultsReleasesTheWindow : Obligations.AckResultsReleasesTheWindow := by
  intro p tag token s asks r
  have served := serveAckResults_eq p token (atOwner p s)
  constructor
  · intro outstanding named
    rw [ring_atOwner, if_pos ⟨outstanding, named⟩] at served
    exact exec_ackResults asks served
  · intro otherwise
    have stale : ¬(r.window ≠ [] ∧ token = r.token) := by tauto
    rw [ring_atOwner, if_neg stale] at served
    exact exec_ackResults asks served

end Sys2Proof.ResultRing
end

section
/-!
SUPPORT. Removing one claimant from one line (R149): the counts of a claim set, the set of each line afterwards, and the
events that the removal offers.
-/

namespace Sys2Proof.ClaimRemoval

open Sys2Proof.Machine Sys2Proof.Statement

/-! ### The counts of a claim set (R147, R148) -/

theorem claimAsserted_eq_false_iff (set : ClaimSet) : claimAsserted set = false ↔ claimCount set = 0 := by
  rw [claimAsserted, claimCount, List.any_eq_false, List.countP_eq_zero]

/-- Taking a claimant of the set away lowers the count by one. -/
theorem claimCount_set_false {set : ClaimSet} {x : Fin 15} (stands : set[x] = true) :
    claimCount (set.set x false) + 1 = claimCount set := by
  have counted : 0 < claimCount set :=
    List.countP_pos_iff.mpr ⟨true, by simpa using Vector.mem_of_getElem stands, rfl⟩
  have lowered : claimCount (set.set x false) = claimCount set - 1 := by
    have atPlace : set[x.val] = true := stands
    simp [claimCount, Vector.toList_set, List.countP_set, atPlace]
  omega

/-! ### The lines of a mask that names one line (R195) -/

theorem getLsbD_maskOfLine (l j : LineIdx) : (maskOfLines (· == l)).getLsbD j = (j == l) := by
  revert l j
  decide

theorem linesOf_maskOfLine (l : LineIdx) : linesOf (maskOfLines (· == l)) = [l] := by
  revert l
  decide

/-! ### The removal -/

theorem removeClaim_absent {l : LineIdx} {c : Claimant} {s : State} (absent : s.claims l c = false) :
    removeClaim l c s = s := by
  rw [removeClaim, absent, if_neg Bool.false_ne_true]

/-- Of a claimant that stands in the set, the removal is the set without it, and the event when none is left. -/
theorem removeClaim_standing {l : LineIdx} {c : Claimant} {s : State} (stands : s.claims l c = true) :
    removeClaim l c s =
      let t := s.setLine l ((s.line l).set (claimantIndex c) false)
      if claimCount (s.line l) = 1 then formEventForAll .lineReleased l.val 0 t else t := by
  have lowered := claimCount_set_false (set := s.line l) (x := claimantIndex c) stands
  have empties := claimAsserted_eq_false_iff ((s.line l).set (claimantIndex c) false)
  simp only [removeClaim, stands, if_true, State.lineAsserted, line_setLine]
  by_cases sole : claimCount (s.line l) = 1
  · have none : claimCount ((s.line l).set (claimantIndex c) false) = 0 := by omega
    rw [empties.mpr none, if_neg Bool.false_ne_true, if_pos sole, none]
  · have others : claimAsserted ((s.line l).set (claimantIndex c) false) = true :=
      Bool.of_not_eq_false fun released => sole (by have := empties.mp released; omega)
    rw [others, if_pos rfl, if_neg sole]

theorem line_removeClaim (l j : LineIdx) (c : Claimant) (s : State) :
    (removeClaim l c s).line j = if j = l then (s.line l).set (claimantIndex c) false else s.line j := by
  cases stands : s.claims l c with
  | false =>
    have same : (s.line l).set (claimantIndex c) false = s.line l := by
      rw [← show (s.line l)[claimantIndex c] = false from stands]
      exact Vector.set_getElem_self _
    rw [removeClaim_absent stands, same]
    split <;> simp_all
  | true =>
    rw [removeClaim_standing stands]
    dsimp only
    split
    · rw [(formEventForAll_only ..).line, line_setLine_eq]
    · rw [line_setLine_eq]

/-- The one event of a removal from one line: of the claimant that alone held it. -/
theorem releasedEvents_maskOfLine (l : LineIdx) (c : Claimant) (s : State) :
    releasedEvents s (maskOfLines (· == l)) c =
      if s.claims l c = true ∧ claimCount (s.line l) = 1 then [eventNow s .lineReleased l.val 0] else [] := by
  rw [releasedEvents, show allLines.filter _ = [l] from linesOf_maskOfLine l, List.filter_singleton]
  by_cases sole : s.claims l c = true ∧ claimCount (s.line l) = 1
  · simp [sole]
  · have kept : (s.claims l c && claimCount (s.line l) == 1) = false := by simpa using sole
    simp [sole, kept]

theorem queue_removeClaim (l : LineIdx) (c : Claimant) (s : State) (q : Port) :
    (removeClaim l c s).queue q = offered s q (releasedEvents s (maskOfLines (· == l)) c) := by
  rw [releasedEvents_maskOfLine]
  cases stands : s.claims l c with
  | false => simp [removeClaim_absent stands, offered]
  | true =>
    rw [removeClaim_standing stands]
    by_cases sole : claimCount (s.line l) = 1
    · cases attached : s.attached q <;> simp [sole, offered, eventNow, queue_formEventForAll, attached]
    · simp [sole, offered]

/-- A removal from one line is a removal from the lines of the mask that names it. -/
theorem removeClaim_claimsRemoved (l : LineIdx) (c : Claimant) (s : State) :
    ClaimsRemoved (maskOfLines (· == l)) c [] s (removeClaim l c s) := by
  refine ⟨fun j x => ?_, queue_removeClaim l c s⟩
  rw [line_removeClaim, getLsbD_maskOfLine]
  by_cases named : j = l
  · subst named
    by_cases claimant : x = claimantIndex c
    · simp [claimant]
    · have elsewhere : (claimantIndex c).val ≠ x.val := fun same => claimant (Fin.ext same).symm
      simp [claimant, Vector.getElem_set_ne, elsewhere]
  · simp [named]

/-- That the port starts to execute the request has no part in a removal. -/
theorem claimsRemoved_of_atOwner {p : Port} {mask : LineMask} {c : Claimant} {first : List Event} {s t : State}
    (removed : ClaimsRemoved mask c first (atOwner p s) t) : ClaimsRemoved mask c first s t := by
  obtain ⟨sets, queues⟩ := removed
  refine ⟨sets, fun q => ?_⟩
  have offers (events : List Event) : offered (atOwner p s) q events = offered s q events := by
    simp only [offered, attached_atOwner, queue_atOwner]
  rw [queues q, offers]
  rfl

end Sys2Proof.ClaimRemoval
end

section
/-!
PROOFS. The limit monitor table (R128, R129, R138): the fields of CREATE MONITOR and the search for a free entry, the
checks of CLEAR MONITOR CLAIM, one equation for each outcome of the two owners, and from these the statements.
-/

namespace Sys2Proof.LimitMonitors

open Sys2Proof.Machine Sys2Proof.Statement

/-! ### The fields of CREATE MONITOR (R128, R204) -/

theorem pointIndexOf_eq_none (n : Nat) : pointIndexOf n = none ↔ 31 < n := by
  simp only [pointIndexOf, dite_eq_right_iff, reduceCtorEq, imp_false]
  omega

theorem val_of_pointIndexOf {n : Nat} {i : PointIdx} (read : pointIndexOf n = some i) : i.val = n := by
  obtain ⟨_, same⟩ := Option.dite_none_right_eq_some.mp read
  rw [← Option.some.inj same]

theorem lineIndexOf_eq_none (n : Nat) : lineIndexOf n = none ↔ 3 < n := by
  simp only [lineIndexOf, dite_eq_right_iff, reduceCtorEq, imp_false]
  omega

/-- The line byte is read for FOLLOW and LATCH alone. -/
theorem readAction_eq_none (body : List Byte) :
    readAction body = none ↔
      2 < byteAt body 8 ∨ ((byteAt body 8 = 1 ∨ byteAt body 8 = 2) ∧ 3 < byteAt body 9) := by
  unfold readAction
  split
  · next noAction => simp [noAction]
  · next follow => simp [follow, lineIndexOf_eq_none]
  · next latch => simp [latch, lineIndexOf_eq_none]
  · next not0 not1 not2 =>
    have unknown : 2 < byteAt body 8 := by
      have ne0 : byteAt body 8 ≠ 0 := not0
      have ne1 : byteAt body 8 ≠ 1 := not1
      have ne2 : byteAt body 8 ≠ 2 := not2
      omega
    simp [unknown]

theorem readMonitor_eq_none (body : List Byte) : readMonitor body = none ↔ MonitorOutOfRange body := by
  have parts : readMonitor body = none ↔
      pointIndexOf (byteAt body 0) = none ∨ readAction body = none ∨
      ¬(word16At body 5 ≤ 4095 ∧ 1 ≤ byteAt body 7 ∧ byteAt body 7 ≤ 8 ∧
        word16At body 1 + word16At body 5 + word16At body 5 ≤ word16At body 3) := by
    unfold readMonitor
    cases pointIndexOf (byteAt body 0) <;> cases readAction body <;> simp
  rw [parts, pointIndexOf_eq_none, readAction_eq_none]
  simp only [MonitorOutOfRange, at16, at8, word16At, byteAt]
  omega

/-- A field that is read is the number at its place in the body. -/
theorem readMonitor_fields {body : List Byte} {f : MonitorFields} (fields : readMonitor body = some f) :
    f.point.val = at8 body 0 ∧ f.low = at16 body 1 ∧ f.high = at16 body 3 ∧ f.hysteresis = at16 body 5 ∧
      f.qualify = at8 body 7 := by
  unfold readMonitor at fields
  obtain ⟨point, readPoint, fields⟩ := Option.bind_eq_some_iff.mp fields
  obtain ⟨action, -, fields⟩ := Option.bind_eq_some_iff.mp fields
  obtain ⟨-, made⟩ := Option.ite_none_right_eq_some.mp fields
  cases made
  exact ⟨val_of_pointIndexOf readPoint, rfl, rfl, rfl, rfl⟩

/-! ### The checks of CREATE MONITOR (R128, R129) -/

theorem live_eq_false_iff (e : PointEntry) : live e = false ↔ e.state = .free ∨ e.state = .retiring := by
  cases state : e.state <;> simp [live, state]

theorem lowestFreeMonitor_eq_none (s : State) : lowestFreeMonitor s = none ↔ ∀ k : MonitorIdx, s.monitor k ≠ none := by
  simp [lowestFreeMonitor, allMonitors]

theorem lowestFreeMonitor_eq_some (s : State) (k : MonitorIdx) :
    lowestFreeMonitor s = some k ↔ s.monitor k = none ∧ ∀ j : MonitorIdx, j < k → s.monitor j ≠ none := by
  simp [lowestFreeMonitor, allMonitors, ← Fin.find?_eq_find?_finRange, Option.isSome_iff_ne_none]

section Outcomes

variable {p : Port} {body : List Byte} {s : State} {f : MonitorFields} {k : MonitorIdx}

theorem serveCreateMonitor_badField (fields : readMonitor body = none) :
    serveCreateMonitor p body s = (s, refusal .badField) := by
  simp only [serveCreateMonitor, fields]

theorem serveCreateMonitor_noSuchPoint (fields : readMonitor body = some f) (dead : live (s.point f.point) = false) :
    serveCreateMonitor p body s = (s, refusal .noSuchPoint) := by
  simp only [serveCreateMonitor, fields, dead, Bool.false_eq_true, if_false]

theorem serveCreateMonitor_notSubscribed (fields : readMonitor body = some f) (alive : live (s.point f.point) = true)
    (stranger : p ∉ (s.point f.point).subscribers) : serveCreateMonitor p body s = (s, refusal .notSubscribed) := by
  simp only [serveCreateMonitor, fields, alive, if_true, if_neg stranger]

theorem serveCreateMonitor_noMonitorRoom (fields : readMonitor body = some f) (alive : live (s.point f.point) = true)
    (subscribed : p ∈ (s.point f.point).subscribers) (full : lowestFreeMonitor s = none) :
    serveCreateMonitor p body s = (s, refusal .noMonitorRoom) := by
  simp only [serveCreateMonitor, fields, alive, if_true, if_pos subscribed, full]

theorem serveCreateMonitor_creates (fields : readMonitor body = some f) (alive : live (s.point f.point) = true)
    (subscribed : p ∈ (s.point f.point).subscribers) (entry : lowestFreeMonitor s = some k) :
    serveCreateMonitor p body s = (s.setMonitor k (some (newMonitor p f)), okAnswer [BitVec.ofNat 8 k.val]) := by
  simp only [serveCreateMonitor, fields, alive, if_true, if_pos subscribed, entry, byteOf]

end Outcomes

/-! ### CREATE MONITOR on the part -/

theorem exec_createMonitor {p : Port} {tag : Byte} {body : List Byte} {s t : State} {a : Answer}
    (asks : Asks p tag 0x40 body s) (length : body.length = 11)
    (served : serveCreateMonitor p body (atOwner p s) = (t, a)) :
    exec (.createMonitor p tag body) s = .next (answered p tag 0x40 body a t) :=
  ResultRing.frameRow_served .createMonitor asks length served

/-- Settles O42: the reader decides about BAD_FIELD, then the entry of the point, then the search for a free monitor. -/
theorem createMonitorTakesTheLowestEntry : Obligations.CreateMonitorTakesTheLowestEntry := by
  intro p tag body s asks length c
  have bad := readMonitor_eq_none body
  refine ⟨fun outOfRange => exec_createMonitor asks length (serveCreateMonitor_badField (bad.mpr outOfRange)),
    mt bad.mp, fun f fields => ?_⟩
  have inRange : ¬MonitorOutOfRange body := fun outOfRange => by simp [bad.mpr outOfRange] at fields
  obtain ⟨point, low, high, hysteresis, qualify⟩ := readMonitor_fields fields
  refine ⟨inRange, point, low, high, hysteresis, qualify, ?_⟩
  split
  · next dead =>
    exact exec_createMonitor asks length (serveCreateMonitor_noSuchPoint fields ((live_eq_false_iff _).mpr dead))
  · next notDead =>
    have alive : live ((atOwner p s).point f.point) = true :=
      Bool.of_not_eq_false (mt (live_eq_false_iff _).mp notDead)
    split
    · next stranger => exact exec_createMonitor asks length (serveCreateMonitor_notSubscribed fields alive stranger)
    · next subscriber =>
      have subscribed := Decidable.not_not.mp subscriber
      constructor
      · intro full
        have noEntry : lowestFreeMonitor (atOwner p s) = none := (lowestFreeMonitor_eq_none _).mpr full
        exact exec_createMonitor asks length (serveCreateMonitor_noMonitorRoom fields alive subscribed noEntry)
      · intro k free lower
        have entry : lowestFreeMonitor (atOwner p s) = some k := (lowestFreeMonitor_eq_some _ k).mpr ⟨free, lower⟩
        exact exec_createMonitor asks length (serveCreateMonitor_creates fields alive subscribed entry)

/-! ### The checks that name a monitor (R138, R140) -/

theorem monitorIndexOf_eq_none (n : Nat) : monitorIndexOf n = none ↔ 7 < n := by
  simp only [monitorIndexOf, dite_eq_right_iff, reduceCtorEq, imp_false]
  omega

theorem monitorIndexOf_index {index : Byte} {k : MonitorIdx} (named : index.toNat = k.val) :
    monitorIndexOf (byteAt [index] 0) = some k := by
  rw [byteAt, List.getD_cons_zero, named]
  exact dif_pos k.isLt

section Checks

variable {p : Port} {index : Byte} {s : State} {k : MonitorIdx} {m : Monitor}

theorem createdMonitor_badField (outOfRange : 7 < index.toNat) : createdMonitor p [index] s = .error .badField := by
  have noIndex : monitorIndexOf (byteAt [index] 0) = none := (monitorIndexOf_eq_none _).mpr outOfRange
  simp only [createdMonitor, noIndex]

theorem createdMonitor_noSuchMonitor (named : index.toNat = k.val) (free : s.monitor k = none) :
    createdMonitor p [index] s = .error .noSuchMonitor := by
  simp only [createdMonitor, monitorIndexOf_index named, free]

theorem createdMonitor_notCreator (named : index.toNat = k.val) (entry : s.monitor k = some m) (other : m.creator ≠ p) :
    createdMonitor p [index] s = .error .notCreator := by
  simp only [createdMonitor, monitorIndexOf_index named, entry, if_neg other]

theorem createdMonitor_ok (named : index.toNat = k.val) (entry : s.monitor k = some m) (own : m.creator = p) :
    createdMonitor p [index] s = .ok (k, m) := by
  simp only [createdMonitor, monitorIndexOf_index named, entry, if_pos own]

/-! ### The owner of CLEAR MONITOR CLAIM (R138) -/

theorem serveClearMonitorClaim_refused {e : Status} (checks : createdMonitor p [index] s = .error e) :
    serveClearMonitorClaim p [index] s = (s, refusal e) := by
  simp only [serveClearMonitorClaim, checks]

theorem serveClearMonitorClaim_stillOut (checks : createdMonitor p [index] s = .ok (k, m)) (out : m.state = .out) :
    serveClearMonitorClaim p [index] s = (s, refusal .stillOut) := by
  simp only [serveClearMonitorClaim, checks, if_pos out]

theorem serveClearMonitorClaim_noClaim (checks : createdMonitor p [index] s = .ok (k, m)) (calm : m.state ≠ .out)
    (held : heldLine m = none) : serveClearMonitorClaim p [index] s = (s, okAnswer [0, 0xFF]) := by
  simp only [serveClearMonitorClaim, checks, if_neg calm, clearClaim, held, claimOutcome]

theorem serveClearMonitorClaim_releases {l : LineIdx} (checks : createdMonitor p [index] s = .ok (k, m))
    (calm : m.state ≠ .out) (held : heldLine m = some l) :
    serveClearMonitorClaim p [index] s = (clearClaim k m s, okAnswer [1, BitVec.ofNat 8 l.val]) := by
  simp only [serveClearMonitorClaim, checks, if_neg calm, held, claimOutcome, byteOf]

theorem clearClaim_held {l : LineIdx} (held : heldLine m = some l) :
    clearClaim k m s = removeClaim l (.monitor k) (s.setMonitor k (some { m with claimHeld := false })) := by
  simp only [clearClaim, held]

end Checks

/-! ### CLEAR MONITOR CLAIM on the part -/

theorem exec_clearMonitorClaim {p : Port} {tag index : Byte} {s t : State} {a : Answer}
    (asks : Asks p tag 0x42 [index] s) (served : serveClearMonitorClaim p [index] (atOwner p s) = (t, a)) :
    exec (.clearMonitorClaim p tag [index]) s = .next (answered p tag 0x42 [index] a t) :=
  ResultRing.frameRow_served .clearMonitorClaim asks rfl served

section Release

variable {s : State} {k : MonitorIdx} {m : Monitor} {l : LineIdx}

/-- Releasing a held claim changes nothing but the monitors, the claim sets and the event queues. -/
theorem clearClaim_only (held : heldLine m = some l) : OnlyMonitors s (clearClaim k m s) := by
  rw [clearClaim_held held]
  exact OnlyMonitors.trans (t := s.setMonitor k (some { m with claimHeld := false })) rfl
    (removeClaim_only ..).onlyMonitors

theorem monitor_clearClaim (held : heldLine m = some l) (j : MonitorIdx) :
    (clearClaim k m s).monitor j = if j = k then some { m with claimHeld := false } else s.monitor j := by
  rw [clearClaim_held held, (removeClaim_only ..).monitor, monitor_setMonitor_eq]

theorem clearClaim_claimsRemoved (held : heldLine m = some l) :
    ClaimsRemoved (maskOfLines (· == l)) (.monitor k) [] s (clearClaim k m s) := by
  rw [clearClaim_held held]
  exact ClaimRemoval.removeClaim_claimsRemoved l (.monitor k) (s.setMonitor k (some { m with claimHeld := false }))

end Release

/-- Settles O44: the shared checks, then the monitor's state, then the line of its held claim decide. -/
theorem clearMonitorClaimReleasesALatch : Obligations.ClearMonitorClaimReleasesALatch := by
  intro p tag index s asks _ c
  refine ⟨fun outOfRange => ?_, fun k named => ⟨fun free => ?_, fun m entry => ?_⟩⟩
  · exact exec_clearMonitorClaim asks (serveClearMonitorClaim_refused (createdMonitor_badField outOfRange))
  · have checks := createdMonitor_noSuchMonitor (p := p) (s := atOwner p s) named free
    exact exec_clearMonitorClaim asks (serveClearMonitorClaim_refused checks)
  · split
    · next other =>
      have checks := createdMonitor_notCreator (s := atOwner p s) named entry other
      exact exec_clearMonitorClaim asks (serveClearMonitorClaim_refused checks)
    · next own =>
      have checks := createdMonitor_ok (s := atOwner p s) named entry (Decidable.not_not.mp own)
      split
      · next out => exact exec_clearMonitorClaim asks (serveClearMonitorClaim_stillOut checks out)
      · next calm =>
        split
        · next held => exact exec_clearMonitorClaim asks (serveClearMonitorClaim_noClaim checks calm held)
        · next l held =>
          have removed := clearClaim_claimsRemoved (s := atOwner p s) (k := k) held
          exact ⟨_, exec_clearMonitorClaim asks (serveClearMonitorClaim_releases checks calm held),
            clearClaim_only held, monitor_clearClaim held, ClaimRemoval.claimsRemoved_of_atOwner removed⟩

end Sys2Proof.LimitMonitors
end

section
/-!
SUPPORT. Adding one claimant to one line (R148), and adding and removing a claimant on the lines of a mask (R150): the set
of each line afterwards, and the events offered on the way, one line after another.
-/

namespace Sys2Proof.LineClaims

open Sys2Proof.Machine Sys2Proof.Statement Sys2Proof.ClaimRemoval

/-! ### The sets (R147) -/

/-- The first claimant of a set is counted as one. -/
theorem claimCount_set_true {set : ClaimSet} (released : claimAsserted set = false) (x : Fin 15) :
    claimCount (set.set x true) = 1 := by
  have nobody : set.toList.countP (fun b => b) = 0 := (claimAsserted_eq_false_iff set).mp released
  simp [claimCount, Vector.toList_set, List.countP_set, nobody]

theorem claimAsserted_of_stands {set : ClaimSet} {x : Fin 15} (stands : set[x] = true) : claimAsserted set = true :=
  (claimAsserted_iff set).mpr ⟨x, stands⟩

/-- Every place of a claim set is a claimant's (R205). -/
theorem claimantIndex_surjective (x : Fin 15) : ∃ c : Claimant, claimantIndex c = x := by
  obtain ⟨n, inSet⟩ := x
  by_cases start : n = 0
  · exact ⟨.start, Fin.ext start.symm⟩
  by_cases host : n < 5
  · exact ⟨.host ⟨n - 1, by omega⟩, Fin.ext (show 1 + (n - 1) = n by omega)⟩
  by_cases monitor : n < 13
  · exact ⟨.monitor ⟨n - 5, by omega⟩, Fin.ext (show 5 + (n - 5) = n by omega)⟩
  · exact ⟨.trip ⟨n - 13, by omega⟩, Fin.ext (show 13 + (n - 13) = n by omega)⟩

theorem claimantIndex_beq (c d : Claimant) : (claimantIndex d == claimantIndex c) = decide (d = c) := by
  rw [Bool.eq_iff_iff, beq_iff_eq, decide_eq_true_iff]
  exact ⟨claimantIndex_injective, congrArg claimantIndex⟩

/-! ### The addition to one line (R148) -/

theorem addClaim_standing {l : LineIdx} {c : Claimant} {s : State} (stands : s.claims l c = true) :
    addClaim l c s = s := by
  rw [addClaim, if_pos stands]

/-- Of a claimant that does not stand in the set, the addition is the set with it, and the event when it is the first. -/
theorem addClaim_absent {l : LineIdx} {c : Claimant} {s : State} (absent : s.claims l c = false) :
    addClaim l c s =
      let t := s.setLine l ((s.line l).set (claimantIndex c) true)
      if s.lineAsserted l then t else formEventForAll .lineAsserted l.val 1 t := by
  simp only [addClaim, absent, Bool.false_eq_true, if_false, line_setLine]
  by_cases asserted : s.lineAsserted l = true
  · rw [if_pos asserted, if_pos asserted]
  · have first : claimCount ((s.line l).set (claimantIndex c) true) = 1 :=
      claimCount_set_true (Bool.of_not_eq_true asserted) (claimantIndex c)
    rw [if_neg asserted, if_neg asserted, first]

theorem line_addClaim (l j : LineIdx) (c : Claimant) (s : State) :
    (addClaim l c s).line j = if j = l then (s.line l).set (claimantIndex c) true else s.line j := by
  cases stands : s.claims l c with
  | true =>
    have same : (s.line l).set (claimantIndex c) true = s.line l := by
      rw [← show (s.line l)[claimantIndex c] = true from stands]
      exact Vector.set_getElem_self _
    rw [addClaim_standing stands, same]
    split
    · next here => rw [here]
    · rfl
  | false =>
    rw [addClaim_absent stands]
    dsimp only
    split
    · rw [line_setLine_eq]
    · rw [(formEventForAll_only ..).line, line_setLine_eq]

/-- The one event of an addition to one line: of the first claimant. -/
theorem assertedEvents_maskOfLine (l : LineIdx) (s : State) :
    assertedEvents s (maskOfLines (· == l)) =
      if s.lineAsserted l then [] else [eventNow s .lineAsserted l.val 1] := by
  rw [assertedEvents, show allLines.filter _ = [l] from linesOf_maskOfLine l, List.filter_singleton]
  cases s.lineAsserted l <;> rfl

theorem queue_addClaim (l : LineIdx) (c : Claimant) (s : State) (q : Port) :
    (addClaim l c s).queue q = offered s q (assertedEvents s (maskOfLines (· == l))) := by
  rw [assertedEvents_maskOfLine]
  cases stands : s.claims l c with
  | true =>
    have asserted : s.lineAsserted l = true := claimAsserted_of_stands stands
    simp [addClaim_standing stands, asserted, offered]
  | false =>
    rw [addClaim_absent stands]
    cases s.lineAsserted l with
    | true => simp [offered]
    | false => cases attached : s.attached q <;> simp [offered, eventNow, queue_formEventForAll, attached]

/-! ### Events offered one line after another (R150) -/

/-- A change of claim sets and queues takes no time. -/
theorem eventNow_of_onlyClaims {s t : State} (only : OnlyClaims s t) (kind : EventKind) (subject value : Nat) :
    eventNow t kind subject value = eventNow s kind subject value := by
  rw [eventNow, eventNow, only.timebase]

/-- What is offered after the events `first` follows them in the queue. -/
theorem offered_after {s t : State} {q : Port} {first : List Event} (attached : t.attached q = s.attached q)
    (queue : t.queue q = offered s q first) (rest : List Event) : offered t q rest = offered s q (first ++ rest) := by
  unfold offered at queue ⊢
  rw [attached, queue]
  cases s.attached q with
  | true => simp only [if_true, List.foldl_append]
  | false => rfl

section Fold

variable {act : LineIdx → State → State} {events : State → LineIdx → List Event} {q : Port}

/-- When the act on a line offers that line's events and leaves the events of the other lines, the acts on distinct lines
offer the events of all of them in turn. -/
theorem queue_foldl_lines (attached : ∀ l s, (act l s).attached q = s.attached q)
    (offers : ∀ l s, (act l s).queue q = offered s q (events s l))
    (elsewhere : ∀ l j s, j ≠ l → events (act l s) j = events s j) (lines : List LineIdx) (distinct : lines.Nodup)
    (s : State) : (lines.foldl (fun s l => act l s) s).queue q = offered s q (lines.flatMap (events s)) := by
  induction lines generalizing s with
  | nil => simp [offered]
  | cons l ls ih =>
    obtain ⟨fresh, distinct⟩ := List.nodup_cons.mp distinct
    have later : ls.flatMap (events (act l s)) = ls.flatMap (events s) :=
      List.flatMap_congr fun j among => elsewhere l j s fun same => fresh (same ▸ among)
    rw [List.foldl_cons, ih distinct, later, offered_after (attached l s) (offers l s), List.flatMap_cons]

end Fold

theorem map_filter_eq_flatMap {α β : Type} (f : α → β) (keep : α → Bool) (xs : List α) :
    (xs.filter keep).map f = xs.flatMap (fun x => if keep x then [f x] else []) := by
  induction xs with
  | nil => rfl
  | cons x xs ih => cases kept : keep x <;> simp [kept, ih]

theorem nodup_linesOf (mask : LineMask) : (linesOf mask).Nodup := (List.nodup_finRange 4).filter _

/-! ### The addition to the lines of a mask -/

theorem assertedEvents_eq_flatMap (s : State) (mask : LineMask) :
    assertedEvents s mask = (linesOf mask).flatMap (fun l => assertedEvents s (maskOfLines (· == l))) := by
  have perLine (l : LineIdx) : assertedEvents s (maskOfLines (· == l)) =
      if (!s.lineAsserted l) = true then [eventNow s .lineAsserted l.val 1] else [] := by
    rw [assertedEvents_maskOfLine]
    cases s.lineAsserted l <;> rfl
  simp only [perLine]
  exact map_filter_eq_flatMap ..

theorem assertedEvents_addClaim_ne {l j : LineIdx} (other : j ≠ l) (c : Claimant) (s : State) :
    assertedEvents (addClaim l c s) (maskOfLines (· == j)) = assertedEvents s (maskOfLines (· == j)) := by
  have line : (addClaim l c s).line j = s.line j := by rw [line_addClaim, if_neg other]
  rw [assertedEvents_maskOfLine, assertedEvents_maskOfLine,
    eventNow_of_onlyClaims (addClaim_only l c s), State.lineAsserted, line]
  rfl

theorem queue_addClaims (mask : LineMask) (c : Claimant) (s : State) (q : Port) :
    (addClaims mask c s).queue q = offered s q (assertedEvents s mask) := by
  rw [assertedEvents_eq_flatMap]
  exact queue_foldl_lines (act := fun l => addClaim l c) (fun l s => (addClaim_only l c s).attached q)
    (fun l s => queue_addClaim l c s q) (fun _ _ s other => assertedEvents_addClaim_ne other c s) _ (nodup_linesOf mask) s

theorem addClaims_claimsAdded (mask : LineMask) (c : Claimant) (s : State) :
    ClaimsAdded mask c [] s (addClaims mask c s) := by
  refine ⟨fun l x => ?_, queue_addClaims mask c s⟩
  obtain ⟨d, rfl⟩ := claimantIndex_surjective x
  rw [claimantIndex_beq]
  exact claims_addClaims mask l c d s

/-- That the port starts to execute the request has no part in an addition. -/
theorem claimsAdded_of_atOwner {p : Port} {mask : LineMask} {c : Claimant} {first : List Event} {s t : State}
    (added : ClaimsAdded mask c first (atOwner p s) t) : ClaimsAdded mask c first s t := by
  obtain ⟨sets, queues⟩ := added
  refine ⟨sets, fun q => ?_⟩
  have offers (events : List Event) : offered (atOwner p s) q events = offered s q events := by
    simp only [offered, attached_atOwner, queue_atOwner]
  rw [queues q, offers]
  rfl

/-! ### The removal from the lines of a mask -/

theorem releasedEvents_eq_flatMap (s : State) (mask : LineMask) (c : Claimant) :
    releasedEvents s mask c = (linesOf mask).flatMap (fun l => releasedEvents s (maskOfLines (· == l)) c) := by
  have perLine (l : LineIdx) : releasedEvents s (maskOfLines (· == l)) c =
      if (s.claims l c && claimCount (s.line l) == 1) = true then [eventNow s .lineReleased l.val 0] else [] := by
    rw [releasedEvents_maskOfLine]
    simp only [Bool.and_eq_true, beq_iff_eq]
  simp only [perLine]
  exact map_filter_eq_flatMap ..

theorem releasedEvents_removeClaim_ne {l j : LineIdx} (other : j ≠ l) (c : Claimant) (s : State) :
    releasedEvents (removeClaim l c s) (maskOfLines (· == j)) c = releasedEvents s (maskOfLines (· == j)) c := by
  have line : (removeClaim l c s).line j = s.line j := by rw [line_removeClaim, if_neg other]
  rw [releasedEvents_maskOfLine, releasedEvents_maskOfLine,
    eventNow_of_onlyClaims (removeClaim_only l c s), State.claims, line]
  rfl

theorem queue_removeClaims (mask : LineMask) (c : Claimant) (s : State) (q : Port) :
    (removeClaims mask c s).queue q = offered s q (releasedEvents s mask c) := by
  rw [releasedEvents_eq_flatMap]
  exact queue_foldl_lines (act := fun l => removeClaim l c) (events := fun s l => releasedEvents s (maskOfLines (· == l)) c)
    (fun l s => (removeClaim_only l c s).attached q) (fun l s => queue_removeClaim l c s q)
    (fun _ _ s other => releasedEvents_removeClaim_ne other c s) _ (nodup_linesOf mask) s

theorem removeClaims_claimsRemoved (mask : LineMask) (c : Claimant) (s : State) :
    ClaimsRemoved mask c [] s (removeClaims mask c s) := by
  refine ⟨fun l x => ?_, queue_removeClaims mask c s⟩
  obtain ⟨d, rfl⟩ := claimantIndex_surjective x
  rw [claimantIndex_beq]
  exact claims_removeClaims mask l c d s

end Sys2Proof.LineClaims
end

section
/-!
PROOFS. The inhibit lines (R148 to R154): how a claimant enters and leaves one claim set, the mask fields of the requests,
one equation for each outcome of their owners, and from these the statements.
-/

namespace Sys2Proof.InhibitLines

open Sys2Proof.Machine Sys2Proof.Statement Sys2Proof.ClaimRemoval Sys2Proof.LineClaims

/-! ### One claimant, one line (R148, R149) -/

/-- Settles O45: by whether the claimant stands in the set. -/
theorem claimIsAddedToASet : Obligations.ClaimIsAddedToASet := by
  intro l c s t
  split
  · next stands => exact addClaim_standing stands
  · refine ⟨addClaim_only l c s, fun j => line_addClaim l j c s, ?_, fun q => ?_⟩
    · have enters : t.claims l c = true := by simp [t]
      exact claimAsserted_of_stands enters
    · rw [← assertedEvents_maskOfLine]
      exact queue_addClaim l c s q

/-- The line is released when no other claimant stands on it. -/
theorem lineAsserted_removeClaim_eq_false_iff (l : LineIdx) (c : Claimant) (s : State) :
    (removeClaim l c s).lineAsserted l = false ↔ ∀ x : Fin 15, x ≠ claimantIndex c → (s.line l)[x] = false := by
  have remains (x : Fin 15) : ((removeClaim l c s).line l)[x] = true ↔ x ≠ claimantIndex c ∧ (s.line l)[x] = true := by
    obtain ⟨d, rfl⟩ := claimantIndex_surjective x
    have kept : (removeClaim l c s).claims l d = true ↔ s.claims l d = true ∧ ¬d = c := by simp
    rw [ne_eq, show claimantIndex d = claimantIndex c ↔ d = c from ⟨claimantIndex_injective, congrArg _⟩, and_comm]
    exact kept
  rw [State.lineAsserted, ← Bool.not_eq_true, claimAsserted_iff, not_exists]
  simp only [remains, not_and, Bool.not_eq_true]

/-- The line stays asserted unless the claimant that leaves is the only one. -/
theorem lineAsserted_removeClaim_eq_false_iff_sole {l : LineIdx} {c : Claimant} {s : State}
    (stands : s.claims l c = true) : (removeClaim l c s).lineAsserted l = false ↔ claimCount (s.line l) = 1 := by
  have lowered := claimCount_set_false (set := s.line l) (x := claimantIndex c) stands
  rw [State.lineAsserted, line_removeClaim, if_pos rfl, claimAsserted_eq_false_iff]
  omega

/-- Settles O46: by whether the claimant stands in the set, and then whether it is the only one. -/
theorem claimIsRemovedFromASet : Obligations.ClaimIsRemovedFromASet := by
  intro l c s t
  split
  · next absent => exact removeClaim_absent absent
  · next present =>
    have stands : s.claims l c = true := Bool.of_not_eq_false present
    refine ⟨removeClaim_only l c s, fun j => line_removeClaim l j c s, lineAsserted_removeClaim_eq_false_iff l c s,
      fun q => ?_⟩
    have sole : t.lineAsserted l = false ↔ claimCount (s.line l) = 1 := lineAsserted_removeClaim_eq_false_iff_sole stands
    rw [show t.queue q = _ from queue_removeClaim l c s q, releasedEvents_maskOfLine]
    cases asserted : t.lineAsserted l with
    | false => rw [if_pos ⟨stands, sole.mp asserted⟩, if_neg Bool.false_ne_true]
    | true =>
      have others : ¬claimCount (s.line l) = 1 := fun alone => by simp [sole.mpr alone] at asserted
      rw [if_neg fun both => others both.2, if_pos rfl]

/-! ### Masks (R195) -/

theorem lineMaskOf_eq_none {n : Nat} (outOfRange : 15 < n) : lineMaskOf n = none := by
  rw [lineMaskOf, if_neg (by omega)]

theorem lineMaskOf_toNat {mask : Byte} (inRange : mask.toNat ≤ 15) :
    lineMaskOf mask.toNat = some (mask.setWidth 4) := by
  rw [lineMaskOf, if_pos (by omega), BitVec.ofNat_toNat]

theorem maskByte_eq (mask : LineMask) : maskByte mask = mask.setWidth 8 := BitVec.ofNat_toNat ..

theorem getLsbD_maskOfLines (f : LineIdx → Bool) (l : LineIdx) : (maskOfLines f).getLsbD l = f l := by
  revert f l
  decide

theorem linesHolding_addClaims (mask : LineMask) (c : Claimant) (s : State) :
    (addClaims mask c s).linesHolding c = mask ||| linesWith s c := by
  apply BitVec.eq_of_getLsbD_eq
  intro i inMask
  have holding := getLsbD_maskOfLines (fun l => (addClaims mask c s).claims l c) ⟨i, inMask⟩
  have held := getLsbD_maskOfLines (fun l => s.claims l c) ⟨i, inMask⟩
  dsimp only at holding held
  rw [State.linesHolding, holding, linesWith, BitVec.getLsbD_or, held, claims_addClaims]
  simp [Bool.or_comm]

/-! ### CLAIM LINE (R151) -/

section Outcomes

variable {p : Port} {mask : Byte} {s : State}

theorem serveClaimLine_badField (outOfRange : 15 < mask.toNat) :
    serveClaimLine p [mask] s = (s, refusal .badField) := by
  have noMask : lineMaskOf (byteAt [mask] 0) = none := lineMaskOf_eq_none outOfRange
  simp only [serveClaimLine, noMask]

theorem serveClaimLine_claims (inRange : mask.toNat ≤ 15) :
    serveClaimLine p [mask] s = (addClaims (mask.setWidth 4) (.host p) s,
      okAnswer [(mask.setWidth 4 &&& ~~~linesWith s (.host p)).setWidth 8,
        (mask.setWidth 4 ||| linesWith s (.host p)).setWidth 8]) := by
  have read : lineMaskOf (byteAt [mask] 0) = some (mask.setWidth 4) := lineMaskOf_toNat inRange
  simp only [serveClaimLine, read, maskByte_eq, linesHolding_addClaims]
  rfl

/-! ### The owners of the release requests (R152 to R154) -/

theorem serveReleaseLine_badField (outOfRange : 15 < mask.toNat) :
    serveReleaseLine p [mask] s = (s, refusal .badField) := by
  have noMask : lineMaskOf (byteAt [mask] 0) = none := lineMaskOf_eq_none outOfRange
  simp only [serveReleaseLine, noMask]

theorem serveReleaseLine_releases (inRange : mask.toNat ≤ 15) :
    serveReleaseLine p [mask] s = releaseClaims (mask.setWidth 4) (.host p) s := by
  have read : lineMaskOf (byteAt [mask] 0) = some (mask.setWidth 4) := lineMaskOf_toNat inRange
  simp only [serveReleaseLine, read]

theorem serveReleaseStart_badField (outOfRange : 15 < mask.toNat) :
    serveReleaseStart p [mask] s = (s, refusal .badField) := by
  have noMask : lineMaskOf (byteAt [mask] 0) = none := lineMaskOf_eq_none outOfRange
  simp only [serveReleaseStart, noMask]

theorem serveReleaseStart_releases (inRange : mask.toNat ≤ 15) :
    serveReleaseStart p [mask] s = releaseClaims (mask.setWidth 4) .start s := by
  have read : lineMaskOf (byteAt [mask] 0) = some (mask.setWidth 4) := lineMaskOf_toNat inRange
  simp only [serveReleaseStart, read]

variable {port : Byte}

theorem readOrphan_eq_none (outOfRange : ¬(port.toNat < 4 ∧ mask.toNat ≤ 15)) : readOrphan [port, mask] = none := by
  simp only [readOrphan, byteAt, List.getD_cons_zero, List.getD_cons_succ, portOf]
  split
  · next inRange =>
    have noMask : lineMaskOf mask.toNat = none := lineMaskOf_eq_none (by omega)
    simp [noMask]
  · rfl

theorem readOrphan_eq_some (named : port.toNat < 4) (inRange : mask.toNat ≤ 15) :
    readOrphan [port, mask] = some { port := ⟨port.toNat, named⟩, mask := mask.setWidth 4 } := by
  simp only [readOrphan, byteAt, List.getD_cons_zero, List.getD_cons_succ, portOf, dif_pos named,
    lineMaskOf_toNat inRange]
  rfl

theorem serveReleaseOrphan_badField (fields : readOrphan [port, mask] = none) :
    serveReleaseOrphan p [port, mask] s = (s, refusal .badField) := by
  simp only [serveReleaseOrphan, fields]

theorem serveReleaseOrphan_notOrphan {f : OrphanFields} (fields : readOrphan [port, mask] = some f)
    (attached : s.attached f.port = true) : serveReleaseOrphan p [port, mask] s = (s, refusal .notOrphan) := by
  simp only [serveReleaseOrphan, fields, attached, if_true]

theorem serveReleaseOrphan_releases {f : OrphanFields} (fields : readOrphan [port, mask] = some f)
    (detached : s.attached f.port = false) :
    serveReleaseOrphan p [port, mask] s = releaseClaims f.mask (.host f.port) s := by
  simp only [serveReleaseOrphan, fields, detached, Bool.false_eq_true, if_false]

end Outcomes

/-- What the three release requests share: the answer, the lines that lose the claimant, and that nothing else changes. -/
theorem releaseClaims_atOwner (p : Port) (lines : LineMask) (x : Claimant) (s : State) :
    ∃ t, releaseClaims lines x (atOwner p s) =
        (t, okAnswer [(lines &&& linesWith s x).setWidth 8, (linesUp t).setWidth 8]) ∧
      t = { atOwner p s with lines := t.lines, queues := t.queues } ∧ ClaimsRemoved lines x [] s t := by
  refine ⟨removeClaims lines x (atOwner p s), ?_, removeClaims_only ..,
    claimsRemoved_of_atOwner (removeClaims_claimsRemoved ..)⟩
  simp only [releaseClaims, maskByte_eq]
  rfl

/-! ### The requests on the part -/

section Requests

variable {p : Port} {tag mask port : Byte} {s t : State} {a : Answer}

theorem exec_claimLine (asks : Asks p tag 0x50 [mask] s) (served : serveClaimLine p [mask] (atOwner p s) = (t, a)) :
    exec (.claimLine p tag [mask]) s = .next (answered p tag 0x50 [mask] a t) :=
  ResultRing.frameRow_served .claimLine asks rfl served

theorem exec_releaseLine (asks : Asks p tag 0x51 [mask] s)
    (served : serveReleaseLine p [mask] (atOwner p s) = (t, a)) :
    exec (.releaseLine p tag [mask]) s = .next (answered p tag 0x51 [mask] a t) :=
  ResultRing.frameRow_served .releaseLine asks rfl served

theorem exec_releaseStart (asks : Asks p tag 0x52 [mask] s)
    (served : serveReleaseStart p [mask] (atOwner p s) = (t, a)) :
    exec (.releaseStart p tag [mask]) s = .next (answered p tag 0x52 [mask] a t) :=
  ResultRing.frameRow_served .releaseStart asks rfl served

theorem exec_releaseOrphan (asks : Asks p tag 0x53 [port, mask] s)
    (served : serveReleaseOrphan p [port, mask] (atOwner p s) = (t, a)) :
    exec (.releaseOrphan p tag [port, mask]) s = .next (answered p tag 0x53 [port, mask] a t) :=
  ResultRing.frameRow_served .releaseOrphan asks rfl served

end Requests

/-- Settles O47: the mask decides, and the additions to its lines are one after another. -/
theorem claimLineAddsTheHostClaim : Obligations.ClaimLineAddsTheHostClaim := by
  intro p tag mask s asks c lines
  split
  · next outOfRange => exact exec_claimLine asks (serveClaimLine_badField outOfRange)
  · next inRange =>
    exact ⟨_, exec_claimLine asks (serveClaimLine_claims (Nat.not_lt.mp inRange)), addClaims_only ..,
      claimsAdded_of_atOwner (addClaims_claimsAdded ..)⟩

/-- Settles O48: each owner checks its fields and then is the shared release of its claimant. -/
theorem releaseRequestsRemoveOneClaimant : Obligations.ReleaseRequestsRemoveOneClaimant := by
  intro p tag mask port s lines releases
  refine ⟨fun asks => ?_, fun asks => ?_, fun asks => ?_⟩
  · split
    · next outOfRange => exact exec_releaseLine asks (serveReleaseLine_badField outOfRange)
    · next inRange =>
      obtain ⟨t, released, effect⟩ := releaseClaims_atOwner p lines (.host p) s
      exact ⟨t, exec_releaseLine asks ((serveReleaseLine_releases (Nat.not_lt.mp inRange)).trans released), effect⟩
  · split
    · next outOfRange => exact exec_releaseStart asks (serveReleaseStart_badField outOfRange)
    · next inRange =>
      obtain ⟨t, released, effect⟩ := releaseClaims_atOwner p lines .start s
      exact ⟨t, exec_releaseStart asks ((serveReleaseStart_releases (Nat.not_lt.mp inRange)).trans released), effect⟩
  · intro c
    split
    · next inRange =>
      have fields := readOrphan_eq_some inRange.1 inRange.2
      have session := attached_atOwner p ⟨port.toNat, inRange.1⟩ s
      split
      · next attached => exact exec_releaseOrphan asks (serveReleaseOrphan_notOrphan fields (session.trans attached))
      · next notAttached =>
        have detached := session.trans (Bool.of_not_eq_true notAttached)
        obtain ⟨t, released, effect⟩ := releaseClaims_atOwner p lines (.host ⟨port.toNat, inRange.1⟩) s
        exact ⟨t, exec_releaseOrphan asks ((serveReleaseOrphan_releases fields detached).trans released), effect⟩
    · next outOfRange => exact exec_releaseOrphan asks (serveReleaseOrphan_badField (readOrphan_eq_none outOfRange))

end Sys2Proof.InhibitLines
end

section
/-!
PROOFS. What one command can do, said once: an inversion of `exec` (`Effect`), of a good frame (`Received`) and of an owner's
taking of a request (`Served`).  The invariants and frame rules of the whole part are case analyses on these.
-/

namespace Sys2Proof.StepEffects

open Sys2Proof.Machine Sys2Proof.Statement

/-! ### The owner's taking of a request -/

/-- What the owner of request `r` from port `p` can do to the state: nothing (a refusal or a report), or its one act, with
what its checks have found. -/
inductive Served (p : Port) (s : State) : Request → State → Prop
  | unchanged (r : Request) : Served p s r s
  | attach (f : AttachFields) : s.attached p = false → Served p s .attach (startSession p f s)
  | detach : holdsHostClaim p s = false → holdsMonitorClaim p s = false →
      Served p s .detach ((teardownBlocks p s).modPort p (fun h => { h with detaching := true }))
  | joinPoint (k : SlotIdx) (i : PointIdx) (f : DefineFields) (body : List Byte) : readDefine body = some f →
      lowestFreeSlot s p = some k → matchingPoint s f.key = some i → p ∉ (s.point i).subscribers →
      Served p s .definePoint (joinPoint p k i f.conditioning s)
  | createPoint (k : SlotIdx) (i : PointIdx) (f : DefineFields) (body : List Byte) : readDefine body = some f →
      lowestFreeSlot s p = some k → ¬(f.key.urgent = true ∧ Config.urgentRoom ≤ s.urgentInUse) →
      lowestFreePoint s = some i → Served p s .definePoint (createPoint p k i f s)
  | leavePoint (i : PointIdx) : live (s.point i) = true → p ∈ (s.point i).subscribers →
      Served p s .leavePoint (leavePoint p i s)
  | pause (i : PointIdx) : live (s.point i) = true → p ∈ (s.point i).subscribers →
      Served p s .pauseSubscription (modSubscription p i (fun u => { u with state := .paused }) s)
  | resume (i : PointIdx) : live (s.point i) = true → p ∈ (s.point i).subscribers →
      Served p s .resumeSubscription (modSubscription p i resumed s)
  | setConditioning (i : PointIdx) (c : Conditioning) : 1 ≤ c.decimation → live (s.point i) = true →
      p ∈ (s.point i).subscribers →
      Served p s .setConditioning (modSubscription p i (fun u =>
        { u with offset := c.offset, multiplier := c.multiplier, shift := c.shift, decimation := c.decimation,
                 counter := 0 }) s)
  | sampleNow (i : PointIdx) : live (s.point i) = true → p ∈ (s.point i).subscribers →
      (s.point i).key.trigger = .demand → Served p s .sampleNow (triggerPoint i s)
  | calibrate (g : Gain) : (s.job g).state = .none → Served p s .calibrate (queueJob p g s)
  | readResults (f : ReadResultsFields) : f.k ≤ 15 →
      Served p s .readResults (s.setRing p (ringRead (s.ring p) f).1)
  | ackResults : Served p s .ackResults (s.setRing p (ringRelease (s.ring p)))
  | readEvents (n : Nat) :
      Served p s .readEvents (s.setQueue p { events := (s.queue p).events.drop n, lost := 0 })
  | createMonitor (k : MonitorIdx) (f : MonitorFields) : 1 ≤ f.qualify → p ∈ (s.point f.point).subscribers →
      s.monitor k = none → Served p s .createMonitor (s.setMonitor k (some (newMonitor p f)))
  | deleteMonitor (k : MonitorIdx) (m : Monitor) : s.monitor k = some m → m.creator = p →
      Served p s .deleteMonitor (deleteMonitor k s)
  | clearMonitorClaim (k : MonitorIdx) (m : Monitor) : s.monitor k = some m → m.state ≠ .out →
      Served p s .clearMonitorClaim (clearClaim k m s)
  | claimLine (mask : LineMask) : Served p s .claimLine (addClaims mask (.host p) s)
  | releaseLine (mask : LineMask) : Served p s .releaseLine (removeClaims mask (.host p) s)
  | releaseStart (mask : LineMask) : Served p s .releaseStart (removeClaims mask .start s)
  | releaseOrphan (mask : LineMask) (h : Port) : s.attached h = false →
      Served p s .releaseOrphan (removeClaims mask (.host h) s)
  | takeTrip (k : TripIdx) : (s.comparator k).holder = none →
      Served p s .takeTrip (s.modComparator k (fun c => { c with holder := some p }))
  | setTrip (k : TripIdx) (config : TripConfig) (enable : Bool) : (s.comparator k).state ≠ .fired →
      Served p s .setTrip (s.modComparator k (configured config enable))
  | giveTrip (k : TripIdx) : Served p s .giveTrip (s.modComparator k (fun c => { c with holder := none }))
  | clearTrip (k : TripIdx) : (s.comparator k).state = .fired → Served p s .clearTrip (clearComparator k s)

theorem subscribedPoint_eq_ok {p : Port} {body : List Byte} {s : State} {i : PointIdx}
    (h : subscribedPoint p body s = .ok i) :
    pointIndexOf (byteAt body 0) = some i ∧ live (s.point i) = true ∧ p ∈ (s.point i).subscribers := by
  unfold subscribedPoint at h
  split at h
  · cases h
  · next j index =>
    split at h
    · split at h
      · cases h; exact ⟨index, ‹_›, ‹_›⟩
      · cases h
    · cases h

theorem readConditioning_inRange {body : List Byte} {k : Nat} {c : Conditioning} (h : readConditioning body k = some c) :
    c.shift ≤ 15 ∧ 1 ≤ c.decimation ∧ c.decimation ≤ 256 := by
  unfold readConditioning at h
  dsimp only at h
  split at h
  · next inRange => cases h; exact inRange
  · cases h

theorem readReadResults_inRange {body : List Byte} {f : ReadResultsFields} (h : readReadResults body = some f) :
    1 ≤ f.k ∧ f.k ≤ 15 := by
  unfold readReadResults at h
  obtain ⟨b, -, h⟩ := Option.bind_eq_some_iff.mp h
  dsimp only at h
  split at h
  · next inRange => cases h; exact inRange
  · cases h

theorem readMonitor_inRange {body : List Byte} {f : MonitorFields} (h : readMonitor body = some f) : 1 ≤ f.qualify := by
  unfold readMonitor at h
  obtain ⟨i, -, h⟩ := Option.bind_eq_some_iff.mp h
  obtain ⟨a, -, h⟩ := Option.bind_eq_some_iff.mp h
  dsimp only at h
  split at h
  · next inRange => cases h; exact inRange.2.1
  · cases h

theorem createdMonitor_eq_ok {p : Port} {body : List Byte} {s : State} {k : MonitorIdx} {m : Monitor}
    (h : createdMonitor p body s = .ok (k, m)) : s.monitor k = some m ∧ m.creator = p := by
  unfold createdMonitor at h
  split at h
  · cases h
  · split at h
    · cases h
    · split at h
      · cases h; exact ⟨‹_›, ‹_›⟩
      · cases h

theorem serveDefinePoint_served (p : Port) (body : List Byte) (s : State) :
    Served p s .definePoint (serveDefinePoint p body s).1 := by
  unfold serveDefinePoint
  split
  · exact .unchanged _
  · next f fields =>
    split
    · exact .unchanged _
    · next k slot =>
      split
      · next i found =>
        split
        · exact .unchanged _
        · next joins => exact .joinPoint k i f body fields slot found joins
      · split
        · exact .unchanged _
        · next room =>
          split
          · exact .unchanged _
          · next i entry => exact .createPoint k i f body fields slot room entry

theorem serveDetach_served (p : Port) (body : List Byte) (s : State) :
    Served p s .detach (serveDetach p body s).1 := by
  unfold serveDetach
  split
  · exact .unchanged _
  · next free =>
    simp only [Bool.or_eq_true, not_or, Bool.not_eq_true] at free
    exact .detach free.1 free.2

theorem serveCreateMonitor_served (p : Port) (body : List Byte) (s : State) :
    Served p s .createMonitor (serveCreateMonitor p body s).1 := by
  unfold serveCreateMonitor
  split
  · exact .unchanged _
  · next f fields =>
    split
    · split
      · next subscribed =>
        split
        · exact .unchanged _
        · next k entry =>
          have free := ((LimitMonitors.lowestFreeMonitor_eq_some s k).mp entry).1
          exact .createMonitor k f (readMonitor_inRange fields) subscribed free
      · exact .unchanged _
    · exact .unchanged _

theorem serveSetTrip_served (p : Port) (body : List Byte) (s : State) :
    Served p s .setTrip (serveSetTrip p body s).1 := by
  unfold serveSetTrip
  split
  · exact .unchanged _
  · split
    · split
      · exact .unchanged _
      · next calm => exact .setTrip _ _ _ calm
    · exact .unchanged _

theorem serveClearTrip_served (p : Port) (body : List Byte) (s : State) :
    Served p s .clearTrip (serveClearTrip p body s).1 := by
  unfold serveClearTrip
  split
  · exact .unchanged _
  · split
    · next fired =>
      split
      · exact .unchanged _
      · exact .clearTrip _ fired
    · exact .unchanged _

theorem serveTakeTrip_served (p : Port) (body : List Byte) (s : State) :
    Served p s .takeTrip (serveTakeTrip p body s).1 := by
  unfold serveTakeTrip
  split
  · exact .unchanged _
  · split
    · next unheld => exact .takeTrip _ unheld
    · split <;> exact .unchanged _

/-- What the owner of a request can do. -/
theorem serve_served (r : Request) (p : Port) (body : List Byte) (s : State) : Served p s r (serve r p body s).1 := by
  cases r
  case attach =>
    simp only [serve, serveAttach]
    split
    · exact .unchanged _
    · split
      · exact .unchanged _
      · next detached => exact .attach _ (Bool.eq_false_iff.mpr detached)
  case detach => exact serveDetach_served p body s
  case definePoint => exact serveDefinePoint_served p body s
  case leavePoint =>
    simp only [serve, serveLeavePoint]
    split
    · exact .unchanged _
    · next i ok => obtain ⟨-, alive, subscribed⟩ := subscribedPoint_eq_ok ok; exact .leavePoint i alive subscribed
  case pauseSubscription =>
    simp only [serve, servePause]
    split
    · exact .unchanged _
    · next i ok => obtain ⟨-, alive, subscribed⟩ := subscribedPoint_eq_ok ok; exact .pause i alive subscribed
  case resumeSubscription =>
    simp only [serve, serveResume]
    split
    · exact .unchanged _
    · next i ok => obtain ⟨-, alive, subscribed⟩ := subscribedPoint_eq_ok ok; exact .resume i alive subscribed
  case setConditioning =>
    simp only [serve, serveSetConditioning]
    split
    · exact .unchanged _
    · next c fields =>
      split
      · exact .unchanged _
      · next i ok =>
        obtain ⟨-, alive, subscribed⟩ := subscribedPoint_eq_ok ok
        exact .setConditioning i c (readConditioning_inRange fields).2.1 alive subscribed
  case sampleNow =>
    simp only [serve, serveSampleNow]
    split
    · exact .unchanged _
    · next i ok =>
      split
      · next demand =>
        obtain ⟨-, alive, subscribed⟩ := subscribedPoint_eq_ok ok
        exact .sampleNow i alive subscribed demand
      · exact .unchanged _
  case calibrate =>
    simp only [serve, serveCalibrate]
    split
    · exact .unchanged _
    · next g _ =>
      split
      · next idle => exact .calibrate g idle
      · exact .unchanged _
  case readResults =>
    simp only [serve, serveReadResults]
    split
    · exact .unchanged _
    · next f fields => exact .readResults f (readReadResults_inRange fields).2
  case ackResults =>
    simp only [serve, serveAckResults]
    split
    · exact .ackResults
    · exact .unchanged _
  case readEvents =>
    simp only [serve, serveReadEvents]
    split
    · exact .unchanged _
    · exact .readEvents _
  case createMonitor => exact serveCreateMonitor_served p body s
  case deleteMonitor =>
    simp only [serve, serveDeleteMonitor]
    split
    · exact .unchanged _
    · next k m ok => obtain ⟨entry, own⟩ := createdMonitor_eq_ok ok; exact .deleteMonitor k m entry own
  case clearMonitorClaim =>
    simp only [serve, serveClearMonitorClaim]
    split
    · exact .unchanged _
    · next k m ok =>
      split
      · exact .unchanged _
      · next calm => exact .clearMonitorClaim k m (createdMonitor_eq_ok ok).1 calm
  case claimLine =>
    simp only [serve, serveClaimLine]
    split
    · exact .unchanged _
    · exact .claimLine _
  case releaseLine =>
    simp only [serve, serveReleaseLine]
    split
    · exact .unchanged _
    · exact .releaseLine _
  case releaseStart =>
    simp only [serve, serveReleaseStart]
    split
    · exact .unchanged _
    · exact .releaseStart _
  case releaseOrphan =>
    simp only [serve, serveReleaseOrphan]
    split
    · exact .unchanged _
    · split
      · exact .unchanged _
      · next orphan => exact .releaseOrphan _ _ (Bool.eq_false_iff.mpr orphan)
  case takeTrip => exact serveTakeTrip_served p body s
  case setTrip => exact serveSetTrip_served p body s
  case giveTrip =>
    simp only [serve, serveGiveTrip]
    split
    · exact .unchanged _
    · split
      · exact .giveTrip _
      · exact .unchanged _
  case clearTrip => exact serveClearTrip_served p body s
  case pointStatus =>
    simp only [serve, servePointStatus]
    split <;> exact .unchanged _
  all_goals exact .unchanged _

/-! ### A good frame -/

/-- What a good frame on port `p` can bring about: on a READY port the cached response again, a refusal by the common
checks, or the owner's act and its answer; on an EXECUTING port a BUSY reply that waits, or a discarded frame. -/
inductive Received (p : Port) (tag code : Byte) (body : List Byte) (s : State) : State → Prop
  | resent (response : List Byte) : (s.port p).request = .ready → Received p tag code body s
      ((atOwner p s).modPort p (fun h => { h with sending := some (transmission response) }))
  | refused (e : Status) : (s.port p).request = .ready →
      Received p tag code body s (answered p tag code body (refusal e) (atOwner p s))
  | served (r : Request) (a : Answer) (u : State) : (s.port p).request = .ready → requestOf code = some r →
      s.attached p = true ∨ servedDetached r = true → Served p (atOwner p s) r u →
      Received p tag code body s (answered p tag code body a u)
  | busyWaits : (s.port p).request = .executing → (s.port p).busy = none → Received p tag code body s
      ((receiverHunts p s).modPort p (fun h => { h with busy := some (tag, code) }))
  | discarded : (s.port p).request = .executing → Received p tag code body s (discardFrame p s)

theorem port_receiverHunts (p : Port) (s : State) :
    (receiverHunts p s).port p = { s.port p with receiver := .hunting false, interByte := none } := by
  simp [receiverHunts, State.modPort]

theorem executeFrame_received (p : Port) (tag code : Byte) (body : List Byte) (s : State)
    (ready : (s.port p).request = .ready) :
    Received p tag code body s (executeFrame p tag code body (receiverHunts p s)) := by
  unfold executeFrame
  rw [receiverHunts_executing]
  dsimp only
  split
  · next response _ => exact .resent response ready
  · unfold answerRequest
    dsimp only
    split
    · exact .refused .notAttached ready
    · next session =>
      split
      · exact .refused .unknownRequest ready
      · next r named =>
        split
        · refine .served r _ _ ready named ?_ (serve_served r p body (atOwner p s))
          simp only [named, sessionRefuses, attached_atOwner] at session
          revert session
          cases s.attached p <;> simp
        · exact .refused .badLength ready

/-- What a good frame can bring about. -/
theorem goodFrame_received (p : Port) (tag code : Byte) (body : List Byte) (s : State) :
    Received p tag code body s (goodFrame p tag code body s) := by
  unfold goodFrame
  dsimp only
  have request : ((receiverHunts p s).port p).request = (s.port p).request := by rw [port_receiverHunts]
  split
  · next ready => exact executeFrame_received p tag code body s (request.symm.trans ready)
  · next executing =>
    unfold busyFrameTaken
    split
    · next waits =>
      rw [port_receiverHunts] at waits
      exact .busyWaits (request.symm.trans executing) waits
    · exact .discarded (request.symm.trans executing)

/-! ### A command -/

/-- The row of a request (R199). -/
def requestInstr : Request → Port → Byte → List Byte → Instr
  | .attach => .attach | .detach => .detach | .ping => .ping | .partStatus => .partStatus
  | .definePoint => .definePoint | .leavePoint => .leavePoint | .pauseSubscription => .pauseSubscription
  | .resumeSubscription => .resumeSubscription | .setConditioning => .setConditioning | .pointStatus => .pointStatus
  | .listSubscriptions => .listSubscriptions | .sampleNow => .sampleNow | .calibrate => .calibrate
  | .trimStatus => .trimStatus | .readResults => .readResults | .ackResults => .ackResults | .readEvents => .readEvents
  | .createMonitor => .createMonitor | .deleteMonitor => .deleteMonitor | .clearMonitorClaim => .clearMonitorClaim
  | .monitorStatus => .monitorStatus | .claimLine => .claimLine | .releaseLine => .releaseLine
  | .releaseStart => .releaseStart | .releaseOrphan => .releaseOrphan | .lineStatus => .lineStatus
  | .takeTrip => .takeTrip | .setTrip => .setTrip | .giveTrip => .giveTrip | .clearTrip => .clearTrip
  | .tripStatus => .tripStatus

/-- The row of a request is the row of its frame. -/
theorem exec_requestInstr (r : Request) (p : Port) (tag : Byte) (body : List Byte) (s : State) :
    exec (requestInstr r p tag body) s = frameRow p tag (requestCode r) body s := by cases r <;> rfl

theorem goodFrameOf_requestInstr (r : Request) (p : Port) (tag : Byte) (body : List Byte) :
    goodFrameOf (requestInstr r p tag body) = some (p, tag, requestCode r, body) := by cases r <;> rfl

/-- What one command can do: nothing, or the one act of its row, on a released part but for the two reset rows. -/
inductive Effect (s : State) : Instr → State → Prop
  | nothing (c : Instr) : Effect s c s
  | fullReset : Effect s .fullReset { State.reset with pins := s.pins, draws := s.draws, pending := s.pending }
  | resetRelease (share cdiv baud : StrapCode) (levels : Vector Bool 6) : s.resetLow = true →
      Effect s (.resetRelease share cdiv baud levels)
        { s with resetLow := false, share, cdiv, baud, clkPhase := 0, timebase := 0,
                 pins := { s.pins with trg := levels }, trgLevels := levels, trgSamples := levels }
  | trgEdge (n : TrgIdx) (edge : Edge) : s.trgLevels[n] ≠ levelAfter edge →
      Effect s (.trgEdge n edge) (edgeAccepted n edge s)
  | periodicExpiry (i : PointIdx) (period : Nat) : (s.point i).key.trigger = .periodic period →
      live (s.point i) = true → (s.point i).countdown = some 0 →
      Effect s (.periodicExpiry i) (triggerPoint i (s.modPoint i (fun e => { e with countdown := some (8 * period) })))
  | delayExpiry (i : PointIdx) : (s.point i).state = .delaying → (s.point i).delayTimer = some 0 →
      Effect s (.delayExpiry i) (becomeDue i s)
  | completion (level : Level) (b : Burst) : s.converter = some b →
      Effect s (.conversionCompletion level) (completeConversion b (completionCode b level s) s)
  | tripFiring (k : TripIdx) (output : Bool) : Effect s (.tripFiring k) (takeSample k output s)
  | comparatorSample (k : TripIdx) (input : SampledInput) (i : Fin 16) (output : Bool) :
      Effect s (.comparatorSample k input) (takeSample k output (s.driveAin i input.level))
  | framingError (p : Port) (cause : FramingCause) : Effect s (.framingError p cause) (malformedFrame p cause s)
  | interByteTimeout (p : Port) : Effect s (.interByteTimeout p) (interByteExpires p s)
  | responseSent (p : Port) : (s.port p).request = .executing → Effect s (.responseSent p) (responseEnds p s)
  | supervisionExpiry (p : Port) : supervisionExpired p s = true → Effect s (.supervisionExpiry p) (sessionLost p s)
  | byteTaken (p : Port) (b : Byte) : Effect s (.byteTaken p b) (takeByte p b s)
  | request (r : Request) (p : Port) (tag : Byte) (body : List Byte) :
      Effect s (requestInstr r p tag body) (goodFrame p tag (requestCode r) body s)
  | unknownRequest (p : Port) (tag code : Byte) (body : List Byte) : requestOf code = none →
      Effect s (.unknownRequest p tag code body) (goodFrame p tag code body s)
  | busyReply (p : Port) (tag code : Byte) (body : List Byte) : (s.port p).request = .executing →
      Effect s (.busyReply p tag code body) (goodFrame p tag code body s)

/-- While RST_N is low a command has no effect, and else its act. -/
theorem effect_whenReleased {c : Instr} {f : State → State} {s t : State} (h : whenReleased f s = .next t)
    (act : s.resetLow = false → Effect s c (f s)) : Effect s c t := by
  rw [whenReleased_next] at h
  cases h
  split
  · exact .nothing c
  · next released => exact act (Bool.eq_false_iff.mpr released)

/-- The row of a frame does nothing, or takes the frame. -/
theorem effect_frameRow {c : Instr} {p : Port} {tag code : Byte} {body : List Byte} {s t : State}
    (h : frameRow p tag code body s = .next t) (act : Effect s c (goodFrame p tag code body s)) : Effect s c t := by
  refine effect_whenReleased h fun _ => ?_
  split
  · exact act
  · exact .nothing c

theorem effect_request {r : Request} {p : Port} {tag : Byte} {body : List Byte} {s t : State}
    (h : exec (requestInstr r p tag body) s = .next t) : Effect s (requestInstr r p tag body) t := by
  rw [exec_requestInstr] at h
  exact effect_frameRow h (.request r p tag body)

theorem effect_edgeTaken (n : TrgIdx) (edge : Edge) (s : State) : Effect s (.trgEdge n edge) (edgeTaken n edge s) := by
  unfold edgeTaken
  split
  · exact .nothing _
  · next moves => exact .trgEdge n edge moves

theorem effect_periodicExpires (i : PointIdx) (s : State) : Effect s (.periodicExpiry i) (periodicExpires i s) := by
  unfold periodicExpires
  split
  · next period kind =>
    split
    · next occurs =>
      simp only [Bool.and_eq_true, expired, beq_iff_eq] at occurs
      exact .periodicExpiry i period kind occurs.1 occurs.2
    · exact .nothing _
  all_goals exact .nothing _

theorem effect_delayExpires (i : PointIdx) (s : State) : Effect s (.delayExpiry i) (delayExpires i s) := by
  unfold delayExpires
  split
  · next occurs =>
    obtain ⟨delaying, ends⟩ := occurs
    exact .delayExpiry i delaying (by simpa [expired] using ends)
  · exact .nothing _

/-- What a command that answers a next state has done. -/
theorem effect_of_exec {c : Instr} {s t : State} (h : exec c s = .next t) : Effect s c t := by
  cases c
  case fullReset => cases h; exact .fullReset
  case resetRelease share cdiv baud levels =>
    simp only [exec, execResetRelease] at h
    split at h
    · next low => cases h; exact .resetRelease share cdiv baud levels low
    · cases h; exact .nothing _
  case trgEdge n edge => exact effect_whenReleased h fun _ => effect_edgeTaken n edge s
  case periodicExpiry i => exact effect_whenReleased h fun _ => effect_periodicExpires i s
  case delayExpiry i => exact effect_whenReleased h fun _ => effect_delayExpires i s
  case conversionCompletion level =>
    simp only [exec, execConversionCompletion] at h
    refine effect_whenReleased h fun _ => ?_
    split
    · next b holds => exact .completion level b holds
    · exact .nothing _
  case tripFiring k => exact effect_whenReleased h fun _ => .tripFiring k _
  case comparatorSample k input =>
    simp only [exec, execComparatorSample] at h
    exact effect_whenReleased h fun _ => .comparatorSample k input _ _
  case framingError p cause => exact effect_whenReleased h fun _ => .framingError p cause
  case interByteTimeout p => exact effect_whenReleased h fun _ => .interByteTimeout p
  case responseSent p =>
    simp only [exec, execResponseSent] at h
    refine effect_whenReleased h fun _ => ?_
    split
    · next executing => exact .responseSent p executing
    · exact .nothing _
  case supervisionExpiry p =>
    refine effect_whenReleased h fun _ => ?_
    split
    · next expires => exact .supervisionExpiry p expires
    · exact .nothing _
  case byteTaken p b => exact effect_whenReleased h fun _ => .byteTaken p b
  case busyReply p tag code body =>
    simp only [exec, execBusyReply] at h
    split at h
    · next executing => exact effect_frameRow h (.busyReply p tag code body executing)
    · cases h; exact .nothing _
  case unknownRequest p tag code body =>
    simp only [exec, execUnknownRequest] at h
    split at h
    · next unknown => exact effect_frameRow h (.unknownRequest p tag code body (by simpa using unknown))
    · cases h; exact .nothing _
  case attach p tag body => exact effect_request (r := .attach) h
  case detach p tag body => exact effect_request (r := .detach) h
  case ping p tag body => exact effect_request (r := .ping) h
  case partStatus p tag body => exact effect_request (r := .partStatus) h
  case definePoint p tag body => exact effect_request (r := .definePoint) h
  case leavePoint p tag body => exact effect_request (r := .leavePoint) h
  case pauseSubscription p tag body => exact effect_request (r := .pauseSubscription) h
  case resumeSubscription p tag body => exact effect_request (r := .resumeSubscription) h
  case setConditioning p tag body => exact effect_request (r := .setConditioning) h
  case pointStatus p tag body => exact effect_request (r := .pointStatus) h
  case listSubscriptions p tag body => exact effect_request (r := .listSubscriptions) h
  case sampleNow p tag body => exact effect_request (r := .sampleNow) h
  case calibrate p tag body => exact effect_request (r := .calibrate) h
  case trimStatus p tag body => exact effect_request (r := .trimStatus) h
  case readResults p tag body => exact effect_request (r := .readResults) h
  case ackResults p tag body => exact effect_request (r := .ackResults) h
  case readEvents p tag body => exact effect_request (r := .readEvents) h
  case createMonitor p tag body => exact effect_request (r := .createMonitor) h
  case deleteMonitor p tag body => exact effect_request (r := .deleteMonitor) h
  case clearMonitorClaim p tag body => exact effect_request (r := .clearMonitorClaim) h
  case monitorStatus p tag body => exact effect_request (r := .monitorStatus) h
  case claimLine p tag body => exact effect_request (r := .claimLine) h
  case releaseLine p tag body => exact effect_request (r := .releaseLine) h
  case releaseStart p tag body => exact effect_request (r := .releaseStart) h
  case releaseOrphan p tag body => exact effect_request (r := .releaseOrphan) h
  case lineStatus p tag body => exact effect_request (r := .lineStatus) h
  case takeTrip p tag body => exact effect_request (r := .takeTrip) h
  case setTrip p tag body => exact effect_request (r := .setTrip) h
  case giveTrip p tag body => exact effect_request (r := .giveTrip) h
  case clearTrip p tag body => exact effect_request (r := .clearTrip) h
  case tripStatus p tag body => exact effect_request (r := .tripStatus) h

end Sys2Proof.StepEffects
end

section
/-!
PROOFS. Which fields no command but a reset changes, and from that what only a reset restores: the straps, the timebase, the
line of commands, and (but for a conversion completion) the trim table.
-/

namespace Sys2Proof.Machine

/-! ### Frames of the departure operations -/

/-- `t` is `s` but for points and waiting places. -/
def OnlyPlaces (s t : State) : Prop :=
  t = { s with points := t.points, urgentQueue := t.urgentQueue, fifos := t.fifos, suspended := t.suspended }

theorem OnlyPlaces.lines {s t : State} (h : OnlyPlaces s t) : t.lines = s.lines := by rw [h]
theorem OnlyPlaces.monitor {s t : State} (h : OnlyPlaces s t) (k : MonitorIdx) : t.monitor k = s.monitor k := by
  rw [h]; rfl
theorem OnlyPlaces.slot {s t : State} (h : OnlyPlaces s t) (p : Port) (k : SlotIdx) : t.slot p k = s.slot p k := by
  rw [h]; rfl
theorem OnlyPlaces.queue {s t : State} (h : OnlyPlaces s t) (p : Port) : t.queue p = s.queue p := by rw [h]; rfl

/-- The leaving of a list moves points and waiting places alone (R17, R18). -/
theorem leaveList_places (p : Port) (i : PointIdx) (s : State) : OnlyPlaces s (leaveList p i s) := by
  unfold leaveList
  dsimp only
  split
  · unfold listEmptied freePoint retirePoint dequeueDue
    split
    any_goals rfl
    split <;> rfl
  · split
    · unfold handover; split <;> rfl
    · rfl

theorem OnlyScheduling.lines {s t : State} (h : OnlyScheduling s t) : t.lines = s.lines := by rw [h]
theorem OnlyTrigger.lines {s t : State} (h : OnlyTrigger s t) : t.lines = s.lines := by rw [h]
theorem OnlyPort.lines {p : Port} {s t : State} (h : OnlyPort p s t) : t.lines = s.lines := by rw [h]; rfl
theorem OnlyFinalize.trimEntry {s t : State} (h : OnlyFinalize s t) (g : Gain) : t.trimEntry g = s.trimEntry g := by
  rw [h]; rfl
theorem OnlyQueues.trimEntry {s t : State} (h : OnlyQueues s t) (g : Gain) : t.trimEntry g = s.trimEntry g := by
  rw [h]; rfl

end Sys2Proof.Machine

namespace Sys2Proof.StepFrames

open Sys2Proof.Machine Sys2Proof.Statement Sys2Proof.StepEffects

/-- `t` is `s` but for what the act of a command can change: straps, RST_N, clock, trim table, draw counter and the line of
commands are those of `s`. -/
def Settled (s t : State) : Prop :=
  t = { s with pins := t.pins, trgLevels := t.trgLevels, trgSamples := t.trgSamples, points := t.points, subs := t.subs,
               urgentQueue := t.urgentQueue, fifos := t.fifos, suspended := t.suspended, converter := t.converter,
               decisionDue := t.decisionDue, wheelPosition := t.wheelPosition, urgentGrants := t.urgentGrants,
               wheelGrants := t.wheelGrants, conversion := t.conversion, lastGain := t.lastGain, jobs := t.jobs,
               rings := t.rings, queues := t.queues, monitors := t.monitors, lines := t.lines,
               comparators := t.comparators, ports := t.ports }

theorem Settled.refl (s : State) : Settled s s := rfl

theorem Settled.trans {s t u : State} (h : Settled s t) (k : Settled t u) : Settled s u := by
  unfold Settled at *; rw [k]; rw [h]

/-! ### The frames of the shared operations -/

theorem settled_of_onlyTrigger {s t : State} (h : OnlyTrigger s t) : Settled s t := by
  unfold OnlyTrigger OnlyScheduling at h; unfold Settled; rw [h]

theorem settled_of_onlyScheduling {s t : State} (h : OnlyScheduling s t) : Settled s t := by
  unfold OnlyScheduling at h; unfold Settled; rw [h]

theorem settled_of_onlyDeparture {s t : State} (h : OnlyDeparture s t) : Settled s t := by
  unfold OnlyDeparture at h; unfold Settled; rw [h]

theorem settled_of_onlyMonitors {s t : State} (h : OnlyMonitors s t) : Settled s t := by
  unfold OnlyMonitors at h; unfold Settled; rw [h]

theorem settled_of_onlyPort {p : Port} {s t : State} (h : OnlyPort p s t) : Settled s t := by
  unfold OnlyPort at h; unfold Settled; rw [h]; rfl

theorem settled_edgeAtPoint (n : TrgIdx) (edge : Edge) (i : PointIdx) (s : State) : Settled s (edgeAtPoint n edge i s) := by
  unfold edgeAtPoint
  split
  · rfl
  · split
    · exact Settled.trans (t := s.modPoint i _) rfl (settled_of_onlyTrigger (triggerPoint_only ..))
    · rfl

theorem settled_edgeAccepted (n : TrgIdx) (edge : Edge) (s : State) : Settled s (edgeAccepted n edge s) :=
  Settled.trans (t := acceptLevel n (levelAfter edge) s) rfl
    (foldl_rel Settled _ Settled.refl (fun _ _ _ => Settled.trans) (fun s i => settled_edgeAtPoint n edge i s) _ _)

theorem settled_takeSample (k : TripIdx) (output : Bool) (s : State) : Settled s (takeSample k output s) := by
  unfold Settled; rw [takeSample_only]

theorem teardownBlocks_only (p : Port) (s : State) :
    teardownBlocks p s =
      { s with points := (teardownBlocks p s).points, subs := (teardownBlocks p s).subs,
               urgentQueue := (teardownBlocks p s).urgentQueue, fifos := (teardownBlocks p s).fifos,
               suspended := (teardownBlocks p s).suspended, jobs := (teardownBlocks p s).jobs,
               queues := (teardownBlocks p s).queues, monitors := (teardownBlocks p s).monitors,
               lines := (teardownBlocks p s).lines, comparators := (teardownBlocks p s).comparators } := by
  unfold teardownBlocks
  rw [unholdComparators_only, removeQueuedJobs_only, removeSubscriptions_only]

theorem settled_teardownBlocks (p : Port) (s : State) : Settled s (teardownBlocks p s) := by
  unfold Settled; rw [teardownBlocks_only]

theorem settled_teardownPort (kind : EventKind) (p : Port) (s : State) : Settled s (teardownPort kind p s) := by
  unfold Settled; rw [teardownPort_only]

theorem settled_responseEnds (p : Port) (s : State) : Settled s (responseEnds p s) := by
  refine Settled.trans ?_ (settled_of_onlyPort (afterResponse_only ..))
  split
  · exact settled_teardownPort ..
  · rfl

theorem settled_leavePoint (p : Port) (i : PointIdx) (s : State) : Settled s (leavePoint p i s) := by
  unfold leavePoint
  split
  · exact settled_of_onlyDeparture (removeSubscription_only ..)
  · rfl

theorem settled_modSubscription (p : Port) (i : PointIdx) (f : Subscription → Subscription) (s : State) :
    Settled s (modSubscription p i f s) := by
  unfold Settled; rw [modSubscription_only]

theorem queueJob_only (p : Port) (g : Gain) (s : State) : OnlyTrigger s (queueJob p g s) := by
  unfold queueJob
  generalize hq : enqueuePending p (.job g) (s.setJob g { s.job g with state := .queued, requester := some p }) = q
  have queued : OnlyTrigger s q := by rw [← hq]; rfl
  exact queued.trans (decideIfIdle_only q)

theorem settled_clearClaim (k : MonitorIdx) (m : Monitor) (s : State) : Settled s (clearClaim k m s) := by
  unfold clearClaim
  split
  · exact settled_of_onlyMonitors
      (OnlyMonitors.trans (t := s.setMonitor k _) rfl (removeClaim_only ..).onlyMonitors)
  · rfl

theorem settled_served {p : Port} {r : Request} {s t : State} (h : Served p s r t) : Settled s t := by
  cases h
  case detach => exact (settled_teardownBlocks p s).trans (settled_of_onlyPort (modPort_only ..))
  case leavePoint i _ _ => exact settled_leavePoint ..
  case pause => exact settled_modSubscription ..
  case resume => exact settled_modSubscription ..
  case setConditioning => exact settled_modSubscription ..
  case sampleNow => exact settled_of_onlyTrigger (triggerPoint_only ..)
  case calibrate => exact settled_of_onlyTrigger (queueJob_only ..)
  case deleteMonitor => exact settled_of_onlyMonitors (deleteMonitor_only ..)
  case clearMonitorClaim => exact settled_clearClaim ..
  case claimLine => exact settled_of_onlyMonitors (addClaims_only ..).onlyMonitors
  case releaseLine => exact settled_of_onlyMonitors (removeClaims_only ..).onlyMonitors
  case releaseStart => exact settled_of_onlyMonitors (removeClaims_only ..).onlyMonitors
  case releaseOrphan => exact settled_of_onlyMonitors (removeClaims_only ..).onlyMonitors
  case clearTrip => unfold Settled; rw [clearComparator_only]
  all_goals rfl

theorem settled_received {p : Port} {tag code : Byte} {body : List Byte} {s t : State}
    (h : Received p tag code body s t) : Settled s t := by
  cases h
  case served r a u _ _ _ served =>
    exact (Settled.trans (t := atOwner p s) rfl (settled_served served)).trans rfl
  case discarded => exact settled_of_onlyPort (discardFrame_only ..)
  all_goals rfl

/-- A byte moves the receiver on, ends a frame that is discarded, or completes a good frame (R174). -/
theorem takeByte_cases (p : Port) (b : Byte) (s : State) :
    OnlyPort p s (takeByte p b s) ∨ ∃ tag code body, takeByte p b s = goodFrame p tag code body s := by
  unfold takeByte
  split
  · split
    · exact .inl (modPort_only ..)
    · exact .inl (badStartByte_only ..)
  · split
    · exact .inl (modPort_only ..)
    · exact .inl (discardFrame_only ..)
  · split <;> exact .inl (modPort_only ..)
  · exact .inl (modPort_only ..)
  · unfold frameComplete
    split
    · split
      · exact .inr ⟨_, _, _, rfl⟩
      · exact .inl (discardFrame_only ..)
    · exact .inl (discardFrame_only ..)

theorem settled_takeByte (p : Port) (b : Byte) (s : State) : Settled s (takeByte p b s) := by
  rcases takeByte_cases p b s with h | ⟨tag, code, body, h⟩
  · exact settled_of_onlyPort h
  · rw [h]; exact settled_received (goodFrame_received ..)

/-! ### A conversion completion -/

/-- A completion changes what a command can change, and the trim table. -/
theorem settled_completeConversion (b : Burst) (code : ConverterCode) (s : State) :
    Settled { s with trims := (completeConversion b code s).trims } (completeConversion b code s) := by
  have grants : ∀ t : State, Settled t (grantDecision t) := fun t => settled_of_onlyScheduling (grantDecision_only t)
  have lift : ∀ t : State, Settled s t → Settled { s with trims := t.trims } t := fun t h => by
    unfold Settled at *; rw [h]
  unfold completeConversion
  split
  · refine lift _ (Settled.trans ?_ (grants _))
    obtain ⟨i | g, c, n⟩ := b <;> rfl
  · have takes : Settled s (takeCode b.subject code (sampleReading s) s) := by obtain ⟨i | g, c, n⟩ := b <;> rfl
    dsimp only
    generalize takeCode b.subject code (sampleReading s) s = t at takes ⊢
    split
    · have ends := endBurst_only b.subject t
      have after : burstEnds b.subject t = leaveDecisionDue (endBurst b.subject t) ∨
          OnlyScheduling (endBurst b.subject t) (burstEnds b.subject t) :=
        (burstEnds_cases b.subject t).imp_right fun h => by rw [h]; exact grantDecision_only _
      generalize burstEnds b.subject t = v at after ⊢
      generalize endBurst b.subject t = u at ends after
      rcases after with h | h
      · unfold Settled at *; rw [h, leaveDecisionDue, ends]; rw [takes]
      · unfold Settled OnlyScheduling at *; rw [h]; rw [ends]; rw [takes]
    · split
      · exact lift _ (takes.trans (settled_of_onlyScheduling (suspendBurst_only ..)))
      · refine lift _ (takes.trans ?_)
        unfold Settled; rw [beginConversionOf_only]

end Sys2Proof.StepFrames
end

section
/-!
PROOFS. How claimants enter and leave claim sets (R147): which claimants each shared operation can move, which ones each
command can, and from that the statements on START and on the owners of claims.
-/

namespace Sys2Proof.ClaimMoves

open Sys2Proof.Machine Sys2Proof.Statement Sys2Proof.StepEffects Sys2Proof.StepFrames

/-! ### Moves of claimants -/

/-- From `s` to `t` only claimants of which `enter` holds enter a claim set, and only those of which `leave` holds leave
one. -/
def ClaimsMove (enter leave : Claimant → Prop) (s t : State) : Prop :=
  ∀ (l : LineIdx) (c : Claimant),
    (s.claims l c = false → t.claims l c = true → enter c) ∧ (s.claims l c = true → t.claims l c = false → leave c)

section Moves

variable {enter leave : Claimant → Prop} {s t u : State}

theorem ClaimsMove.of_lines (h : t.lines = s.lines) : ClaimsMove enter leave s t := by
  intro l c
  have same : t.claims l c = s.claims l c := by simp only [State.claims, State.line, h]
  constructor <;> intro h1 h2 <;> simp_all

theorem ClaimsMove.refl (s : State) : ClaimsMove enter leave s s := .of_lines rfl

theorem ClaimsMove.trans (h : ClaimsMove enter leave s t) (k : ClaimsMove enter leave t u) :
    ClaimsMove enter leave s u := by
  intro l c
  obtain ⟨enters, leaves⟩ := h l c
  obtain ⟨enters', leaves'⟩ := k l c
  cases between : t.claims l c with
  | false => exact ⟨fun _ => enters' between, fun stands _ => leaves stands between⟩
  | true => exact ⟨fun absent _ => enters absent between, fun _ => leaves' between⟩

theorem ClaimsMove.mono {enter' leave' : Claimant → Prop} (h : ClaimsMove enter leave s t) (he : ∀ c, enter c → enter' c)
    (hl : ∀ c, leave c → leave' c) : ClaimsMove enter' leave' s t := fun l c =>
  ⟨fun absent stands => he c ((h l c).1 absent stands), fun stands absent => hl c ((h l c).2 stands absent)⟩

/-- A fold of operations that each move only such claimants. -/
theorem ClaimsMove.foldl {α : Type} {f : State → α → State} (h : ∀ s a, ClaimsMove enter leave s (f s a)) (xs : List α)
    (s : State) : ClaimsMove enter leave s (xs.foldl f s) :=
  foldl_rel (ClaimsMove enter leave) f .refl (fun _ _ _ => .trans) h xs s

theorem ClaimsMove.of_onlyQueues (h : OnlyQueues s t) : ClaimsMove enter leave s t := .of_lines (by rw [h])

theorem ClaimsMove.addClaim (l : LineIdx) {c : Claimant} (s : State) (h : enter c) :
    ClaimsMove enter leave s (addClaim l c s) := by
  intro m d
  rw [claims_addClaim]
  constructor
  · intro absent stands
    have : d = c := by simp_all
    exact this ▸ h
  · intro stands absent; simp [stands] at absent

theorem ClaimsMove.removeClaim (l : LineIdx) {c : Claimant} (s : State) (h : leave c) :
    ClaimsMove enter leave s (removeClaim l c s) := by
  intro m d
  rw [claims_removeClaim]
  constructor
  · intro absent stands; simp [absent] at stands
  · intro stands absent
    have : d = c := by simp_all
    exact this ▸ h

theorem ClaimsMove.addClaims (mask : LineMask) {c : Claimant} (s : State) (h : enter c) :
    ClaimsMove enter leave s (addClaims mask c s) := .foldl (fun s l => .addClaim l s h) _ _

theorem ClaimsMove.removeClaims (mask : LineMask) {c : Claimant} (s : State) (h : leave c) :
    ClaimsMove enter leave s (removeClaims mask c s) := .foldl (fun s l => .removeClaim l s h) _ _

/-- A deletion turns a claim of the monitor into one of its creator (R141). -/
theorem ClaimsMove.deleteMonitor {k : MonitorIdx} {m : Monitor} (entry : s.monitor k = some m) (he : enter (.host m.creator))
    (hl : leave (.monitor k)) : ClaimsMove enter leave s (deleteMonitor k s) := by
  unfold Machine.deleteMonitor
  simp only [entry]
  split
  · exact ((ClaimsMove.addClaim _ s he).trans (.removeClaim _ _ hl)).trans (.of_lines rfl)
  · exact .of_lines rfl

/-- The removal of a subscription converts claims of monitors of the port into its own (R142). -/
theorem ClaimsMove.removeSubscription (p : Port) (k : SlotIdx) (s : State) (he : enter (.host p))
    (hl : ∀ j, leave (.monitor j)) : ClaimsMove enter leave s (removeSubscription p k s) := by
  unfold Machine.removeSubscription
  split
  · exact .refl s
  · next u _ =>
    have deletes : ∀ t : State, ClaimsMove enter leave t (deleteMonitorsOn p u.point t) := by
      refine fun t => .foldl (fun v j => ?_) _ _
      split
      · next m entry =>
        split
        · next own => exact .deleteMonitor entry (own.1 ▸ he) (hl j)
        · exact .refl v
      · exact .refl v
    have leaves : ∀ t : State, (leaveList p u.point t).lines = t.lines := fun t => (leaveList_places ..).lines
    exact (ClaimsMove.of_lines (t := s.setSlot p k none) rfl).trans ((deletes _).trans (.of_lines (leaves _)))

theorem ClaimsMove.evaluateMonitor (k : MonitorIdx) (m : Monitor) (v : Nat) (s : State) (he : enter (.monitor k))
    (hl : leave (.monitor k)) : ClaimsMove enter leave s (evaluateMonitor k m v s) := by
  have setThenEvent : ∀ (m' : Monitor) (kind : EventKind) (dest : Port → Bool), ClaimsMove enter leave s
      (formEvent kind k.val v dest (s.setMonitor k (some m'))) := fun m' kind dest =>
    (ClaimsMove.of_lines (t := s.setMonitor k (some m')) rfl).trans (.of_onlyQueues (formEvent_only ..))
  have trips : ClaimsMove enter leave s (monitorTrips k m v s) := by
    unfold monitorTrips
    dsimp only
    split
    · exact (setThenEvent _ _ _).trans (.addClaim _ _ he)
    · exact setThenEvent _ _ _
  have counts : ClaimsMove enter leave s (monitorCounts k m v s) := by
    unfold monitorCounts
    split
    · exact trips
    · exact .of_lines rfl
  have recovers : ClaimsMove enter leave s (monitorRecovers k m v s) := by
    unfold monitorRecovers
    dsimp only
    split
    · exact (setThenEvent _ _ _).trans (.removeClaim _ _ hl)
    all_goals exact setThenEvent _ _ _
  unfold Machine.evaluateMonitor
  split
  · split
    · exact counts
    · exact .of_lines rfl
  · split
    · exact counts
    · exact .of_lines rfl
  · split
    · exact recovers
    · exact .refl s

end Moves

/-! ### The operations of a command -/

/-- Monitors alone enter and leave. -/
abbrev MonitorsMove : State → State → Prop := ClaimsMove (fun c => ∃ k, c = .monitor k) (fun c => ∃ k, c = .monitor k)

theorem monitorsMove_evaluateMonitors (i : PointIdx) (v : Nat) (s : State) : MonitorsMove s (evaluateMonitors i v s) := by
  refine .foldl (fun s k => ?_) _ _
  split
  · split
    · exact .evaluateMonitor _ _ _ _ ⟨k, rfl⟩ ⟨k, rfl⟩
    · exact .refl s
  · exact .refl s

/-- The transfer of a point's missed count changes points and subscriptions alone (R92). -/
theorem transferMissed_points_subs (i : PointIdx) (s : State) :
    transferMissed i s = { s with points := (transferMissed i s).points, subs := (transferMissed i s).subs } := by
  let R : State → State → Prop := fun s t => t = { s with points := t.points, subs := t.subs }
  have trans : ∀ s t u, R s t → R t u → R s u := fun s t u h k => by simp only [R] at *; rw [k]; rw [h]
  unfold transferMissed
  refine trans _ _ _ (foldl_rel R _ (fun _ => rfl) trans (fun s p => ?_) _ s) rfl
  dsimp only [R]
  rw [modSubscription_only]

/-- The fan-out changes subscriptions and rings alone (R94). -/
theorem fanOut_subs_rings (i : PointIdx) (r : Result) (s : State) :
    fanOut i r s = { s with subs := (fanOut i r s).subs, rings := (fanOut i r s).rings } := by
  let R : State → State → Prop := fun s t => t = { s with subs := t.subs, rings := t.rings }
  refine foldl_rel R _ (fun _ => rfl) (fun s t u h k => by simp only [R] at *; rw [k]; rw [h]) (fun s p => ?_) _ _
  dsimp only [R]
  rw [offerResult_only]

theorem monitorsMove_endBurst (subject : Subject) (s : State) : MonitorsMove s (endBurst subject s) := by
  cases subject with
  | job g => exact .of_lines (by show (completeCalibration g s).lines = _; rw [completeCalibration_only])
  | point i =>
    show MonitorsMove s (finalizePoint i s)
    unfold finalizePoint
    extract_lets r t u
    have before : MonitorsMove s t := .of_lines (by simp only [t]; rw [transferMissed_points_subs]; rfl)
    have after : MonitorsMove (evaluateMonitors i r.value16 t) u :=
      .of_lines (by simp only [u]; rw [fanOut_subs_rings])
    clear_value u
    exact (before.trans ((monitorsMove_evaluateMonitors _ _ _).trans after)).trans (.of_lines rfl)

theorem lines_grantDecision (s : State) : (grantDecision s).lines = s.lines := (grantDecision_only s).lines

theorem monitorsMove_completeConversion (b : Burst) (code : ConverterCode) (s : State) :
    MonitorsMove s (completeConversion b code s) := by
  unfold completeConversion
  split
  · refine .of_lines ((lines_grantDecision _).trans ?_)
    obtain ⟨i | g, c, n⟩ := b <;> rfl
  · have takes : (takeCode b.subject code (sampleReading s) s).lines = s.lines := by obtain ⟨i | g, c, n⟩ := b <;> rfl
    dsimp only
    generalize takeCode b.subject code (sampleReading s) s = t at takes ⊢
    refine ClaimsMove.trans (.of_lines takes) ?_
    split
    · refine (monitorsMove_endBurst b.subject t).trans (.of_lines ?_)
      rcases burstEnds_cases b.subject t with h | h
      · rw [h]; rfl
      · rw [h]; exact lines_grantDecision _
    · split
      · exact .of_lines (suspendBurst_only ..).lines
      · exact .of_lines (by rw [beginConversionOf_only])

theorem move_fireComparator {enter leave : Claimant → Prop} (k : TripIdx) (s : State) (he : enter (.trip k)) :
    ClaimsMove enter leave s (fireComparator k s) := by
  unfold fireComparator
  extract_lets mask t
  have first : ClaimsMove enter leave s t := ClaimsMove.trans
    (t := s.modComparator k (fun c => { c with state := .fired, run := 0 })) (.of_lines rfl)
    (.of_onlyQueues (formEventForAll_only ..))
  exact (first.trans (.addClaims mask t he)).trans (.of_lines rfl)

theorem move_takeSample {enter leave : Claimant → Prop} (k : TripIdx) (output : Bool) (s : State)
    (he : enter (.trip k)) : ClaimsMove enter leave s (takeSample k output s) := by
  unfold takeSample
  split
  · exact ClaimsMove.trans (t := s.modComparator k (fun c => { c with beyond := true })) (.of_lines rfl)
      (move_fireComparator k _ he)
  · exact .of_lines rfl

theorem move_clearComparator {enter leave : Claimant → Prop} (k : TripIdx) (s : State) (hl : leave (.trip k)) :
    ClaimsMove enter leave s (clearComparator k s) := by
  unfold clearComparator
  extract_lets claimed t
  have first : ClaimsMove enter leave s t := ClaimsMove.trans
    (t := s.modComparator k (fun c => { c with state := .watching, run := 0 })) (.of_lines rfl)
    (.of_onlyQueues (formEventForAll_only ..))
  exact (first.trans (.removeClaims claimed t hl)).trans (.of_lines rfl)

theorem move_clearClaim {enter leave : Claimant → Prop} (k : MonitorIdx) (m : Monitor) (s : State)
    (hl : leave (.monitor k)) : ClaimsMove enter leave s (clearClaim k m s) := by
  unfold clearClaim
  split
  · exact (ClaimsMove.of_lines (t := s.setMonitor k _) rfl).trans (.removeClaim _ _ hl)
  · exact .refl s

theorem move_leavePoint {enter leave : Claimant → Prop} (p : Port) (i : PointIdx) (s : State) (he : enter (.host p))
    (hl : ∀ j, leave (.monitor j)) : ClaimsMove enter leave s (leavePoint p i s) := by
  unfold leavePoint
  split
  · exact .removeSubscription _ _ _ he hl
  · exact .refl s

theorem move_edgeAccepted {enter leave : Claimant → Prop} (n : TrgIdx) (edge : Edge) (s : State) :
    ClaimsMove enter leave s (edgeAccepted n edge s) := by
  refine (ClaimsMove.of_lines (t := acceptLevel n (levelAfter edge) s) rfl).trans (.foldl (fun t i => .of_lines ?_) _ _)
  unfold edgeAtPoint
  split
  · rfl
  · split
    · exact (triggerPoint_only ..).lines
    · rfl

/-! ### The end of a session -/

theorem lines_teardownBlocks (p : Port) (s : State) : (teardownBlocks p s).lines = (removeSubscriptions p s).lines := by
  unfold teardownBlocks
  rw [unholdComparators_only, removeQueuedJobs_only]

theorem move_teardownBlocks {enter leave : Claimant → Prop} (p : Port) (s : State) (he : enter (.host p))
    (hl : ∀ j, leave (.monitor j)) : ClaimsMove enter leave s (teardownBlocks p s) := by
  refine ClaimsMove.trans (t := removeSubscriptions p s) ?_ (.of_lines (lines_teardownBlocks p s))
  exact .foldl (fun t k => .removeSubscription p k t he hl) _ _

theorem move_sessionLost {enter leave : Claimant → Prop} (p : Port) (s : State) (he : enter (.host p))
    (hl : ∀ j, leave (.monitor j)) : ClaimsMove enter leave s (sessionLost p s) :=
  (move_teardownBlocks p s he hl).trans (.of_lines (by rw [sessionLost, teardownPort_only]))

/-- No monitor that port `p` created holds a claim. -/
def NoneHeld (p : Port) (s : State) : Prop := ∀ k : MonitorIdx, ∀ m, s.monitor k = some m → m.creator = p → heldLine m = none

theorem noneHeld_of_holdsMonitorClaim {p : Port} {s : State} (h : holdsMonitorClaim p s = false) : NoneHeld p s := by
  intro k m entry own
  have := (List.any_eq_false.mp h) k (List.mem_finRange k)
  simp only [entry, own, beq_self_eq_true, Bool.true_and, Bool.not_eq_true] at this
  simp [heldLine, this]

/-- While no monitor of the port holds a claim, the deletion of its monitors on a point changes no claim set. -/
theorem deleteMonitorsOn_noneHeld (p : Port) (i : PointIdx) (s : State) (h : NoneHeld p s) :
    (deleteMonitorsOn p i s).lines = s.lines ∧ NoneHeld p (deleteMonitorsOn p i s) := by
  unfold deleteMonitorsOn
  refine foldl_keeps (fun t => t.lines = s.lines ∧ NoneHeld p t) _ _ (fun t j _ ht => ?_) s ⟨rfl, h⟩
  split
  · next m entry =>
    split
    · next own =>
      have free := ht.2 j m entry own.1
      have deleted : deleteMonitor j t = t.setMonitor j none := by simp [deleteMonitor, entry, free]
      rw [deleted]
      refine ⟨ht.1, fun j' m' entry' own' => ?_⟩
      rw [monitor_setMonitor_eq] at entry'
      split at entry'
      · cases entry'
      · exact ht.2 j' m' entry' own'
    · exact ht
  · exact ht

/-- So does the removal of its subscriptions, and none of its monitors comes to hold a claim. -/
theorem removeSubscription_noneHeld (p : Port) (k : SlotIdx) (s : State) (h : NoneHeld p s) :
    (removeSubscription p k s).lines = s.lines ∧ NoneHeld p (removeSubscription p k s) := by
  unfold removeSubscription
  split
  · exact ⟨rfl, h⟩
  · next u _ =>
    obtain ⟨same, noneHeld⟩ := deleteMonitorsOn_noneHeld p u.point (s.setSlot p k none) h
    have places := leaveList_places p u.point (deleteMonitorsOn p u.point (s.setSlot p k none))
    exact ⟨places.lines.trans same, fun j m entry => noneHeld j m ((places.monitor j).symm.trans entry)⟩

theorem lines_teardownBlocks_of_noneHeld (p : Port) (s : State) (h : NoneHeld p s) :
    (teardownBlocks p s).lines = s.lines := by
  rw [lines_teardownBlocks]
  unfold removeSubscriptions
  refine (foldl_keeps (fun t => t.lines = s.lines ∧ NoneHeld p t) _ _ (fun t k _ ht => ?_) s ⟨rfl, h⟩).1
  obtain ⟨same, none⟩ := removeSubscription_noneHeld p k t ht.2
  exact ⟨same.trans ht.1, none⟩

/-! ### Which claimants a command moves -/

/-- The claimants that a command can enter into a claim set (R147). -/
def enters (c : Instr) : Claimant → Prop
  | .start => False
  | .host h => c = .supervisionExpiry h ∨
      ∃ tag body, c = .claimLine h tag body ∨ c = .deleteMonitor h tag body ∨ c = .leavePoint h tag body
  | .monitor _ => ∃ level, c = .conversionCompletion level
  | .trip k => c = .tripFiring k ∨ ∃ input, c = .comparatorSample k input

/-- The claimants that a command can take out of a claim set (R147). -/
def leaves (s : State) (c : Instr) : Claimant → Prop
  | .start => ∃ p tag body, c = .releaseStart p tag body
  | .host h => (∃ tag body, c = .releaseLine h tag body) ∨
      (s.attached h = false ∧ ∃ p tag body, c = .releaseOrphan p tag body)
  | .monitor _ => (∃ level, c = .conversionCompletion level) ∨ (∃ p, c = .supervisionExpiry p) ∨
      ∃ p tag body, c = .clearMonitorClaim p tag body ∨ c = .deleteMonitor p tag body ∨ c = .leavePoint p tag body
  | .trip _ => ∃ p tag body, c = .clearTrip p tag body

theorem move_served {p : Port} {r : Request} {s t u : State} (tag : Byte) (body : List Byte) (h : Served p t r u)
    (same : ∀ q, t.attached q = s.attached q) :
    ClaimsMove (enters (requestInstr r p tag body)) (leaves s (requestInstr r p tag body)) t u := by
  cases h
  case detach free noMonitor =>
    refine .of_lines (Eq.trans ?_ (lines_teardownBlocks_of_noneHeld p t (noneHeld_of_holdsMonitorClaim noMonitor)))
    simp only [State.modPort, lines_setPort]
  case leavePoint i _ _ =>
    exact move_leavePoint p i t (.inr ⟨tag, body, .inr (.inr rfl)⟩)
      (fun j => .inr (.inr ⟨p, tag, body, .inr (.inr rfl)⟩))
  case pause => exact .of_lines (by rw [modSubscription_only])
  case resume => exact .of_lines (by rw [modSubscription_only])
  case setConditioning => exact .of_lines (by rw [modSubscription_only])
  case sampleNow => exact .of_lines (triggerPoint_only ..).lines
  case calibrate g _ => exact .of_lines (queueJob_only ..).lines
  case deleteMonitor k m entry own =>
    exact .deleteMonitor entry (own ▸ .inr ⟨tag, body, .inr (.inl rfl)⟩)
      (.inr (.inr ⟨p, tag, body, .inr (.inl rfl)⟩))
  case clearMonitorClaim k m _ _ => exact move_clearClaim k m t (.inr (.inr ⟨p, tag, body, .inl rfl⟩))
  case claimLine => exact .addClaims _ _ (.inr ⟨tag, body, .inl rfl⟩)
  case releaseLine => exact .removeClaims _ _ (.inl ⟨tag, body, rfl⟩)
  case releaseStart => exact .removeClaims _ _ ⟨p, tag, body, rfl⟩
  case releaseOrphan mask h orphan =>
    exact .removeClaims _ _ (.inr ⟨(same h).symm.trans orphan, p, tag, body, rfl⟩)
  case clearTrip k _ => exact move_clearComparator k t ⟨p, tag, body, rfl⟩
  all_goals exact .of_lines rfl

/-- A good frame moves the claimants that the request of its CODE can move. -/
theorem move_received {p : Port} {tag code : Byte} {body : List Byte} {s t : State} (h : Received p tag code body s t) :
    t.lines = s.lines ∨ ∃ r, requestOf code = some r ∧
      ClaimsMove (enters (requestInstr r p tag body)) (leaves s (requestInstr r p tag body)) s t := by
  cases h
  case served r a u _ named _ served =>
    refine .inr ⟨r, named, ?_⟩
    exact ((ClaimsMove.of_lines (t := atOwner p s) rfl).trans
      (move_served tag body served (fun q => attached_atOwner p q s))).trans (.of_lines rfl)
  case discarded => exact .inl (discardFrame_only p s).lines
  all_goals exact .inl rfl

theorem move_goodFrame_start (p : Port) (tag code : Byte) (body : List Byte) (s : State) :
    ClaimsMove (· ≠ .start) (fun _ => True) s (goodFrame p tag code body s) := by
  rcases move_received (goodFrame_received p tag code body s) with h | ⟨r, -, h⟩
  · exact .of_lines h
  · exact h.mono (fun c enter start => by subst start; exact enter) (fun _ _ => trivial)

/-- Every command but a full reset and a byte moves the claimants that its row names. -/
theorem move_effect {c : Instr} {s t : State} (h : Effect s c t) (noReset : c ≠ .fullReset)
    (noByte : ∀ p b, c ≠ .byteTaken p b) : ClaimsMove (enters c) (leaves s c) s t := by
  cases h
  case fullReset => exact absurd rfl noReset
  case byteTaken p b => exact absurd rfl (noByte p b)
  case trgEdge n edge _ => exact move_edgeAccepted n edge s
  case periodicExpiry => exact .of_lines ((triggerPoint_only ..).lines.trans rfl)
  case delayExpiry => exact .of_lines (becomeDue_only ..).lines
  case completion level b _ =>
    exact (monitorsMove_completeConversion b _ s).mono (fun _ ⟨k, monitor⟩ => monitor ▸ ⟨level, rfl⟩)
      (fun _ ⟨k, monitor⟩ => monitor ▸ .inl ⟨level, rfl⟩)
  case tripFiring k output => exact move_takeSample k output s (.inl rfl)
  case comparatorSample k input i output =>
    exact (ClaimsMove.of_lines (t := s.driveAin i input.level) rfl).trans (move_takeSample k output _ (.inr ⟨input, rfl⟩))
  case framingError => exact .of_lines (malformedFrame_only ..).lines
  case interByteTimeout => exact .of_lines (interByteExpires_only ..).lines
  case responseSent p _ =>
    refine .of_lines ((afterResponse_only ..).lines.trans ?_)
    split
    · rw [teardownPort_only]
    · rfl
  case supervisionExpiry p _ => exact move_sessionLost p s (.inl rfl) (fun j => .inr (.inl ⟨p, rfl⟩))
  case request r p tag body =>
    rcases move_received (goodFrame_received p tag (requestCode r) body s) with h | ⟨r', named, h⟩
    · exact .of_lines h
    · rw [requestOf_requestCode] at named
      cases named
      exact h
  case unknownRequest p tag code body unknown =>
    rcases move_received (goodFrame_received p tag code body s) with h | ⟨r, named, -⟩
    · exact .of_lines h
    · rw [unknown] at named; cases named
  case busyReply p tag code body executing =>
    refine .of_lines ?_
    have received := goodFrame_received p tag code body s
    generalize goodFrame p tag code body s = t at received
    cases received
    case busyWaits => rfl
    case discarded => exact (discardFrame_only p s).lines
    all_goals rename (s.port p).request = .ready => ready; rw [ready] at executing; cases executing
  all_goals exact .of_lines rfl

/-- Settles O59: a case analysis of the command names the claimants it can move. -/
theorem claimsChangeOnlyByTheirOwners : Obligations.ClaimsChangeOnlyByTheirOwners := by
  intro c l s t run noReset noByte
  have moves := move_effect (effect_of_exec run) noReset noByte l
  exact ⟨(moves .start).2, fun absent => Bool.eq_false_iff.mpr ((moves .start).1 absent), fun h => (moves (.host h)).2,
    fun h => (moves (.host h)).1, fun k => (moves (.monitor k)).2, fun k => (moves (.monitor k)).1,
    fun k => (moves (.trip k)).2, fun k => (moves (.trip k)).1⟩

/-! ### What only a reset restores -/

theorem move_takeByte_start (p : Port) (b : Byte) (s : State) :
    ClaimsMove (· ≠ .start) (fun _ => True) s (takeByte p b s) := by
  rcases takeByte_cases p b s with h | ⟨tag, code, body, h⟩
  · exact .of_lines h.lines
  · rw [h]; exact move_goodFrame_start p tag code body s

/-- START enters no claim set at a command but a full reset. -/
theorem move_exec_start {c : Instr} {s t : State} (run : exec c s = .next t) (noReset : c ≠ .fullReset) :
    ClaimsMove (· ≠ .start) (fun _ => True) s t := by
  by_cases byte : ∃ p b, c = .byteTaken p b
  · obtain ⟨p, b, rfl⟩ := byte
    cases (whenReleased_next ..).symm.trans run
    split
    · exact .refl s
    · exact move_takeByte_start p b s
  · have noByte : ∀ p b, c ≠ .byteTaken p b := fun p b h => byte ⟨p, b, h⟩
    exact (move_effect (effect_of_exec run) noReset noByte).mono (fun c enter start => by subst start; exact enter)
      (fun _ _ => trivial)

/-- The trim table changes at a conversion completion alone. -/
theorem settled_effect {c : Instr} {s t : State} (h : Effect s c t) (noReset : c ≠ .fullReset)
    (noRelease : ∀ share cdiv baud levels, c ≠ .resetRelease share cdiv baud levels) :
    Settled { s with trims := t.trims } t ∧ ((∀ level, c ≠ .conversionCompletion level) → t.trims = s.trims) := by
  have settled : ∀ {u : State}, Settled s u →
      Settled { s with trims := u.trims } u ∧ ((∀ level, c ≠ .conversionCompletion level) → u.trims = s.trims) := by
    intro u h
    have same : u.trims = s.trims := by unfold Settled at h; rw [h]
    exact ⟨by rw [same]; exact h, fun _ => same⟩
  cases h
  case nothing => exact settled (.refl s)
  case fullReset => exact absurd rfl noReset
  case resetRelease => exact absurd rfl (noRelease _ _ _ _)
  case trgEdge => exact settled (settled_edgeAccepted ..)
  case periodicExpiry => exact settled (Settled.trans (t := s.modPoint _ _) rfl (settled_of_onlyTrigger (triggerPoint_only ..)))
  case delayExpiry => exact settled (settled_of_onlyTrigger (becomeDue_only ..))
  case completion level b _ => exact ⟨settled_completeConversion b _ s, fun no => absurd rfl (no level)⟩
  case tripFiring => exact settled (settled_takeSample ..)
  case comparatorSample k input i output =>
    exact settled (Settled.trans (t := s.driveAin i input.level) rfl (settled_takeSample ..))
  case framingError => exact settled (settled_of_onlyPort (malformedFrame_only ..))
  case interByteTimeout => exact settled (settled_of_onlyPort (interByteExpires_only ..))
  case responseSent => exact settled (settled_responseEnds ..)
  case supervisionExpiry p _ => exact settled ((settled_teardownBlocks p s).trans (settled_teardownPort ..))
  case byteTaken => exact settled (settled_takeByte ..)
  case request => exact settled (settled_received (goodFrame_received ..))
  case unknownRequest => exact settled (settled_received (goodFrame_received ..))
  case busyReply => exact settled (settled_received (goodFrame_received ..))

/-- The end of a burst leaves every VALID trim entry VALID (R73, R80). -/
theorem endBurst_valid (subject : Subject) (s : State) (g : Gain) (valid : (s.trimEntry g).state = .valid) :
    ((endBurst subject s).trimEntry g).state = .valid := by
  cases subject with
  | point i =>
    show ((finalizePoint i s).trimEntry g).state = .valid
    rw [(finalizePoint_only i s).trimEntry]
    exact valid
  | job j =>
    show ((completeCalibration j s).trimEntry g).state = .valid
    unfold completeCalibration
    extract_lets trim t
    have event : OnlyQueues (s.setTrimEntry j { state := .valid, trim }) t := formEventForAll_only ..
    rw [trimEntry_setJob, event.trimEntry]
    by_cases same : g = j
    · subst same; simp
    · rw [trimEntry_setTrimEntry_ne _ _ _ _ same]; exact valid

/-- So does a conversion completion. -/
theorem completeConversion_valid (b : Burst) (code : ConverterCode) (s : State) (g : Gain)
    (valid : (s.trimEntry g).state = .valid) : ((completeConversion b code s).trimEntry g).state = .valid := by
  have grants : ∀ t : State, (grantDecision t).trimEntry g = t.trimEntry g := fun t => (grantDecision_only t).trimEntry g
  unfold completeConversion
  split
  · rw [grants]
    obtain ⟨i | j, c, n⟩ := b <;> exact valid
  · have takes : ((takeCode b.subject code (sampleReading s) s).trimEntry g).state = .valid := by
      obtain ⟨i | j, c, n⟩ := b <;> exact valid
    dsimp only
    generalize takeCode b.subject code (sampleReading s) s = t at takes ⊢
    split
    · rcases burstEnds_cases b.subject t with h | h
      · rw [h]; exact endBurst_valid b.subject t g takes
      · rw [h, grants]; exact endBurst_valid b.subject t g takes
    · split
      · rw [(suspendBurst_only b t).trimEntry]; exact takes
      · rw [beginConversionOf_only]; exact takes

/-- Settles O58: the frames of the commands, the moves of START, and the one writer of the trim table. -/
theorem onlyAResetRestoresThese : Obligations.OnlyAResetRestoresThese := by
  intro c s t noReset run
  have effect := effect_of_exec run
  have trims : (∀ level, c ≠ .conversionCompletion level) → t.trims = s.trims := by
    by_cases release : ∃ share cdiv baud levels, c = .resetRelease share cdiv baud levels
    · obtain ⟨share, cdiv, baud, levels, rfl⟩ := release
      intro _
      simp only [exec, execResetRelease] at run
      split at run <;> cases run <;> rfl
    · exact (settled_effect effect noReset (fun a b c d h => release ⟨a, b, c, d, h⟩)).2
  refine ⟨fun l stands => ?_, fun g _ valid => ?_, trims, fun noRelease => ?_⟩
  · by_contra absent
    exact (move_exec_start run noReset l .start).1 (Bool.eq_false_iff.mpr absent) stands rfl
  · by_cases completion : ∃ level, c = .conversionCompletion level
    · obtain ⟨level, rfl⟩ := completion
      simp only [exec, execConversionCompletion] at run
      cases (whenReleased_next ..).symm.trans run
      split
      · exact valid
      · split
        · exact completeConversion_valid _ _ s g valid
        · exact valid
    · have same := trims fun level h => completion ⟨level, h⟩
      unfold State.trimEntry at valid ⊢
      rw [same]; exact valid
  · have settled := (settled_effect effect noReset noRelease).1
    unfold Settled at settled
    rw [settled]
    exact ⟨rfl, rfl, rfl, rfl⟩

end Sys2Proof.ClaimMoves
end

section
/-!
PROOFS. What a frame on one port leaves of another port (`LeavesAlone`), that every command answers a next state, and that
the front command is the one a step runs.
-/

namespace Sys2Proof.Noninterference

open Sys2Proof.Machine Sys2Proof.Statement Sys2Proof.StepEffects Sys2Proof.StepFrames

/-! ### Event queues that only grow -/

/-- No event leaves the queue, its lost-event count does not fall, and both stay within their bounds. -/
def QueueGrows (a b : EventQueue) : Prop :=
  a.events <+: b.events ∧ (a.lost ≤ 255 → a.lost ≤ b.lost ∧ b.lost ≤ 255) ∧
    (a.events.length ≤ 16 → b.events.length ≤ 16)

theorem QueueGrows.refl (a : EventQueue) : QueueGrows a a := ⟨List.prefix_refl _, fun h => ⟨le_refl _, h⟩, id⟩

theorem QueueGrows.trans {a b c : EventQueue} (h : QueueGrows a b) (k : QueueGrows b c) : QueueGrows a c := by
  refine ⟨h.1.trans k.1, fun bound => ?_, k.2.2 ∘ h.2.2⟩
  obtain ⟨le, bound'⟩ := h.2.1 bound
  obtain ⟨le', bound''⟩ := k.2.1 bound'
  exact ⟨le.trans le', bound''⟩

theorem QueueGrows.queuePut (a : EventQueue) (e : Event) : QueueGrows a (queuePut a e) := by
  unfold Machine.queuePut
  split
  · next room =>
    refine ⟨List.prefix_append .., fun h => ⟨le_refl _, h⟩, fun _ => ?_⟩
    simp only [Config.eventCapacity] at room
    simp only [List.length_append, List.length_singleton]
    omega
  · refine ⟨List.prefix_refl _, fun h => ?_, id⟩
    simp only [satAdd]
    omega

/-- Every event queue only grows. -/
def QueuesGrow (s t : State) : Prop := ∀ q, QueueGrows (s.queue q) (t.queue q)

theorem QueuesGrow.trans {s t u : State} (h : QueuesGrow s t) (k : QueuesGrow t u) : QueuesGrow s u :=
  fun q => (h q).trans (k q)

theorem QueuesGrow.of_queues {s t : State} (h : t.queues = s.queues) : QueuesGrow s t := fun q => by
  unfold State.queue; rw [h]; exact .refl _

theorem QueuesGrow.foldl {α : Type} {f : State → α → State} (h : ∀ s a, QueuesGrow s (f s a)) (xs : List α) (s : State) :
    QueuesGrow s (xs.foldl f s) :=
  foldl_rel QueuesGrow f (fun _ => .of_queues rfl) (fun _ _ _ => .trans) h xs s

theorem QueuesGrow.formEvent (kind : EventKind) (subject value : Nat) (dest : Port → Bool) (s : State) :
    QueuesGrow s (formEvent kind subject value dest s) := fun q => by
  rw [queue_formEvent]
  split
  · exact .queuePut _ _
  · exact .refl _

theorem QueuesGrow.addClaim (l : LineIdx) (c : Claimant) (s : State) : QueuesGrow s (addClaim l c s) := by
  unfold Machine.addClaim
  split
  · exact .of_queues rfl
  · extract_lets t
    have set : QueuesGrow s t := .of_queues rfl
    split
    · exact set
    · exact set.trans (.formEvent _ _ _ _ _)

theorem QueuesGrow.removeClaim (l : LineIdx) (c : Claimant) (s : State) : QueuesGrow s (removeClaim l c s) := by
  unfold Machine.removeClaim
  split
  · extract_lets t
    have set : QueuesGrow s t := .of_queues rfl
    split
    · exact set
    · exact set.trans (.formEvent _ _ _ _ _)
  · exact .of_queues rfl

theorem QueuesGrow.deleteMonitor (k : MonitorIdx) (s : State) : QueuesGrow s (deleteMonitor k s) := by
  unfold Machine.deleteMonitor
  split
  · exact .of_queues rfl
  · dsimp only
    split
    · exact ((QueuesGrow.addClaim _ _ s).trans (.removeClaim _ _ _)).trans (.of_queues rfl)
    · exact .of_queues rfl

theorem QueuesGrow.deleteMonitorsOn (p : Port) (i : PointIdx) (s : State) : QueuesGrow s (deleteMonitorsOn p i s) := by
  refine .foldl (fun t k => ?_) _ _
  split
  · split
    · exact .deleteMonitor k t
    · exact .of_queues rfl
  · exact .of_queues rfl

/-! ### What belongs to another port -/

/-- What a command that concerns another port leaves of port `q`: its port, ring and slots as they were, its event queue
only grown. -/
structure LeavesAlone (q : Port) (s t : State) : Prop where
  port : t.port q = s.port q
  ring : t.ring q = s.ring q
  slots : t.slots q = s.slots q
  queue : QueueGrows (s.queue q) (t.queue q)

section

variable {p q : Port} {s t u : State}

theorem LeavesAlone.trans (h : LeavesAlone q s t) (k : LeavesAlone q t u) : LeavesAlone q s u :=
  ⟨k.port.trans h.port, k.ring.trans h.ring, k.slots.trans h.slots, h.queue.trans k.queue⟩

/-- An operation that writes none of these tables. -/
theorem LeavesAlone.of_tables (ports : t.ports = s.ports) (rings : t.rings = s.rings) (subs : t.subs = s.subs)
    (queues : QueuesGrow s t) : LeavesAlone q s t := by
  refine ⟨?_, ?_, ?_, queues q⟩
  · unfold State.port; rw [ports]
  · unfold State.ring; rw [rings]
  · unfold State.slots; rw [subs]

theorem LeavesAlone.refl (s : State) : LeavesAlone q s s := .of_tables rfl rfl rfl (.of_queues rfl)

theorem LeavesAlone.of_onlyTrigger (h : OnlyTrigger s t) : LeavesAlone q s t := by
  unfold OnlyTrigger OnlyScheduling at h
  exact .of_tables (by rw [h]) (by rw [h]) (by rw [h]) (.of_queues (by rw [h]))

theorem LeavesAlone.of_onlyMonitors (h : OnlyMonitors s t) (queues : QueuesGrow s t) : LeavesAlone q s t := by
  unfold OnlyMonitors at h
  exact .of_tables (by rw [h]) (by rw [h]) (by rw [h]) queues

theorem LeavesAlone.of_onlyPort (other : q ≠ p) (h : OnlyPort p s t) : LeavesAlone q s t := by
  refine ⟨h.other other, ?_, ?_, ?_⟩ <;> unfold OnlyPort at h <;> rw [h]
  · rfl
  · rfl
  · exact .refl _

theorem LeavesAlone.setSlot (other : q ≠ p) (k : SlotIdx) (v : Option Subscription) (s : State) :
    LeavesAlone q s (s.setSlot p k v) := by
  refine ⟨rfl, rfl, ?_, .refl _⟩
  unfold State.setSlot
  exact slots_setSlots_ne _ _ _ _ other

theorem LeavesAlone.setRing (other : q ≠ p) (r : Ring) (s : State) : LeavesAlone q s (s.setRing p r) :=
  ⟨rfl, ring_setRing_ne _ _ _ _ other, rfl, .refl _⟩

theorem LeavesAlone.setQueue (other : q ≠ p) (x : EventQueue) (s : State) : LeavesAlone q s (s.setQueue p x) :=
  ⟨rfl, rfl, rfl, by rw [queue_setQueue_ne _ _ _ _ other]; exact .refl _⟩

theorem LeavesAlone.modSubscription (other : q ≠ p) (i : PointIdx) (f : Subscription → Subscription) (s : State) :
    LeavesAlone q s (modSubscription p i f s) := by
  unfold Machine.modSubscription
  split
  · exact .setSlot other ..
  · exact .refl s

theorem LeavesAlone.of_onlyPlaces (h : OnlyPlaces s t) : LeavesAlone q s t := by
  unfold OnlyPlaces at h
  exact .of_tables (by rw [h]) (by rw [h]) (by rw [h]) (.of_queues (by rw [h]))

theorem LeavesAlone.removeSubscription (other : q ≠ p) (k : SlotIdx) (s : State) :
    LeavesAlone q s (removeSubscription p k s) := by
  unfold Machine.removeSubscription
  split
  · exact .refl s
  · next u _ =>
    exact ((LeavesAlone.setSlot other k none s).trans
      (.of_onlyMonitors (deleteMonitorsOn_only ..) (.deleteMonitorsOn _ _ _))).trans (.of_onlyPlaces (leaveList_places ..))

theorem LeavesAlone.teardownBlocks (other : q ≠ p) (s : State) : LeavesAlone q s (teardownBlocks p s) := by
  have subscriptions : LeavesAlone q s (removeSubscriptions p s) :=
    foldl_rel (LeavesAlone q) _ .refl (fun _ _ _ => .trans) (fun t k => .removeSubscription other k t) _ s
  unfold Machine.teardownBlocks
  generalize removeSubscriptions p s = t at subscriptions ⊢
  have jobs := removeQueuedJobs_only p t
  generalize removeQueuedJobs p t = u at jobs ⊢
  have comparators := unholdComparators_only p u
  generalize unholdComparators p u = v at comparators ⊢
  refine subscriptions.trans (.trans (t := u) ?_ ?_)
  · exact .of_tables (by rw [jobs]) (by rw [jobs]) (by rw [jobs]) (.of_queues (by rw [jobs]))
  · exact .of_tables (by rw [comparators]) (by rw [comparators]) (by rw [comparators]) (.of_queues (by rw [comparators]))

/-- The owner of a request from port `p` leaves what belongs to port `q` alone. -/
theorem LeavesAlone.of_served (other : q ≠ p) {r : Request} (h : Served p s r t) : LeavesAlone q s t := by
  have claims : ∀ {u : State}, OnlyClaims s u → QueuesGrow s u → LeavesAlone q s u := fun only grow =>
    .of_onlyMonitors only.onlyMonitors grow
  cases h
  case unchanged => exact .refl s
  case attach f _ =>
    unfold startSession
    exact ((LeavesAlone.setRing other _ s).trans (.setQueue other _ _)).trans (.of_onlyPort other (modPort_only ..))
  case detach => exact (LeavesAlone.teardownBlocks other s).trans (.of_onlyPort other (modPort_only ..))
  case joinPoint k i f _ _ _ _ _ =>
    exact (LeavesAlone.setSlot other k _ s).trans (.of_tables rfl rfl rfl (.of_queues rfl))
  case createPoint k i f _ _ _ _ _ =>
    exact LeavesAlone.trans (t := s.setPoint i (newPoint p f.key)) (.of_tables rfl rfl rfl (.of_queues rfl))
      (.setSlot other ..)
  case leavePoint i _ _ =>
    unfold leavePoint
    split
    · exact .removeSubscription other ..
    · exact .refl s
  case pause => exact .modSubscription other ..
  case resume => exact .modSubscription other ..
  case setConditioning => exact .modSubscription other ..
  case sampleNow => exact .of_onlyTrigger (triggerPoint_only ..)
  case calibrate => exact .of_onlyTrigger (queueJob_only ..)
  case readResults => exact .setRing other ..
  case ackResults => exact .setRing other ..
  case readEvents => exact .setQueue other ..
  case deleteMonitor k m _ _ => exact .of_onlyMonitors (deleteMonitor_only k s) (.deleteMonitor k s)
  case clearMonitorClaim k m _ _ =>
    unfold clearClaim
    split
    · exact LeavesAlone.trans (t := s.setMonitor k (some { m with claimHeld := false }))
        (.of_tables rfl rfl rfl (.of_queues rfl))
        (.of_onlyMonitors (removeClaim_only ..).onlyMonitors (.removeClaim _ _ _))
    · exact .refl s
  case claimLine => exact claims (addClaims_only ..) (.foldl (fun t l => .addClaim l _ t) _ _)
  case releaseLine => exact claims (removeClaims_only ..) (.foldl (fun t l => .removeClaim l _ t) _ _)
  case releaseStart => exact claims (removeClaims_only ..) (.foldl (fun t l => .removeClaim l _ t) _ _)
  case releaseOrphan => exact claims (removeClaims_only ..) (.foldl (fun t l => .removeClaim l _ t) _ _)
  case clearTrip k _ =>
    unfold clearComparator
    extract_lets claimed v
    have event : LeavesAlone q s v := LeavesAlone.trans
      (t := s.modComparator k (fun c => { c with state := .watching, run := 0 }))
      (.of_tables rfl rfl rfl (.of_queues rfl))
      (.of_onlyMonitors (formEventForAll_only ..).onlyClaims.onlyMonitors (.formEvent _ _ _ _ _))
    have removed : LeavesAlone q v (removeClaims claimed (.trip k) v) :=
      .of_onlyMonitors (removeClaims_only ..).onlyMonitors (.foldl (fun t l => .removeClaim l _ t) _ _)
    exact (event.trans removed).trans (.of_tables rfl rfl rfl (.of_queues rfl))
  all_goals exact .of_tables rfl rfl rfl (.of_queues rfl)

theorem LeavesAlone.of_received (other : q ≠ p) {tag code : Byte} {body : List Byte} (h : Received p tag code body s t) :
    LeavesAlone q s t := by
  have owner : LeavesAlone q s (atOwner p s) := .of_onlyPort other (modPort_only ..)
  cases h
  case resent => exact owner.trans (.of_onlyPort other (modPort_only ..))
  case refused => exact owner.trans (.of_onlyPort other (modPort_only ..))
  case served r a u _ _ _ served => exact (owner.trans (.of_served other served)).trans (.of_onlyPort other (modPort_only ..))
  case busyWaits =>
    exact LeavesAlone.trans (t := receiverHunts p s) (.of_onlyPort other (modPort_only ..))
      (.of_onlyPort other (modPort_only ..))
  case discarded => exact .of_onlyPort other (discardFrame_only ..)

end

/-! ### The row of a good frame -/

/-- The row of a request is given by its CODE. -/
theorem eq_requestInstr {c : Instr} {x : Port × Byte × Byte × List Byte} (h : requestRow c = some x) :
    ∃ r, c = requestInstr r x.1 x.2.1 x.2.2.2 ∧ x.2.2.1 = requestCode r := by
  cases c
  case attach => cases h; exact ⟨.attach, rfl, rfl⟩
  case detach => cases h; exact ⟨.detach, rfl, rfl⟩
  case ping => cases h; exact ⟨.ping, rfl, rfl⟩
  case partStatus => cases h; exact ⟨.partStatus, rfl, rfl⟩
  case definePoint => cases h; exact ⟨.definePoint, rfl, rfl⟩
  case leavePoint => cases h; exact ⟨.leavePoint, rfl, rfl⟩
  case pauseSubscription => cases h; exact ⟨.pauseSubscription, rfl, rfl⟩
  case resumeSubscription => cases h; exact ⟨.resumeSubscription, rfl, rfl⟩
  case setConditioning => cases h; exact ⟨.setConditioning, rfl, rfl⟩
  case pointStatus => cases h; exact ⟨.pointStatus, rfl, rfl⟩
  case listSubscriptions => cases h; exact ⟨.listSubscriptions, rfl, rfl⟩
  case sampleNow => cases h; exact ⟨.sampleNow, rfl, rfl⟩
  case calibrate => cases h; exact ⟨.calibrate, rfl, rfl⟩
  case trimStatus => cases h; exact ⟨.trimStatus, rfl, rfl⟩
  case readResults => cases h; exact ⟨.readResults, rfl, rfl⟩
  case ackResults => cases h; exact ⟨.ackResults, rfl, rfl⟩
  case readEvents => cases h; exact ⟨.readEvents, rfl, rfl⟩
  case createMonitor => cases h; exact ⟨.createMonitor, rfl, rfl⟩
  case deleteMonitor => cases h; exact ⟨.deleteMonitor, rfl, rfl⟩
  case clearMonitorClaim => cases h; exact ⟨.clearMonitorClaim, rfl, rfl⟩
  case monitorStatus => cases h; exact ⟨.monitorStatus, rfl, rfl⟩
  case claimLine => cases h; exact ⟨.claimLine, rfl, rfl⟩
  case releaseLine => cases h; exact ⟨.releaseLine, rfl, rfl⟩
  case releaseStart => cases h; exact ⟨.releaseStart, rfl, rfl⟩
  case releaseOrphan => cases h; exact ⟨.releaseOrphan, rfl, rfl⟩
  case lineStatus => cases h; exact ⟨.lineStatus, rfl, rfl⟩
  case takeTrip => cases h; exact ⟨.takeTrip, rfl, rfl⟩
  case setTrip => cases h; exact ⟨.setTrip, rfl, rfl⟩
  case giveTrip => cases h; exact ⟨.giveTrip, rfl, rfl⟩
  case clearTrip => cases h; exact ⟨.clearTrip, rfl, rfl⟩
  case tripStatus => cases h; exact ⟨.tripStatus, rfl, rfl⟩
  all_goals cases h

/-- A row that is a good frame: a request of R199, a frame whose CODE names none, or BUSY_REPLY. -/
inductive FrameInstr (p : Port) (tag : Byte) (body : List Byte) : Byte → Instr → Prop
  | request (r : Request) : FrameInstr p tag body (requestCode r) (requestInstr r p tag body)
  | unknownRequest (code : Byte) : FrameInstr p tag body code (.unknownRequest p tag code body)
  | busyReply (code : Byte) : FrameInstr p tag body code (.busyReply p tag code body)

theorem frameInstr_of_goodFrameOf {c : Instr} {p : Port} {tag code : Byte} {body : List Byte}
    (h : goodFrameOf c = some (p, tag, code, body)) : FrameInstr p tag body code c := by
  unfold goodFrameOf at h
  split at h
  · cases h; exact .busyReply code
  · unfold requestFrameOf at h
    split at h
    · cases h; exact .unknownRequest code
    · obtain ⟨r, rfl, named⟩ := eq_requestInstr h
      dsimp only at named
      subst named
      exact .request r

/-- What the row of a good frame does: it takes the frame, where the receiver's bytes and the row's condition let it. -/
theorem exec_frameInstr {c : Instr} {p : Port} {tag code : Byte} {body : List Byte} {s : State}
    (h : FrameInstr p tag body code c) :
    exec c s = .next s ∨ exec c s = frameRow p tag code body s := by
  cases h
  case request r => exact .inr (exec_requestInstr r p tag body s)
  case unknownRequest =>
    simp only [exec, execUnknownRequest]
    split
    · exact .inr rfl
    · exact .inl rfl
  case busyReply =>
    simp only [exec, execBusyReply]
    split
    · exact .inr rfl
    · exact .inl rfl

/-- Settles O60: whatever a good frame brings about leaves the other ports alone. -/
theorem onePortsRequestLeavesOthersAlone : Obligations.OnePortsRequestLeavesOthersAlone := by
  intro c p q tag code body s t frame other bound run
  have alone : LeavesAlone q s t := by
    rcases exec_frameInstr (frameInstr_of_goodFrameOf frame) (s := s) with h | h <;> rw [h] at run
    · cases run; exact .refl s
    · rw [frameRow, whenReleased_next] at run
      cases run
      split
      · exact .refl s
      · split
        · exact .of_received other (goodFrame_received ..)
        · exact .refl s
  exact ⟨alone.port, alone.ring, alone.slots, alone.queue.1, (alone.queue.2.1 bound).1⟩

/-! ### Every command answers -/

theorem frameRow_next (p : Port) (tag code : Byte) (body : List Byte) (s : State) :
    ∃ t, frameRow p tag code body s = .next t := ⟨_, whenReleased_next ..⟩

theorem exec_next (c : Instr) (s : State) : ∃ t, exec c s = .next t := by
  cases c
  case fullReset => exact ⟨_, rfl⟩
  case resetRelease =>
    simp only [exec, execResetRelease]
    split <;> exact ⟨_, rfl⟩
  case busyReply =>
    simp only [exec, execBusyReply]
    split
    · exact frameRow_next ..
    · exact ⟨_, rfl⟩
  case unknownRequest =>
    simp only [exec, execUnknownRequest]
    split
    · exact frameRow_next ..
    · exact ⟨_, rfl⟩
  case conversionCompletion => simp only [exec, execConversionCompletion]; exact ⟨_, whenReleased_next ..⟩
  case responseSent => simp only [exec, execResponseSent]; exact ⟨_, whenReleased_next ..⟩
  case comparatorSample => simp only [exec, execComparatorSample]; exact ⟨_, whenReleased_next ..⟩
  all_goals exact ⟨_, whenReleased_next ..⟩

/-- Settles O2: every arm answers a next state, and the frame of every act holds the line of commands. -/
theorem everyCommandAnswersNext : Obligations.EveryCommandAnswersNext := by
  intro c s
  obtain ⟨t, run⟩ := exec_next c s
  refine ⟨t, run, ?_⟩
  by_cases reset : c = .fullReset
  · subst reset; cases run; exact ⟨rfl, rfl⟩
  · by_cases release : ∃ share cdiv baud levels, c = .resetRelease share cdiv baud levels
    · obtain ⟨share, cdiv, baud, levels, rfl⟩ := release
      simp only [exec, execResetRelease] at run
      split at run <;> cases run <;> exact ⟨rfl, rfl⟩
    · have settled := (ClaimMoves.settled_effect (effect_of_exec run) reset (fun a b c d h => release ⟨a, b, c, d, h⟩)).1
      unfold Settled at settled
      rw [settled]
      exact ⟨rfl, rfl⟩

/-- Settles O1: the two sides are one by the definition of a step. -/
theorem stepRunsFrontCommand : Obligations.StepRunsFrontCommand := fun _ _ _ => rfl

end Sys2Proof.Noninterference
end

section
/-!
PROOFS. Every operation of the part keeps the bounds of rings, event queues, counters and the CLK phase, and so does every
step.
-/

namespace Sys2Proof.Bounds

open Sys2Proof.Machine Sys2Proof.Safety Sys2Proof.Statement Sys2Proof.StepEffects Sys2Proof.StepFrames
open Sys2Proof.Noninterference

/-! ### One rule for each table -/

section Rules

variable {s t : State}

theorem BoundsLaw.ring (h : BoundsLaw s) (p : Port) : RingBounds (s.ring p) := (h.1 p).1
theorem BoundsLaw.queue (h : BoundsLaw s) (p : Port) : QueueBounds (s.queue p) := (h.1 p).2.1
theorem BoundsLaw.port (h : BoundsLaw s) (p : Port) : PortBounds (s.port p) := (h.1 p).2.2
theorem BoundsLaw.point (h : BoundsLaw s) (i : PointIdx) : EntryBounds (s.point i) := h.2.1 i
theorem BoundsLaw.slot (h : BoundsLaw s) {p : Port} {k : SlotIdx} {u : Subscription} (occupied : s.slot p k = some u) :
    SubscriptionBounds u := h.2.2.1 p k u occupied

/-- The laws speak of six parts of the state. -/
theorem bounds_of_tables (h : BoundsLaw s) (rings : t.rings = s.rings) (queues : QueuesGrow s t) (ports : t.ports = s.ports)
    (points : t.points = s.points) (subs : t.subs = s.subs) (phase : t.clkPhase = s.clkPhase) : BoundsLaw t := by
  obtain ⟨perPort, perPoint, perSlot, clk⟩ := h
  refine ⟨fun p => ?_, fun i => ?_, fun p k u => ?_, phase ▸ clk⟩
  · obtain ⟨ring, queue, port⟩ := perPort p
    refine ⟨?_, ⟨(queues p).2.2 queue.1, ((queues p).2.1 queue.2).2⟩, ?_⟩
    · unfold State.ring at ring ⊢; rw [rings]; exact ring
    · unfold State.port at port ⊢; rw [ports]; exact port
  · have := perPoint i
    unfold State.point at this ⊢; rw [points]; exact this
  · have := perSlot p k u
    unfold State.slot State.slots at this ⊢; rw [subs]; exact this

theorem bounds_of_onlyMonitors (h : BoundsLaw s) (only : OnlyMonitors s t) (queues : QueuesGrow s t) : BoundsLaw t := by
  unfold OnlyMonitors at only
  exact bounds_of_tables h (by rw [only]) queues (by rw [only]) (by rw [only]) (by rw [only]) (by rw [only])

theorem bounds_setPoint (h : BoundsLaw s) (i : PointIdx) {e : PointEntry} (entry : EntryBounds e) :
    BoundsLaw (s.setPoint i e) := by
  refine ⟨h.1, fun j => ?_, h.2.2⟩
  rw [point_setPoint_eq]
  split
  · exact entry
  · exact h.2.1 j

theorem bounds_setSlot (h : BoundsLaw s) (p : Port) (k : SlotIdx) {v : Option Subscription}
    (entry : ∀ u ∈ v, SubscriptionBounds u) : BoundsLaw (s.setSlot p k v) := by
  refine ⟨h.1, h.2.1, fun q l u occupied => ?_, h.2.2.2⟩
  by_cases hq : q = p
  · by_cases hl : l = k
    · subst hq hl
      rw [slot_setSlot] at occupied
      exact entry u occupied
    · rw [hq, slot_setSlot_slot_ne _ _ _ _ _ hl] at occupied
      exact h.2.2.1 _ _ u occupied
  · rw [slot_setSlot_port_ne _ _ _ _ _ _ hq] at occupied
    exact h.2.2.1 _ _ u occupied

theorem bounds_setRing (h : BoundsLaw s) (p : Port) {r : Ring} (ring : RingBounds r) : BoundsLaw (s.setRing p r) := by
  refine ⟨fun q => ⟨?_, (h.1 q).2⟩, h.2⟩
  rw [ring_setRing_eq]
  split
  · exact ring
  · exact (h.1 q).1

theorem bounds_setQueue (h : BoundsLaw s) (p : Port) {x : EventQueue} (queue : QueueBounds x) :
    BoundsLaw (s.setQueue p x) := by
  refine ⟨fun q => ⟨(h.1 q).1, ?_, (h.1 q).2.2⟩, h.2⟩
  rw [queue_setQueue_eq]
  split
  · exact queue
  · exact (h.1 q).2.1

theorem bounds_setPort (h : BoundsLaw s) (p : Port) {x : HostPort} (port : PortBounds x) : BoundsLaw (s.setPort p x) := by
  refine ⟨fun q => ⟨(h.1 q).1, (h.1 q).2.1, ?_⟩, h.2⟩
  rw [port_setPort_eq]
  split
  · exact port
  · exact (h.1 q).2.2

theorem bounds_formEvent (h : BoundsLaw s) (kind : EventKind) (subject value : Nat) (dest : Port → Bool) :
    BoundsLaw (formEvent kind subject value dest s) :=
  bounds_of_onlyMonitors h (formEvent_only ..).onlyClaims.onlyMonitors (.formEvent _ _ _ _ _)

theorem bounds_addClaim (h : BoundsLaw s) (l : LineIdx) (c : Claimant) : BoundsLaw (addClaim l c s) :=
  bounds_of_onlyMonitors h (addClaim_only ..).onlyMonitors (.addClaim _ _ _)

theorem bounds_removeClaim (h : BoundsLaw s) (l : LineIdx) (c : Claimant) : BoundsLaw (removeClaim l c s) :=
  bounds_of_onlyMonitors h (removeClaim_only ..).onlyMonitors (.removeClaim _ _ _)

theorem bounds_addClaims (h : BoundsLaw s) (mask : LineMask) (c : Claimant) : BoundsLaw (addClaims mask c s) :=
  foldl_keeps BoundsLaw _ _ (fun _ l _ ht => bounds_addClaim ht l c) s h

theorem bounds_removeClaims (h : BoundsLaw s) (mask : LineMask) (c : Claimant) : BoundsLaw (removeClaims mask c s) :=
  foldl_keeps BoundsLaw _ _ (fun _ l _ ht => bounds_removeClaim ht l c) s h

/-- A write that none of the laws speaks of. -/
theorem bounds_same (h : BoundsLaw s) (rings : t.rings = s.rings) (queues : t.queues = s.queues) (ports : t.ports = s.ports)
    (points : t.points = s.points) (subs : t.subs = s.subs) (phase : t.clkPhase = s.clkPhase) : BoundsLaw t :=
  bounds_of_tables h rings (.of_queues queues) ports points subs phase

end Rules

/-! ### The scheduler and the triggers -/

section Scheduler

variable {s : State}

theorem bounds_beginConversionOf (h : BoundsLaw s) (subject : Subject) : BoundsLaw (beginConversionOf subject s) := by
  cases subject <;> exact bounds_same h rfl rfl rfl rfl rfl rfl

theorem bounds_startBurst (h : BoundsLaw s) (subject : Subject) (c : BurstClass) : BoundsLaw (startBurst subject c s) := by
  have starts : BoundsLaw (subjectStarts subject s) := by
    cases subject with
    | point i => exact bounds_setPoint h i ⟨(h.2.1 i).1, Nat.zero_le _, by simp [clearBurst]⟩
    | job g => exact bounds_same h rfl rfl rfl rfl rfl rfl
  unfold startBurst
  generalize subjectStarts subject s = t at starts ⊢
  exact bounds_beginConversionOf (bounds_same starts rfl rfl rfl rfl rfl rfl) subject

theorem bounds_grantUrgent (h : BoundsLaw s) (i : PointIdx) (rest : List PointIdx) : BoundsLaw (grantUrgent i rest s) := by
  unfold grantUrgent
  refine bounds_startBurst ?_ _ _
  split <;> exact bounds_same h rfl rfl rfl rfl rfl rfl

theorem bounds_grantPending (h : BoundsLaw s) (p : Port) : BoundsLaw (grantPending p s) := by
  unfold grantPending
  split
  · refine bounds_startBurst ?_ _ _
    exact bounds_same h rfl rfl rfl rfl rfl rfl
  · exact h

theorem bounds_resumeBurst (h : BoundsLaw s) (b : Burst) : BoundsLaw (resumeBurst b s) := by
  unfold resumeBurst
  refine bounds_beginConversionOf ?_ _
  split
  · next i _ =>
    have converts := bounds_setPoint h i (e := { s.point i with state := .converting }) (h.2.1 i)
    exact bounds_same converts rfl rfl rfl rfl rfl rfl
  · exact bounds_same h rfl rfl rfl rfl rfl rfl

theorem bounds_grantDecision (h : BoundsLaw s) : BoundsLaw (grantDecision s) := by
  unfold grantDecision
  split
  · exact bounds_grantUrgent h _ _
  · split
    · exact bounds_resumeBurst h _
    · split
      · refine bounds_grantPending ?_ _
        exact bounds_same h rfl rfl rfl rfl rfl rfl
      · split
        · exact bounds_grantPending h _
        · exact bounds_same h rfl rfl rfl rfl rfl rfl

theorem bounds_takeDecision (h : BoundsLaw s) : BoundsLaw (takeDecision s) :=
  bounds_grantDecision (bounds_same h rfl rfl rfl rfl rfl rfl)

theorem bounds_decideIfIdle (h : BoundsLaw s) : BoundsLaw (decideIfIdle s) := by
  unfold decideIfIdle
  split
  · exact bounds_takeDecision h
  · exact h

theorem bounds_suspendBurst (h : BoundsLaw s) (b : Burst) : BoundsLaw (suspendBurst b s) := by
  obtain ⟨i | g, c, n⟩ := b
  · exact bounds_grantDecision (bounds_same (bounds_setPoint h i
      (e := { s.point i with state := .suspended, resumedSoFar := true }) (h.2.1 i)) rfl rfl rfl rfl rfl rfl)
  · exact bounds_grantDecision (bounds_same h rfl rfl rfl rfl rfl rfl)

theorem bounds_becomeDue (h : BoundsLaw s) (i : PointIdx) : BoundsLaw (becomeDue i s) := by
  unfold becomeDue
  have due : BoundsLaw (s.modPoint i (fun e => { e with state := .due, delayTimer := none })) :=
    bounds_setPoint h i (h.2.1 i)
  refine bounds_decideIfIdle ?_
  unfold enqueueDue
  split
  · exact bounds_same due rfl rfl rfl rfl rfl rfl
  · split
    · exact bounds_same due rfl rfl rfl rfl rfl rfl
    · exact due

theorem bounds_triggerPoint (h : BoundsLaw s) (i : PointIdx) : BoundsLaw (triggerPoint i s) := by
  have lost : BoundsLaw (loseTrigger i s) :=
    bounds_setPoint h i ⟨Nat.min_le_right _ _, (h.2.1 i).2⟩
  unfold triggerPoint
  split
  · unfold takeTrigger
    split
    · exact bounds_becomeDue h i
    · exact bounds_setPoint h i (h.2.1 i)
  all_goals first
    | exact lost
    | exact h

theorem bounds_edgeAtPoint (h : BoundsLaw s) (n : TrgIdx) (edge : Edge) (i : PointIdx) :
    BoundsLaw (edgeAtPoint n edge i s) := by
  unfold edgeAtPoint
  split
  · exact h
  · split
    · exact bounds_triggerPoint (bounds_setPoint h i (e := { s.point i with divider := 0 }) (h.2.1 i)) i
    · exact bounds_setPoint h i (h.2.1 i)

theorem bounds_edgeAccepted (h : BoundsLaw s) (n : TrgIdx) (edge : Edge) : BoundsLaw (edgeAccepted n edge s) :=
  foldl_keeps BoundsLaw _ _ (fun _ i _ ht => bounds_edgeAtPoint ht n edge i) _ (bounds_same h rfl rfl rfl rfl rfl rfl)

theorem bounds_queueJob (h : BoundsLaw s) (p : Port) (g : Gain) : BoundsLaw (queueJob p g s) :=
  bounds_decideIfIdle (bounds_same h rfl rfl rfl rfl rfl rfl)

end Scheduler

/-! ### Departures -/

section Departures

variable {s : State}

theorem bounds_cleared : EntryBounds .cleared := by decide

theorem bounds_listEmptied (h : BoundsLaw s) (p : Port) (i : PointIdx) : BoundsLaw (listEmptied p i s) := by
  have freed : ∀ {t : State}, BoundsLaw t → BoundsLaw (freePoint i t) := fun ht => bounds_setPoint ht i bounds_cleared
  unfold listEmptied
  split
  · exact freed h
  · exact freed h
  · refine freed ?_
    unfold dequeueDue
    split <;> exact bounds_same h rfl rfl rfl rfl rfl rfl
  · exact freed (bounds_same h rfl rfl rfl rfl rfl rfl)
  · exact bounds_setPoint h i (h.2.1 i)
  · exact h
  · exact h

theorem bounds_leaveList (h : BoundsLaw s) (p : Port) (i : PointIdx) : BoundsLaw (leaveList p i s) := by
  have left : BoundsLaw (s.setPoint i { s.point i with subscribers := (s.point i).subscribers.erase p }) :=
    bounds_setPoint h i (h.2.1 i)
  unfold leaveList
  dsimp only
  split
  · exact bounds_listEmptied left p i
  · split
    · unfold handover
      split
      · exact bounds_same left rfl rfl rfl rfl rfl rfl
      · exact left
    · exact left

theorem bounds_removeSubscription (h : BoundsLaw s) (p : Port) (k : SlotIdx) : BoundsLaw (removeSubscription p k s) := by
  unfold removeSubscription
  split
  · exact h
  · have freed : BoundsLaw (s.setSlot p k none) := bounds_setSlot h p k (fun _ h => nomatch h)
    exact bounds_leaveList (bounds_of_onlyMonitors freed (deleteMonitorsOn_only ..) (.deleteMonitorsOn _ _ _)) p _

theorem bounds_teardownBlocks (h : BoundsLaw s) (p : Port) : BoundsLaw (teardownBlocks p s) := by
  have subscriptions : BoundsLaw (removeSubscriptions p s) :=
    foldl_keeps BoundsLaw _ _ (fun _ k _ ht => bounds_removeSubscription ht p k) s h
  unfold teardownBlocks
  generalize removeSubscriptions p s = t at subscriptions ⊢
  have jobs := removeQueuedJobs_only p t
  generalize removeQueuedJobs p t = u at jobs ⊢
  have comparators := unholdComparators_only p u
  generalize unholdComparators p u = v at comparators ⊢
  rw [comparators, jobs]
  exact bounds_same subscriptions rfl rfl rfl rfl rfl rfl

theorem bounds_teardownPort (h : BoundsLaw s) (kind : EventKind) (p : Port) : BoundsLaw (teardownPort kind p s) := by
  unfold teardownPort
  refine bounds_formEvent (bounds_setPort (bounds_setQueue (bounds_setRing h p ?_) p ?_) p ?_) ..
  · obtain ⟨-, -, -, total⟩ := (h.1 p).1
    exact ⟨by simp [ringSessionEnd], by simp [ringSessionEnd], Nat.zero_le _, total⟩
  · exact ⟨by simp [EventQueue.empty], by simp [EventQueue.empty]⟩
  · exact (h.1 p).2.2

end Departures

/-! ### The result path -/

section Results

variable {s : State}

theorem ringBounds_store {r : Ring} (x : Record) (room : r.window.length + r.unsent.length < 64) (h : RingBounds r) :
    RingBounds (ringStore r x) := by
  obtain ⟨-, window, -, total⟩ := h
  refine ⟨?_, window, Nat.zero_le _, total⟩
  simp only [ringStore, List.length_append, List.length_singleton]
  omega

theorem ringBounds_arrive {r : Ring} (x : Record) (h : RingBounds r) : RingBounds (ringArrive r x) := by
  unfold ringArrive
  split
  · next room => exact ringBounds_store x room h
  · next full =>
    have full' : ¬r.window.length + r.unsent.length < 64 := full
    obtain ⟨fill, window, -, -⟩ := h
    have losses : satAdd 255 r.pendingLost 1 ≤ 255 ∧ satAdd 65535 r.totalLost 1 ≤ 65535 := by
      constructor <;> simp [satAdd]
    split
    · exact ⟨fill, window, losses⟩
    · refine ringBounds_store x ?_ ⟨?_, window, losses⟩
      · simp only [ringCountLoss, List.length_tail]; omega
      · simp only [ringCountLoss, List.length_tail]; omega

theorem bounds_evaluateMonitor (h : BoundsLaw s) (k : MonitorIdx) (m : Monitor) (v : Nat) :
    BoundsLaw (evaluateMonitor k m v s) := by
  have set : ∀ m', BoundsLaw (s.setMonitor k m') := fun _ => bounds_same h rfl rfl rfl rfl rfl rfl
  have counts : BoundsLaw (monitorCounts k m v s) := by
    unfold monitorCounts
    split
    · unfold monitorTrips
      dsimp only
      split
      · exact bounds_addClaim (bounds_formEvent (set _) ..) ..
      · exact bounds_formEvent (set _) ..
    · exact set _
  unfold evaluateMonitor
  split
  · split
    · exact counts
    · exact set _
  · split
    · exact counts
    · exact set _
  · split
    · unfold monitorRecovers
      dsimp only
      split
      · exact bounds_removeClaim (bounds_formEvent (set _) ..) ..
      all_goals exact bounds_formEvent (set _) ..
    · exact h

theorem bounds_evaluateMonitors (h : BoundsLaw s) (i : PointIdx) (v : Nat) : BoundsLaw (evaluateMonitors i v s) := by
  refine foldl_keeps BoundsLaw _ _ (fun t k _ ht => ?_) s h
  split
  · split
    · exact bounds_evaluateMonitor ht ..
    · exact ht
  · exact ht

theorem bounds_modSubscription (h : BoundsLaw s) (p : Port) (i : PointIdx) {f : Subscription → Subscription}
    (keeps : ∀ u, SubscriptionBounds u → SubscriptionBounds (f u)) : BoundsLaw (modSubscription p i f s) := by
  unfold modSubscription
  split
  · next k _ =>
    refine bounds_setSlot h p k fun u hu => ?_
    obtain ⟨v, hv, rfl⟩ := Option.map_eq_some_iff.mp hu
    exact keeps v (h.2.2.1 p k v hv)
  · exact h

theorem bounds_transferMissed (h : BoundsLaw s) (i : PointIdx) : BoundsLaw (transferMissed i s) := by
  unfold transferMissed
  extract_lets e t
  have adds : ∀ u : Subscription, SubscriptionBounds u →
      SubscriptionBounds { u with missed := satAdd 255 u.missed e.missed } :=
    fun u hu => ⟨Nat.min_le_right _ _, hu.2⟩
  have transferred : BoundsLaw t := by
    unfold t
    exact foldl_keeps BoundsLaw _ _ (fun _ p _ ht => bounds_modSubscription ht p i adds) s h
  clear_value t
  exact bounds_setPoint transferred i ⟨Nat.zero_le _, (transferred.2.1 i).2⟩

theorem bounds_offerResult (h : BoundsLaw s) (i : PointIdx) (r : Result) (p : Port) : BoundsLaw (offerResult i r p s) := by
  unfold offerResult
  split
  · exact h
  · next k _ =>
    split
    · exact h
    · next u occupied =>
      have bound := h.2.2.1 p k u occupied
      split
      · exact h
      · split
        · have reset : BoundsLaw (s.setSlot p k (some { u with counter := 0, missed := 0, firstPending := false })) := by
            refine bounds_setSlot h p k fun v hv => ?_
            cases hv
            exact ⟨Nat.zero_le _, by have := bound.2; simp only; omega⟩
          unfold deliverRecord
          split
          · exact bounds_setRing reset p (ringBounds_arrive _ (reset.1 p).1)
          · exact reset
        · refine bounds_setSlot h p k fun v hv => ?_
          cases hv
          exact ⟨bound.1, by have := bound.2; simp only; omega⟩

theorem bounds_finalizePoint (h : BoundsLaw s) (i : PointIdx) : BoundsLaw (finalizePoint i s) := by
  unfold finalizePoint
  extract_lets r t u
  have sequenced : BoundsLaw (s.modPoint i (fun e => { e with sequence := r.sequence })) := bounds_setPoint h i (h.2.1 i)
  have transferred : BoundsLaw t := bounds_transferMissed sequenced i
  have offered : BoundsLaw u := foldl_keeps BoundsLaw _ _ (fun _ p _ ht => bounds_offerResult ht i r p) _
    (bounds_evaluateMonitors transferred i r.value16)
  clear_value u
  exact bounds_setPoint offered i (offered.2.1 i)

theorem bounds_endBurst (h : BoundsLaw s) (subject : Subject) : BoundsLaw (endBurst subject s) := by
  cases subject with
  | point i => exact bounds_finalizePoint h i
  | job g =>
    show BoundsLaw (completeCalibration g s)
    unfold completeCalibration
    extract_lets trim t
    have event : BoundsLaw t := bounds_formEvent (s := s.setTrimEntry g _) (bounds_same h rfl rfl rfl rfl rfl rfl) ..
    clear_value t
    exact bounds_same event rfl rfl rfl rfl rfl rfl

theorem bounds_takeCode (h : BoundsLaw s) (subject : Subject) (code : ConverterCode) (reading : TimeReading) :
    BoundsLaw (takeCode subject code reading s) := by
  cases subject with
  | job g => exact bounds_same h rfl rfl rfl rfl rfl rfl
  | point i =>
    obtain ⟨missed, sum, -⟩ := h.2.1 i
    refine bounds_setPoint h i ⟨missed, ?_, by simp⟩
    have := code.isLt
    simp only
    omega

theorem bounds_completeConversion (h : BoundsLaw s) (b : Burst) (code : ConverterCode) :
    BoundsLaw (completeConversion b code s) := by
  unfold completeConversion
  split
  · refine bounds_grantDecision ?_
    obtain ⟨i | g, c, n⟩ := b
    · exact bounds_setPoint h i bounds_cleared
    · exact h
  · have takes := bounds_takeCode h b.subject code (sampleReading s)
    dsimp only
    generalize takeCode b.subject code (sampleReading s) s = t at takes ⊢
    split
    · have ends := bounds_endBurst takes b.subject
      rcases burstEnds_cases b.subject t with same | same
      · rw [same]; exact bounds_same ends rfl rfl rfl rfl rfl rfl
      · rw [same]; exact bounds_grantDecision ends
    · split
      · exact bounds_suspendBurst takes b
      · exact bounds_beginConversionOf takes _

theorem bounds_takeSample (h : BoundsLaw s) (k : TripIdx) (output : Bool) : BoundsLaw (takeSample k output s) := by
  have mod : ∀ {t : State} (f), BoundsLaw t → BoundsLaw (t.modComparator k f) :=
    fun f ht => bounds_same ht rfl rfl rfl rfl rfl rfl
  unfold takeSample
  split
  · unfold fireComparator
    exact mod _ (bounds_addClaims (bounds_formEvent (mod _ (mod _ h)) ..) ..)
  · exact mod _ h

end Results

/-! ### The link -/

section Link

variable {s : State}

/-- A change of the port that keeps the line receiver's byte and the count of framing errors. -/
theorem bounds_modPort (h : BoundsLaw s) (p : Port) {f : HostPort → HostPort}
    (errors : ∀ x, (f x).framingErrors = x.framingErrors) (byte : ∀ x, (f x).rxByte = x.rxByte) :
    BoundsLaw (s.modPort p f) :=
  bounds_setPort h p ⟨(errors _).symm ▸ (h.1 p).2.2.1, by rw [byte]; exact (h.1 p).2.2.2⟩

theorem bounds_countFramingError (h : BoundsLaw s) (p : Port) : BoundsLaw (countFramingError p s) :=
  bounds_setPort h p ⟨Nat.min_le_right _ _, (h.1 p).2.2.2⟩

theorem bounds_discardFrame (h : BoundsLaw s) (p : Port) : BoundsLaw (discardFrame p s) :=
  have hunts : BoundsLaw (receiverHunts p s) := bounds_modPort h p (fun _ => rfl) (fun _ => rfl)
  bounds_countFramingError hunts p

theorem bounds_badStartByte (h : BoundsLaw s) (p : Port) (run : Bool) : BoundsLaw (badStartByte p run s) := by
  have hunts : BoundsLaw (s.modPort p (fun h => { h with receiver := .hunting true })) :=
    bounds_modPort h p (fun _ => rfl) (fun _ => rfl)
  unfold badStartByte
  dsimp only
  split
  · exact hunts
  · exact bounds_countFramingError hunts p

theorem bounds_takeByteError (h : BoundsLaw s) (p : Port) : BoundsLaw (takeByteError p s) := by
  unfold takeByteError
  split
  · exact bounds_badStartByte h p _
  all_goals exact bounds_discardFrame h p

theorem bounds_malformedFrame (h : BoundsLaw s) (p : Port) (cause : FramingCause) : BoundsLaw (malformedFrame p cause s) := by
  unfold malformedFrame
  split
  · exact bounds_badStartByte h p _
  · exact h
  · exact bounds_discardFrame h p
  · exact bounds_discardFrame h p
  · exact h
  · exact bounds_takeByteError h p
  · exact bounds_discardFrame h p

theorem bounds_interByteExpires (h : BoundsLaw s) (p : Port) : BoundsLaw (interByteExpires p s) := by
  unfold interByteExpires
  split
  · exact h
  all_goals
    split
    · exact bounds_discardFrame h p
    · exact h

theorem bounds_responseEnds (h : BoundsLaw s) (p : Port) : BoundsLaw (responseEnds p s) := by
  have after : ∀ {t : State}, BoundsLaw t → BoundsLaw (afterResponse p t) := by
    intro t ht
    unfold afterResponse
    split <;> exact bounds_modPort ht p (fun _ => rfl) (fun _ => rfl)
  refine after ?_
  split
  · exact bounds_teardownPort h _ p
  · exact h

theorem ringBounds_read {r : Ring} {f : ReadResultsFields} (few : f.k ≤ 15) (h : RingBounds r) :
    RingBounds (ringRead r f).1 := by
  obtain ⟨fill, window, lost⟩ := h
  unfold ringRead
  split
  · refine ⟨?_, ?_, lost⟩ <;> simp only [ringForm, List.length_take, List.length_drop] <;> omega
  · split
    · refine ⟨?_, ?_, lost⟩ <;>
        simp only [ringForm, ringRelease, List.length_take, List.length_drop] <;> omega
    · exact ⟨fill, window, lost⟩

theorem bounds_served {p : Port} {r : Request} {t : State} (h : BoundsLaw s) (served : Served p s r t) : BoundsLaw t := by
  have new : ∀ i {body : List Byte} {f : DefineFields}, readDefine body = some f →
      ∀ v ∈ some (newSubscription i f.conditioning), SubscriptionBounds v := by
    intro i body f fields v hv
    cases hv
    obtain ⟨key, -, rest⟩ := Option.bind_eq_some_iff.mp fields
    obtain ⟨c, conditioning, made⟩ := Option.bind_eq_some_iff.mp rest
    cases made
    exact ⟨Nat.zero_le _, (readConditioning_inRange conditioning).2.1⟩
  cases served
  case unchanged => exact h
  case attach f _ =>
    unfold startSession
    refine bounds_setPort (bounds_setQueue (bounds_setRing h p ?_) p ?_) p (h.1 p).2.2
    · exact ⟨Nat.zero_le _, Nat.zero_le _, Nat.zero_le _, Nat.zero_le _⟩
    · exact ⟨by simp [EventQueue.empty], by simp [EventQueue.empty]⟩
  case detach => exact bounds_modPort (bounds_teardownBlocks h p) p (fun _ => rfl) (fun _ => rfl)
  case joinPoint k i f body fields _ _ _ =>
    have slot := bounds_setSlot h p k (new i fields)
    exact bounds_setPoint slot i (slot.2.1 i)
  case createPoint k i f body fields _ _ _ =>
    have entry : EntryBounds (newPoint p f.key) := ⟨Nat.zero_le _, Nat.zero_le _, by simp [newPoint, PointEntry.cleared]⟩
    exact bounds_setSlot (bounds_setPoint h i entry) p k (new i fields)
  case leavePoint i _ _ =>
    unfold leavePoint
    split
    · exact bounds_removeSubscription h p _
    · exact h
  case pause => exact bounds_modSubscription h p _ fun u hu => hu
  case resume =>
    refine bounds_modSubscription h p _ fun u hu => ?_
    unfold resumed
    split
    · exact hu
    · exact ⟨Nat.zero_le _, by have := hu.2; simp only; omega⟩
  case setConditioning i c positive _ _ => exact bounds_modSubscription h p _ fun u hu => ⟨hu.1, positive⟩
  case sampleNow => exact bounds_triggerPoint h _
  case calibrate => exact bounds_queueJob h p _
  case readResults f few => exact bounds_setRing h p (ringBounds_read few (h.1 p).1)
  case ackResults =>
    obtain ⟨fill, -, lost⟩ := (h.1 p).1
    exact bounds_setRing h p ⟨by simp only [ringRelease, List.length_nil]; omega, by simp [ringRelease], lost⟩
  case readEvents n =>
    refine bounds_setQueue h p ⟨?_, Nat.zero_le _⟩
    have := (h.1 p).2.1.1
    simp only [List.length_drop]
    omega
  case deleteMonitor k m _ _ => exact bounds_of_onlyMonitors h (deleteMonitor_only k s) (.deleteMonitor k s)
  case clearMonitorClaim k m _ _ =>
    unfold clearClaim
    split
    · exact bounds_removeClaim (s := s.setMonitor k _) (bounds_same h rfl rfl rfl rfl rfl rfl) ..
    · exact h
  case claimLine => exact bounds_addClaims h ..
  case releaseLine => exact bounds_removeClaims h ..
  case releaseStart => exact bounds_removeClaims h ..
  case releaseOrphan => exact bounds_removeClaims h ..
  case clearTrip k _ =>
    unfold clearComparator
    extract_lets claimed t
    have event : BoundsLaw t := bounds_formEvent (s := s.modComparator k _) (bounds_same h rfl rfl rfl rfl rfl rfl) ..
    exact bounds_same (bounds_removeClaims event claimed (.trip k)) rfl rfl rfl rfl rfl rfl
  all_goals exact bounds_same h rfl rfl rfl rfl rfl rfl

theorem bounds_received {p : Port} {tag code : Byte} {body : List Byte} {t : State} (h : BoundsLaw s)
    (received : Received p tag code body s t) : BoundsLaw t := by
  have owner : BoundsLaw (atOwner p s) := bounds_modPort h p (fun _ => rfl) (fun _ => rfl)
  cases received
  case resent => exact bounds_modPort owner p (fun _ => rfl) (fun _ => rfl)
  case refused => exact bounds_modPort owner p (fun _ => rfl) (fun _ => rfl)
  case served r a u _ _ _ served => exact bounds_modPort (bounds_served owner served) p (fun _ => rfl) (fun _ => rfl)
  case busyWaits =>
    have hunts : BoundsLaw (receiverHunts p s) := bounds_modPort h p (fun _ => rfl) (fun _ => rfl)
    exact bounds_modPort hunts p (fun _ => rfl) (fun _ => rfl)
  case discarded => exact bounds_discardFrame h p

theorem bounds_takeByte (h : BoundsLaw s) (p : Port) (b : Byte) : BoundsLaw (takeByte p b s) := by
  have moves : ∀ r, BoundsLaw (receiverMoves p r s) := fun r => bounds_modPort h p (fun _ => rfl) (fun _ => rfl)
  unfold takeByte
  split
  · split
    · exact moves _
    · exact bounds_badStartByte h p _
  · split
    · exact moves _
    · exact bounds_discardFrame h p
  · split <;> exact moves _
  · exact moves _
  · unfold frameComplete
    split
    · split
      · exact bounds_received h (goodFrame_received ..)
      · exact bounds_discardFrame h p
    · exact bounds_discardFrame h p

end Link

/-! ### The commands and the clock -/

theorem bounds_reset (s : State) :
    BoundsLaw { State.reset with pins := s.pins, draws := s.draws, pending := s.pending } := by
  have ring : RingBounds .cleared := by decide
  have queue : QueueBounds .empty := by decide
  have port : PortBounds .cleared := ⟨by decide, fun x hx => nomatch hx⟩
  refine ⟨fun p => ⟨?_, ?_, ?_⟩, fun i => ?_, fun p k u occupied => ?_, Nat.zero_le _⟩
  · simpa [State.ring, State.reset] using ring
  · simpa [State.queue, State.reset] using queue
  · simpa [State.port, State.reset] using port
  · simpa [State.point, State.reset] using bounds_cleared
  · simp [State.slot, State.slots, State.reset] at occupied

theorem bounds_effect {c : Instr} {s t : State} (h : BoundsLaw s) (effect : Effect s c t) : BoundsLaw t := by
  cases effect
  case nothing => exact h
  case fullReset => exact bounds_reset s
  case resetRelease => exact ⟨h.1, h.2.1, h.2.2.1, Nat.zero_le _⟩
  case trgEdge => exact bounds_edgeAccepted h ..
  case periodicExpiry i period _ _ _ =>
    exact bounds_triggerPoint (bounds_setPoint h i (e := { s.point i with countdown := some (8 * period) }) (h.2.1 i)) i
  case delayExpiry => exact bounds_becomeDue h _
  case completion => exact bounds_completeConversion h ..
  case tripFiring => exact bounds_takeSample h ..
  case comparatorSample k input i output =>
    exact bounds_takeSample (s := s.driveAin i input.level) (bounds_same h rfl rfl rfl rfl rfl rfl) ..
  case framingError => exact bounds_malformedFrame h ..
  case interByteTimeout => exact bounds_interByteExpires h _
  case responseSent => exact bounds_responseEnds h _
  case supervisionExpiry p _ => exact bounds_teardownPort (bounds_teardownBlocks h p) _ p
  case byteTaken => exact bounds_takeByte h ..
  case request => exact bounds_received h (goodFrame_received ..)
  case unknownRequest => exact bounds_received h (goodFrame_received ..)
  case busyReply => exact bounds_received h (goodFrame_received ..)

/-- No more than the ten bits of a byte are sampled (R173). -/
theorem lineClk_bits {baud : StrapCode} {level : Bool} {x : Option LineByte} (h : ∀ y ∈ x, y.bits.length ≤ 10) :
    ∀ y ∈ lineClk baud level x, y.bits.length ≤ 10 := by
  have waits : ∀ y ∈ awaitStart level, y.bits.length ≤ 10 := by
    intro y hy
    unfold awaitStart at hy
    split at hy
    · cases hy
    · cases hy; exact Nat.zero_le _
  cases x with
  | none => exact waits
  | some x =>
    have bound := h x rfl
    intro y hy
    simp only [lineClk, arrivingClk] at hy
    split at hy
    · next more =>
      simp only [Config.byteBits] at more
      split at hy
      · cases hy
      · cases hy
        dsimp only
        split
        · simp only [List.length_append, List.length_singleton]; omega
        · exact bound
    · split at hy
      · exact waits y hy
      · cases hy; exact bound

theorem bounds_clkTimebase {s : State} (h : BoundsLaw s) : BoundsLaw (clkTimebase s) := by
  unfold clkTimebase
  split
  · unfold timebaseTick
    have points : BoundsLaw (tickPoints s) := by
      unfold tickPoints
      exact foldl_keeps BoundsLaw _ _
        (fun t i _ ht => bounds_setPoint ht i (e := pointTick (t.point i)) (ht.2.1 i)) s h
    generalize tickPoints s = u at points ⊢
    have ports : BoundsLaw (tickPorts u) := by
      unfold tickPorts
      exact foldl_keeps BoundsLaw _ _
        (fun t p _ ht => bounds_setPort ht p (x := portTick (t.port p)) (ht.1 p).2.2) u points
    generalize tickPorts u = v at ports ⊢
    exact ⟨ports.1, ports.2.1, ports.2.2.1, Nat.zero_le _⟩
  · next noTick =>
    simp only [ticks, Bool.not_eq_true', decide_eq_false_iff_not, Decidable.not_not] at noTick
    exact ⟨h.1, h.2.1, h.2.2.1, by simp only; omega⟩

theorem bounds_sampleComparators {s : State} (h : BoundsLaw s) : BoundsLaw (sampleComparators s) := by
  unfold sampleComparators
  refine foldl_keeps BoundsLaw _ _ (fun _ _ _ ht => ?_) s h
  exact bounds_same ht rfl rfl rfl rfl rfl rfl

theorem bounds_clkLinks {s : State} (h : BoundsLaw s) : BoundsLaw (clkLinks s) := by
  unfold clkLinks
  refine foldl_keeps BoundsLaw _ _ (fun t p _ ht => ?_) s h
  exact bounds_setPort ht p ⟨(ht.1 p).2.2.1, lineClk_bits (ht.1 p).2.2.2⟩

theorem bounds_clkAdvance {s : State} (h : BoundsLaw s) : BoundsLaw (clkAdvance s) := by
  have links := bounds_clkLinks (bounds_sampleComparators (bounds_clkTimebase h))
  unfold clkAdvance
  generalize clkLinks (sampleComparators (clkTimebase s)) = t at links ⊢
  exact bounds_same links rfl rfl rfl rfl rfl rfl

theorem bounds_clkPeriod {s : State} (h : BoundsLaw s) : BoundsLaw (clkPeriod s) := by
  unfold clkPeriod
  split
  · exact h
  · have advanced := bounds_clkAdvance h
    generalize clkAdvance s = t at advanced ⊢
    exact bounds_same advanced rfl rfl rfl rfl rfl rfl

/-- Settles O54: a case analysis of the step, each operation keeping the bounds of what it writes. -/
theorem everyStepKeepsBounds : Obligations.EveryStepKeepsBounds := by
  intro s t h run
  unfold step at run
  split at run
  · next c rest _ => exact bounds_effect (s := { s with pending := rest }) h (effect_of_exec run)
  · cases run
    unfold withNoCommand
    split
    · exact bounds_takeDecision h
    · exact bounds_clkPeriod h

end Sys2Proof.Bounds
end

section
/-!
PROOFS. Every operation of the part keeps the laws of monitors, claim sets and comparators, and so does every step. The laws
are taken apart by claimant: what they say of monitor k and of comparator k alone.
-/

namespace Sys2Proof.Machine

@[simp] theorem claims_formEvent (kind : EventKind) (subject value : Nat) (dest : Port → Bool) (s : State) (l : LineIdx)
    (c : Claimant) : (formEvent kind subject value dest s).claims l c = s.claims l c := (formEvent_only ..).claims l c

@[simp] theorem claims_formEventForAll (kind : EventKind) (subject value : Nat) (s : State) (l : LineIdx) (c : Claimant) :
    (formEventForAll kind subject value s).claims l c = s.claims l c := (formEventForAll_only ..).claims l c

@[simp] theorem monitor_formEvent (kind : EventKind) (subject value : Nat) (dest : Port → Bool) (s : State)
    (k : MonitorIdx) : (formEvent kind subject value dest s).monitor k = s.monitor k := (formEvent_only ..).monitor k

@[simp] theorem comparator_formEventForAll (kind : EventKind) (subject value : Nat) (s : State) (k : TripIdx) :
    (formEventForAll kind subject value s).comparator k = s.comparator k := (formEventForAll_only ..).comparator k

@[simp] theorem monitor_formEventForAll (kind : EventKind) (subject value : Nat) (s : State) (k : MonitorIdx) :
    (formEventForAll kind subject value s).monitor k = s.monitor k := (formEventForAll_only ..).monitor k

@[simp] theorem monitor_addClaim (l : LineIdx) (c : Claimant) (s : State) (k : MonitorIdx) :
    (addClaim l c s).monitor k = s.monitor k := (addClaim_only ..).monitor k

@[simp] theorem monitor_removeClaim (l : LineIdx) (c : Claimant) (s : State) (k : MonitorIdx) :
    (removeClaim l c s).monitor k = s.monitor k := (removeClaim_only ..).monitor k

@[simp] theorem monitor_addClaims (mask : LineMask) (c : Claimant) (s : State) (k : MonitorIdx) :
    (addClaims mask c s).monitor k = s.monitor k := (addClaims_only ..).monitor k

@[simp] theorem monitor_removeClaims (mask : LineMask) (c : Claimant) (s : State) (k : MonitorIdx) :
    (removeClaims mask c s).monitor k = s.monitor k := (removeClaims_only ..).monitor k

@[simp] theorem comparator_addClaims (mask : LineMask) (c : Claimant) (s : State) (k : TripIdx) :
    (addClaims mask c s).comparator k = s.comparator k := (addClaims_only ..).comparator k

@[simp] theorem comparator_removeClaims (mask : LineMask) (c : Claimant) (s : State) (k : TripIdx) :
    (removeClaims mask c s).comparator k = s.comparator k := (removeClaims_only ..).comparator k

theorem endBurst_point (i : PointIdx) (s : State) : endBurst (.point i) s = finalizePoint i s := rfl

theorem endBurst_job (g : Gain) (s : State) : endBurst (.job g) s = completeCalibration g s := rfl

end Sys2Proof.Machine

namespace Sys2Proof.ClaimLawsKept

open Sys2Proof.Machine Sys2Proof.Safety Sys2Proof.Statement Sys2Proof.StepEffects Sys2Proof.StepFrames Sys2Proof.ClaimMoves

/-! ### The laws of one monitor and of one comparator -/

/-- What the laws say of monitor k. -/
def MonitorFits (s : State) (k : MonitorIdx) : Prop :=
  (∀ m ∈ s.monitor k, MonitorLaw m) ∧ ∀ l : LineIdx, s.claims l (.monitor k) = true ↔ (s.monitor k).bind heldLine = some l

/-- What the laws say of comparator k. -/
def TripFits (s : State) (k : TripIdx) : Prop :=
  (∀ l : LineIdx, s.claims l (.trip k) = (s.comparator k).claimed.getLsbD l) ∧
  ((s.comparator k).state ≠ .fired → (s.comparator k).claimed = 0) ∧ RunLaw (s.comparator k)

section Rules

variable {s t : State}

theorem claimLaws_iff : ClaimLaws s ↔ (∀ k, MonitorFits s k) ∧ ∀ k, TripFits s k := by
  constructor
  · rintro ⟨monitors, held, trips, runs⟩
    exact ⟨fun k => ⟨monitors k, held k⟩, fun k => ⟨(trips k).1, (trips k).2, runs k⟩⟩
  · rintro ⟨monitors, trips⟩
    exact ⟨fun k => (monitors k).1, fun k => (monitors k).2, fun k => ⟨(trips k).1, (trips k).2.1⟩, fun k => (trips k).2.2⟩

theorem MonitorFits.of_same {k : MonitorIdx} (h : MonitorFits s k) (entry : t.monitor k = s.monitor k)
    (claims : ∀ l, t.claims l (.monitor k) = s.claims l (.monitor k)) : MonitorFits t k := by
  unfold MonitorFits
  rw [entry]
  exact ⟨h.1, fun l => by rw [claims]; exact h.2 l⟩

theorem TripFits.of_same {k : TripIdx} (h : TripFits s k) (comparator : t.comparator k = s.comparator k)
    (claims : ∀ l, t.claims l (.trip k) = s.claims l (.trip k)) : TripFits t k := by
  unfold TripFits
  rw [comparator]
  exact ⟨fun l => by rw [claims]; exact h.1 l, h.2⟩

/-- The laws speak of monitors, claim sets and comparators alone. -/
theorem claimLaws_same (h : ClaimLaws s) (monitors : t.monitors = s.monitors) (lines : t.lines = s.lines)
    (comparators : t.comparators = s.comparators) : ClaimLaws t := by
  have claims : ∀ l c, t.claims l c = s.claims l c := fun l c => by simp only [State.claims, State.line, lines]
  obtain ⟨perMonitor, perTrip⟩ := claimLaws_iff.mp h
  exact claimLaws_iff.mpr
    ⟨fun k => (perMonitor k).of_same (by simp only [State.monitor, monitors]) fun l => claims l _,
     fun k => (perTrip k).of_same (by simp only [State.comparator, comparators]) fun l => claims l _⟩

/-- Nothing but monitor k, its claims and those of hosts and START moves. -/
theorem claimLaws_at_monitor (h : ClaimLaws s) (k : MonitorIdx) (entries : ∀ j, j ≠ k → t.monitor j = s.monitor j)
    (comparators : ∀ j, t.comparator j = s.comparator j)
    (monitors : ∀ l j, j ≠ k → t.claims l (.monitor j) = s.claims l (.monitor j))
    (trips : ∀ l j, t.claims l (.trip j) = s.claims l (.trip j)) (fits : MonitorFits t k) : ClaimLaws t := by
  obtain ⟨perMonitor, perTrip⟩ := claimLaws_iff.mp h
  refine claimLaws_iff.mpr ⟨fun j => ?_, fun j => (perTrip j).of_same (comparators j) fun l => trips l j⟩
  by_cases same : j = k
  · exact same ▸ fits
  · exact (perMonitor j).of_same (entries j same) fun l => monitors l j same

/-- Nothing but comparator k and its claims moves. -/
theorem claimLaws_at_comparator (h : ClaimLaws s) (k : TripIdx) (entries : ∀ j, t.monitor j = s.monitor j)
    (comparators : ∀ j, j ≠ k → t.comparator j = s.comparator j)
    (monitors : ∀ l j, t.claims l (.monitor j) = s.claims l (.monitor j))
    (trips : ∀ l j, j ≠ k → t.claims l (.trip j) = s.claims l (.trip j)) (fits : TripFits t k) : ClaimLaws t := by
  obtain ⟨perMonitor, perTrip⟩ := claimLaws_iff.mp h
  refine claimLaws_iff.mpr ⟨fun j => (perMonitor j).of_same (entries j) fun l => monitors l j, fun j => ?_⟩
  by_cases same : j = k
  · exact same ▸ fits
  · exact (perTrip j).of_same (comparators j same) fun l => trips l j same

end Rules

/-! ### Monitors -/

section Monitors

variable {s : State} {k : MonitorIdx} {m : Monitor}

theorem heldLine_eq_some {l : LineIdx} : heldLine m = some l ↔ m.claimHeld = true ∧ actionLine m.action = some l := by
  unfold heldLine; split <;> simp_all

theorem claimLaws_setMonitor (h : ClaimLaws s) (k : MonitorIdx) {v : Option Monitor}
    (law : ∀ m ∈ v, MonitorLaw m) (held : v.bind heldLine = (s.monitor k).bind heldLine) : ClaimLaws (s.setMonitor k v) := by
  refine claimLaws_at_monitor h k (fun j other => monitor_setMonitor_ne _ _ _ _ other) (fun _ => rfl) (fun _ _ _ => rfl)
    (fun _ _ => rfl) ?_
  unfold MonitorFits
  rw [monitor_setMonitor]
  exact ⟨law, fun l => by rw [held]; exact h.2.1 k l⟩

theorem claimLaws_formEvent (h : ClaimLaws s) (kind : EventKind) (subject value : Nat) (dest : Port → Bool) :
    ClaimLaws (formEvent kind subject value dest s) := by
  have only := formEvent_only kind subject value dest s
  exact claimLaws_same h (by rw [only]) (by rw [only]) (by rw [only])

/-- HOST and START claims come and go freely. -/
theorem claimLaws_addClaims_host (h : ClaimLaws s) (mask : LineMask) (p : Port) : ClaimLaws (addClaims mask (.host p) s) :=
  claimLaws_at_monitor h 0 (fun _ _ => by simp) (fun _ => by simp) (fun _ _ _ => by simp) (fun _ _ => by simp)
    ((claimLaws_iff.mp h).1 0 |>.of_same (by simp) fun _ => by simp)

theorem claimLaws_removeClaims (h : ClaimLaws s) (mask : LineMask) {c : Claimant} (notMonitor : ∀ j, c ≠ .monitor j)
    (notTrip : ∀ j, c ≠ .trip j) : ClaimLaws (removeClaims mask c s) := by
  have monitors : ∀ l j, (removeClaims mask c s).claims l (.monitor j) = s.claims l (.monitor j) := fun l j => by
    simp [(notMonitor j).symm]
  have trips : ∀ l j, (removeClaims mask c s).claims l (.trip j) = s.claims l (.trip j) := fun l j => by
    simp [(notTrip j).symm]
  exact claimLaws_at_monitor h 0 (fun _ _ => by simp) (fun _ => by simp) (fun l j _ => monitors l j) trips
    ((claimLaws_iff.mp h).1 0 |>.of_same (by simp) fun l => monitors l 0)

/-- A monitor that goes OUT holds the claim of its action (R134, R137). -/
theorem claimLaws_monitorTrips (h : ClaimLaws s) (entry : s.monitor k = some m) (v : Nat) :
    ClaimLaws (monitorTrips k m v s) := by
  obtain ⟨qualify, -, -, -, fits⟩ := h.1 k m entry
  have stood : ∀ l, s.claims l (.monitor k) = true ↔ heldLine m = some l := fun l => by
    have := h.2.1 k l; rwa [entry] at this
  unfold monitorTrips
  extract_lets held t
  have law : MonitorLaw { m with state := .out, count := m.qualify, claimHeld := held } := by
    refine ⟨qualify, ?_, ?_, ?_, ?_⟩ <;> simp [claimFits, held]
    cases m.action <;> simp [actionLine]
  have set : t.monitor k = some { m with state := .out, count := m.qualify, claimHeld := held } := by simp [t]
  split
  · next l line =>
    refine claimLaws_at_monitor h k (fun j other => ?_) (fun j => ?_) (fun l j other => ?_) (fun l j => ?_) ⟨?_, fun x => ?_⟩
    · simp [t, monitor_setMonitor_ne _ _ _ _ other]
    · rw [(addClaim_only ..).comparator, (formEvent_only ..).comparator]; rfl
    · simp [t, other]
    · simp [t]
    · simp only [monitor_addClaim, set]
      rintro _ ⟨⟩
      exact law
    · have before : s.claims x (.monitor k) = true → x = l := fun stands => by
        have := (heldLine_eq_some.mp ((stood x).mp stands)).2
        simp_all
      simp only [monitor_addClaim, set, claims_addClaim, Option.bind_some, heldLine_eq_some, held, line]
      simp [t]
      tauto
  · next line =>
    have noClaim : heldLine m = none := by simp [heldLine, line]
    refine claimLaws_formEvent (claimLaws_setMonitor h k (by rintro _ ⟨⟩; exact law) ?_) ..
    simp [entry, heldLine, line]

/-- A monitor that recovers gives up a FOLLOW claim and keeps a LATCH one (R135, R137). -/
theorem claimLaws_monitorRecovers (h : ClaimLaws s) (entry : s.monitor k = some m) (out : m.state = .out) (v : Nat) :
    ClaimLaws (monitorRecovers k m v s) := by
  obtain ⟨qualify, -, -, -, fits⟩ := h.1 k m entry
  have stood : ∀ l, s.claims l (.monitor k) = true ↔ heldLine m = some l := fun l => by
    have := h.2.1 k l; rwa [entry] at this
  unfold monitorRecovers
  extract_lets keeps t
  have law : MonitorLaw { m with state := .inside, count := 0, claimHeld := keeps } := by
    refine ⟨qualify, ?_, ?_, ?_, ?_⟩ <;> simp [claimFits, keeps]
    cases action : m.action <;> simp_all [claimFits]
  have set : t.monitor k = some { m with state := .inside, count := 0, claimHeld := keeps } := by simp [t]
  have unheld : ∀ keep : keeps = m.claimHeld, ClaimLaws t := fun keep =>
    claimLaws_formEvent (claimLaws_setMonitor h k (by rintro _ ⟨⟩; exact law) (by simp [entry, heldLine, keep])) ..
  split
  · next l action =>
    refine claimLaws_at_monitor h k (fun j other => ?_) (fun j => ?_) (fun l j other => ?_) (fun l j => ?_) ⟨?_, fun x => ?_⟩
    · simp [t, monitor_setMonitor_ne _ _ _ _ other]
    · rw [(removeClaim_only ..).comparator, (formEvent_only ..).comparator]; rfl
    · simp [t, other]
    · simp [t]
    · simp only [monitor_removeClaim, set]
      rintro _ ⟨⟩
      exact law
    · have before : s.claims x (.monitor k) = true → x = l := fun stands => by
        have := (heldLine_eq_some.mp ((stood x).mp stands)).2
        simp_all [actionLine]
      simp only [monitor_removeClaim, set, claims_removeClaim, Option.bind_some, heldLine_eq_some, keeps, action]
      simp [t]
      tauto
  · next action => exact unheld (by simp [keeps, action])
  · next action => exact unheld (by simp [keeps, action])

theorem claimLaws_evaluateMonitor (h : ClaimLaws s) (entry : s.monitor k = some m) (v : Nat) :
    ClaimLaws (evaluateMonitor k m v s) := by
  obtain ⟨qualify, inside, qualifying, out, fits⟩ := h.1 k m entry
  have recovers : m.state ≠ .out → ClaimLaws (s.setMonitor k (some { m with state := .inside, count := 0 })) := by
    intro calm
    refine claimLaws_setMonitor h k ?_ (by simp [entry, heldLine])
    rintro _ ⟨⟩
    refine ⟨qualify, ?_, ?_, ?_, ?_⟩ <;> simp [claimFits]
    cases action : m.action <;> simp_all [claimFits]
  have counts : m.state ≠ .out → ClaimLaws (monitorCounts k m v s) := by
    intro calm
    unfold monitorCounts
    split
    · exact claimLaws_monitorTrips h entry v
    · next more =>
      refine claimLaws_setMonitor h k ?_ (by simp [entry, heldLine])
      rintro _ ⟨⟩
      have below : m.count + 1 < m.qualify := by
        cases state : m.state
        · have := inside state; omega
        · have := qualifying state; omega
        · exact absurd state calm
      refine ⟨qualify, ?_, ?_, ?_, ?_⟩ <;> simp [claimFits, below]
      cases action : m.action <;> simp_all [claimFits]
  unfold evaluateMonitor
  split
  · next state =>
    split
    · exact counts (by simp [state])
    · exact recovers (by simp [state])
  · next state =>
    split
    · exact counts (by simp [state])
    · exact recovers (by simp [state])
  · next state =>
    split
    · exact claimLaws_monitorRecovers h entry state v
    · exact h

theorem claimLaws_evaluateMonitors (h : ClaimLaws s) (i : PointIdx) (v : Nat) : ClaimLaws (evaluateMonitors i v s) := by
  unfold evaluateMonitors
  refine foldl_keeps ClaimLaws _ _ (fun t k _ ht => ?_) s h
  split
  · next entry =>
    split
    · exact claimLaws_evaluateMonitor ht entry v
    · exact ht
  · exact ht

/-- A deleted monitor leaves no claim of its own (R141). -/
theorem claimLaws_deleteMonitor (h : ClaimLaws s) (k : MonitorIdx) : ClaimLaws (deleteMonitor k s) := by
  have only := deleteMonitor_only k s
  have entries := monitor_deleteMonitor k
  cases entry : s.monitor k with
  | none => simpa [deleteMonitor, entry] using h
  | some m =>
    have stood : ∀ l, s.claims l (.monitor k) = true ↔ heldLine m = some l := fun l => by
      have := h.2.1 k l; rwa [entry] at this
    refine claimLaws_at_monitor h k (fun j other => by rw [entries, if_neg other]) only.comparator (fun l j other => ?_)
      (fun l j => ?_) ⟨by simp [entries], fun l => ?_⟩
    · simp only [deleteMonitor, entry]; split <;> simp [other]
    · simp only [deleteMonitor, entry]; split <;> simp
    · have := stood l
      simp only [entries, if_true, Option.bind_none, reduceCtorEq, iff_false]
      simp only [deleteMonitor, entry]
      split
      · next x held =>
        rw [held, Option.some_inj] at this
        simp
        exact fun stands => (this.mp stands).symm
      · next held => simp_all

theorem claimLaws_deleteMonitorsOn (h : ClaimLaws s) (p : Port) (i : PointIdx) : ClaimLaws (deleteMonitorsOn p i s) := by
  unfold deleteMonitorsOn
  refine foldl_keeps ClaimLaws _ _ (fun t k _ ht => ?_) s h
  split
  · split
    · exact claimLaws_deleteMonitor ht k
    · exact ht
  · exact ht

theorem claimLaws_clearClaim (h : ClaimLaws s) (entry : s.monitor k = some m) (calm : m.state ≠ .out) :
    ClaimLaws (clearClaim k m s) := by
  obtain ⟨qualify, inside, qualifying, out, fits⟩ := h.1 k m entry
  have stood : ∀ l, s.claims l (.monitor k) = true ↔ heldLine m = some l := fun l => by
    have := h.2.1 k l; rwa [entry] at this
  unfold clearClaim
  split
  · next l held =>
    have law : MonitorLaw { m with claimHeld := false } := by
      refine ⟨qualify, inside, qualifying, out, ?_⟩
      cases action : m.action <;> simp_all [claimFits]
    refine claimLaws_at_monitor h k (fun j other => ?_) (fun j => ?_) (fun l j other => ?_) (fun l j => ?_) ⟨?_, fun x => ?_⟩
    · simp [monitor_setMonitor_ne _ _ _ _ other]
    · rw [(removeClaim_only ..).comparator]; rfl
    · simp [other]
    · simp
    · simp only [monitor_removeClaim, monitor_setMonitor]
      rintro _ ⟨⟩
      exact law
    · have := stood x
      rw [held, Option.some_inj] at this
      simp [heldLine]
      exact fun stands => (this.mp stands).symm
  · exact h

end Monitors

/-! ### Comparators -/

section Comparators

variable {s : State} {k : TripIdx}

theorem filterSamples_pos (f : TripFilter) : 0 < filterSamples f := by cases f <;> decide

/-- A change of comparator k that keeps its claimed lines. -/
theorem claimLaws_modComparator (h : ClaimLaws s) (k : TripIdx) {f : Comparator → Comparator}
    (claimed : (f (s.comparator k)).claimed = (s.comparator k).claimed)
    (fired : (f (s.comparator k)).state ≠ .fired → (s.comparator k).claimed = 0) (run : RunLaw (f (s.comparator k))) :
    ClaimLaws (s.modComparator k f) := by
  refine claimLaws_at_comparator h k (fun _ => rfl) (fun j other => comparator_setComparator_ne _ _ _ _ other)
    (fun _ _ => rfl) (fun _ _ _ => rfl) ?_
  unfold TripFits State.modComparator
  rw [comparator_setComparator]
  exact ⟨fun l => by rw [claimed]; exact (h.2.2.1 k).1 l, fun notFired => by rw [claimed]; exact fired notFired, run⟩

/-- A sample that does not fire comparator k keeps its run below the filter's count (R163). -/
theorem runLaw_sampled {output : Bool} {c : Comparator} (law : RunLaw c)
    (short : ¬((c.state == .watching && c.run + 1 == filterSamples c.config.filter) && output) = true) :
    RunLaw (sampled output c) := by
  obtain ⟨idle, watching⟩ := law
  unfold sampled
  cases state : c.state with
  | off => exact ⟨fun _ => idle (by simp [state]), fun h => by simp at h⟩
  | fired => exact ⟨fun _ => idle (by simp [state]), fun h => by simp at h⟩
  | watching =>
    have below := watching state
    refine ⟨fun h => absurd rfl h, fun _ => ?_⟩
    dsimp only
    split
    · simp_all; omega
    · exact filterSamples_pos _

theorem sampled_keeps (output : Bool) (c : Comparator) :
    (sampled output c).claimed = c.claimed ∧ (sampled output c).state = c.state ∧ (sampled output c).config = c.config := by
  unfold sampled; split <;> exact ⟨rfl, rfl, rfl⟩

/-- Comparator k fires: its claims are those of its line mask (R164). -/
theorem claimLaws_fireComparator (h : ClaimLaws s) (watching : (s.comparator k).state = .watching) :
    ClaimLaws (fireComparator k s) := by
  have none : ∀ l, s.claims l (.trip k) = false := fun l => by
    rw [(h.2.2.1 k).1 l, (h.2.2.1 k).2 (by simp [watching])]; simp
  unfold fireComparator
  extract_lets mask t
  refine claimLaws_at_comparator h k (fun j => ?_) (fun j other => ?_) (fun l j => ?_) (fun l j other => ?_) ⟨fun l => ?_, ?_, ?_⟩
  · simp [t, State.modComparator]
  · simp [t, State.modComparator, comparator_setComparator_ne _ _ _ _ other]
  · simp [t, State.modComparator]
  · simp [t, State.modComparator, other]
  · simp [t, State.modComparator, none]
  · simp [t, State.modComparator]
  · simp only [t, State.modComparator, comparator_setComparator, comparator_addClaims, comparator_formEventForAll]
    exact ⟨fun _ => rfl, fun h => nomatch h⟩

theorem claimLaws_takeSample (h : ClaimLaws s) (k : TripIdx) (output : Bool) : ClaimLaws (takeSample k output s) := by
  obtain ⟨-, calm⟩ := h.2.2.1 k
  have run := h.2.2.2 k
  unfold takeSample
  split
  · next fires =>
    have watching : (s.comparator k).state = .watching := by simp [runCompletes] at fires; exact fires.1.1
    exact claimLaws_fireComparator (claimLaws_modComparator h k rfl calm run) (by simp [State.modComparator, watching])
  · next short =>
    obtain ⟨claimed, state, -⟩ := sampled_keeps output (s.comparator k)
    exact claimLaws_modComparator h k claimed (by rw [state]; exact calm) (runLaw_sampled run short)

theorem claimLaws_clearComparator (h : ClaimLaws s) (k : TripIdx) : ClaimLaws (clearComparator k s) := by
  obtain ⟨claims, -⟩ := h.2.2.1 k
  unfold clearComparator
  extract_lets claimed t
  refine claimLaws_at_comparator h k (fun j => ?_) (fun j other => ?_) (fun l j => ?_) (fun l j other => ?_) ⟨fun l => ?_, ?_, ?_⟩
  · simp [t, State.modComparator]
  · simp [t, State.modComparator, comparator_setComparator_ne _ _ _ _ other]
  · simp [t, State.modComparator]
  · simp [t, State.modComparator, other]
  · simp [t, State.modComparator, claims, claimed]
  · simp [State.modComparator]
  · simp only [t, State.modComparator, comparator_setComparator, comparator_removeClaims, comparator_formEventForAll]
    exact ⟨fun _ => rfl, fun _ => filterSamples_pos _⟩

theorem claimLaws_configured (h : ClaimLaws s) (k : TripIdx) (config : TripConfig) (enable : Bool)
    (unfired : (s.comparator k).state ≠ .fired) : ClaimLaws (s.modComparator k (configured config enable)) := by
  refine claimLaws_modComparator h k rfl (fun _ => (h.2.2.1 k).2 unfired) ⟨fun _ => rfl, fun _ => ?_⟩
  exact filterSamples_pos _

theorem claimLaws_holder (h : ClaimLaws s) (k : TripIdx) (holder : Option Port) :
    ClaimLaws (s.modComparator k (fun c => { c with holder })) :=
  claimLaws_modComparator h k rfl (h.2.2.1 k).2 (h.2.2.2 k)

end Comparators

/-! ### Operations that leave the laws' fields alone -/

section Frames

variable {s t : State}

theorem claimLaws_of_onlyScheduling (h : ClaimLaws s) (only : OnlyScheduling s t) : ClaimLaws t :=
  claimLaws_same h (by rw [only]) (by rw [only]) (by rw [only])

theorem claimLaws_of_onlyTrigger (h : ClaimLaws s) (only : OnlyTrigger s t) : ClaimLaws t := by
  unfold OnlyTrigger OnlyScheduling at only
  exact claimLaws_same h (by rw [only]) (by rw [only]) (by rw [only])

theorem claimLaws_of_onlyPlaces (h : ClaimLaws s) (only : OnlyPlaces s t) : ClaimLaws t :=
  claimLaws_same h (by rw [only]) (by rw [only]) (by rw [only])

theorem claimLaws_of_onlyPort {p : Port} (h : ClaimLaws s) (only : OnlyPort p s t) : ClaimLaws t :=
  claimLaws_same h (by rw [only]; rfl) (by rw [only]; rfl) (by rw [only]; rfl)

theorem claimLaws_edgeAccepted (h : ClaimLaws s) (n : TrgIdx) (edge : Edge) : ClaimLaws (edgeAccepted n edge s) := by
  unfold edgeAccepted
  refine foldl_keeps ClaimLaws _ _ (fun t i _ ht => ?_) _ ?_
  · unfold edgeAtPoint
    split
    · exact ht
    · split
      · refine claimLaws_of_onlyTrigger ?_ (triggerPoint_only ..)
        exact claimLaws_same ht rfl rfl rfl
      · exact claimLaws_same ht rfl rfl rfl
  · exact claimLaws_same h rfl rfl rfl

theorem claimLaws_removeSubscription (h : ClaimLaws s) (p : Port) (k : SlotIdx) : ClaimLaws (removeSubscription p k s) := by
  unfold removeSubscription
  split
  · exact h
  · refine claimLaws_of_onlyPlaces (claimLaws_deleteMonitorsOn ?_ _ _) (leaveList_places ..)
    exact claimLaws_same h rfl rfl rfl

theorem claimLaws_teardownBlocks (h : ClaimLaws s) (p : Port) : ClaimLaws (teardownBlocks p s) := by
  have subscriptions : ClaimLaws (removeSubscriptions p s) := by
    unfold removeSubscriptions
    exact foldl_keeps ClaimLaws _ _ (fun _ k _ ht => claimLaws_removeSubscription ht p k) s h
  unfold teardownBlocks
  generalize removeSubscriptions p s = t at subscriptions ⊢
  have only := removeQueuedJobs_only p t
  have jobs : ClaimLaws (removeQueuedJobs p t) :=
    claimLaws_same subscriptions (by rw [only]) (by rw [only]) (by rw [only])
  generalize removeQueuedJobs p t = u at jobs ⊢
  unfold unholdComparators
  refine foldl_keeps ClaimLaws _ _ (fun v k _ hv => ?_) u jobs
  split
  · exact claimLaws_holder hv k none
  · exact hv

theorem claimLaws_teardownPort (h : ClaimLaws s) (kind : EventKind) (p : Port) : ClaimLaws (teardownPort kind p s) := by
  have only := teardownPort_only kind p s
  exact claimLaws_same h (by rw [only]) (by rw [only]) (by rw [only])

theorem claimLaws_endBurst (h : ClaimLaws s) (subject : Subject) : ClaimLaws (endBurst subject s) := by
  cases subject with
  | job g =>
    have only := completeCalibration_only g s
    rw [endBurst_job]
    exact claimLaws_same h (by rw [only]) (by rw [only]) (by rw [only])
  | point i =>
    rw [endBurst_point]
    unfold finalizePoint
    extract_lets r t u
    have before : ClaimLaws t := by
      have only := transferMissed_points_subs i (s.modPoint i (fun e => { e with sequence := r.sequence }))
      exact claimLaws_same h (by unfold t; rw [only]; rfl) (by unfold t; rw [only]; rfl) (by unfold t; rw [only]; rfl)
    have after : ClaimLaws u := by
      have only := fanOut_subs_rings i r (evaluateMonitors i r.value16 t)
      exact claimLaws_same (claimLaws_evaluateMonitors before i r.value16) (by unfold u; rw [only]) (by unfold u; rw [only])
        (by unfold u; rw [only])
    clear_value u
    exact claimLaws_same after rfl rfl rfl

theorem claimLaws_completeConversion (h : ClaimLaws s) (b : Burst) (code : ConverterCode) :
    ClaimLaws (completeConversion b code s) := by
  unfold completeConversion
  split
  · refine claimLaws_of_onlyScheduling ?_ (grantDecision_only _)
    obtain ⟨i | g, c, n⟩ := b <;> exact claimLaws_same h rfl rfl rfl
  · have takes : ClaimLaws (takeCode b.subject code (sampleReading s) s) := by
      obtain ⟨i | g, c, n⟩ := b <;> exact claimLaws_same h rfl rfl rfl
    dsimp only
    generalize takeCode b.subject code (sampleReading s) s = t at takes ⊢
    split
    · have ends := claimLaws_endBurst takes b.subject
      rcases burstEnds_cases b.subject t with same | same
      · rw [same]; exact claimLaws_same ends rfl rfl rfl
      · rw [same]; exact claimLaws_of_onlyScheduling ends (grantDecision_only _)
    · split
      · exact claimLaws_of_onlyScheduling takes (suspendBurst_only ..)
      · have only := beginConversionOf_only b.subject t
        exact claimLaws_same takes (by rw [only]) (by rw [only]) (by rw [only])

end Frames

/-! ### The commands and the clock -/

section Commands

variable {s : State}

theorem claimLaws_served {p : Port} {r : Request} {t : State} (h : ClaimLaws s) (served : Served p s r t) : ClaimLaws t := by
  cases served
  case unchanged => exact h
  case detach => exact claimLaws_of_onlyPort (claimLaws_teardownBlocks h p) (modPort_only ..)
  case leavePoint i _ _ =>
    unfold leavePoint
    split
    · exact claimLaws_removeSubscription h p _
    · exact h
  case pause => rw [modSubscription_only]; exact claimLaws_same h rfl rfl rfl
  case resume => rw [modSubscription_only]; exact claimLaws_same h rfl rfl rfl
  case setConditioning => rw [modSubscription_only]; exact claimLaws_same h rfl rfl rfl
  case sampleNow => exact claimLaws_of_onlyTrigger h (triggerPoint_only ..)
  case calibrate => exact claimLaws_of_onlyTrigger h (queueJob_only ..)
  case createMonitor k f qualify subscribed free =>
    refine claimLaws_setMonitor h k ?_ (by simp [free, heldLine, newMonitor])
    rintro _ ⟨⟩
    refine ⟨qualify, ?_, ?_, ?_, ?_⟩ <;> simp [newMonitor, claimFits]
    cases f.action <;> rfl
  case deleteMonitor k m _ _ => exact claimLaws_deleteMonitor h k
  case clearMonitorClaim k m entry calm => exact claimLaws_clearClaim h entry calm
  case claimLine => exact claimLaws_addClaims_host h ..
  case releaseLine => exact claimLaws_removeClaims h _ (by simp) (by simp)
  case releaseStart => exact claimLaws_removeClaims h _ (by simp) (by simp)
  case releaseOrphan => exact claimLaws_removeClaims h _ (by simp) (by simp)
  case takeTrip => exact claimLaws_holder h _ _
  case giveTrip => exact claimLaws_holder h _ _
  case setTrip k config enable unfired => exact claimLaws_configured h _ _ _ unfired
  case clearTrip => exact claimLaws_clearComparator h _
  all_goals exact claimLaws_same h rfl rfl rfl

theorem claimLaws_received {p : Port} {tag code : Byte} {body : List Byte} {t : State} (h : ClaimLaws s)
    (received : Received p tag code body s t) : ClaimLaws t := by
  have owner : ClaimLaws (atOwner p s) := claimLaws_of_onlyPort h (modPort_only ..)
  cases received
  case served r a u _ _ _ served => exact claimLaws_of_onlyPort (claimLaws_served owner served) (modPort_only ..)
  case discarded => exact claimLaws_of_onlyPort h (discardFrame_only ..)
  all_goals exact claimLaws_same h rfl rfl rfl

theorem claimLaws_takeByte (h : ClaimLaws s) (p : Port) (b : Byte) : ClaimLaws (takeByte p b s) := by
  rcases takeByte_cases p b s with only | ⟨tag, code, body, same⟩
  · exact claimLaws_of_onlyPort h only
  · rw [same]; exact claimLaws_received h (goodFrame_received ..)

theorem claimLaws_responseEnds (h : ClaimLaws s) (p : Port) : ClaimLaws (responseEnds p s) := by
  refine claimLaws_of_onlyPort ?_ (afterResponse_only ..)
  split
  · exact claimLaws_teardownPort h _ p
  · exact h

theorem claimLaws_reset (s : State) :
    ClaimLaws { State.reset with pins := s.pins, draws := s.draws, pending := s.pending } := by
  have reset : ClaimLaws State.reset := by decide +kernel
  exact claimLaws_same reset rfl rfl rfl

theorem claimLaws_effect {c : Instr} {t : State} (h : ClaimLaws s) (effect : Effect s c t) : ClaimLaws t := by
  cases effect
  case nothing => exact h
  case fullReset => exact claimLaws_reset s
  case resetRelease => exact claimLaws_same h rfl rfl rfl
  case trgEdge => exact claimLaws_edgeAccepted h ..
  case periodicExpiry i period _ _ _ =>
    refine claimLaws_of_onlyTrigger ?_ (triggerPoint_only ..)
    exact claimLaws_same h rfl rfl rfl
  case delayExpiry => exact claimLaws_of_onlyTrigger h (becomeDue_only ..)
  case completion => exact claimLaws_completeConversion h ..
  case tripFiring => exact claimLaws_takeSample h ..
  case comparatorSample k input i output =>
    refine claimLaws_takeSample ?_ ..
    exact claimLaws_same h rfl rfl rfl
  case framingError => exact claimLaws_of_onlyPort h (malformedFrame_only ..)
  case interByteTimeout => exact claimLaws_of_onlyPort h (interByteExpires_only ..)
  case responseSent => exact claimLaws_responseEnds h _
  case supervisionExpiry p _ =>
    unfold sessionLost
    exact claimLaws_teardownPort (claimLaws_teardownBlocks h p) _ p
  case byteTaken => exact claimLaws_takeByte h ..
  case request => exact claimLaws_received h (goodFrame_received ..)
  case unknownRequest => exact claimLaws_received h (goodFrame_received ..)
  case busyReply => exact claimLaws_received h (goodFrame_received ..)

/-- A sample that is to fire a comparator is left to its TRIP_FIRING, so that the clock keeps every run short (R163). -/
theorem claimLaws_sampleComparators (h : ClaimLaws s) : ClaimLaws (sampleComparators s) := by
  have only := sampleComparators_only s
  have comparators := comparator_sampleComparators s
  have claims : ∀ l c, (sampleComparators s).claims l c = s.claims l c := fun l c => by rw [only]; rfl
  obtain ⟨perMonitor, perTrip⟩ := claimLaws_iff.mp h
  refine claimLaws_iff.mpr ⟨fun k => (perMonitor k).of_same (by rw [only]; rfl) fun l => claims l _, fun k => ?_⟩
  obtain ⟨claimed, unfired, run⟩ := perTrip k
  unfold TripFits
  simp only [claims, comparators]
  split
  · exact ⟨claimed, unfired, run⟩
  · next short =>
    obtain ⟨sameClaimed, sameState, -⟩ := sampled_keeps (outputNow k s) (s.comparator k)
    rw [sameClaimed, sameState]
    exact ⟨claimed, unfired, runLaw_sampled run short⟩

theorem claimLaws_clkPeriod (h : ClaimLaws s) : ClaimLaws (clkPeriod s) := by
  have timebase : ClaimLaws (clkTimebase s) := by
    have only := clkTimebase_only s
    exact claimLaws_same h (by rw [only]) (by rw [only]) (by rw [only])
  have sampled := claimLaws_sampleComparators timebase
  unfold clkPeriod
  split
  · exact h
  · unfold clkAdvance
    generalize sampleComparators (clkTimebase s) = t at sampled ⊢
    have only := clkLinks_only t
    generalize clkLinks t = u at only ⊢
    exact claimLaws_same sampled (by rw [only]) (by rw [only]) (by rw [only])

end Commands

/-- Settles O55: a case analysis of the step; the laws of one monitor and of one comparator move with its claims. -/
theorem everyStepKeepsClaimLaws : Obligations.EveryStepKeepsClaimLaws := by
  intro s t h run
  unfold step at run
  split at run
  · next c rest _ => exact claimLaws_effect (s := { s with pending := rest }) (claimLaws_same h rfl rfl rfl) (effect_of_exec run)
  · cases run
    unfold withNoCommand
    split
    · have undue : ClaimLaws { s with decisionDue := false } := claimLaws_same h rfl rfl rfl
      exact claimLaws_of_onlyScheduling undue (takeDecision_only s)
    · exact claimLaws_clkPeriod h

end Sys2Proof.ClaimLawsKept
end

section
/-!
PROOFS. Every step keeps the laws of ports, sessions and receivers. `Quiet` says what keeps the laws of a port that a command
is not about: nothing is given to it, and what it holds while DETACHED stays.
-/

namespace Sys2Proof.SessionLawsKept

open Sys2Proof.Machine Sys2Proof.Safety Sys2Proof.Statement Sys2Proof.StepEffects Sys2Proof.StepFrames

/-- Port q is the requester of the job of gain g, which is QUEUED. -/
def QueuedBy (q : Port) (s : State) (g : Gain) : Prop := (s.job g).state = .queued ∧ (s.job g).requester = some q

/-- The port itself is unchanged, its ring and queue too while it is DETACHED, and it gains no slot, comparator or QUEUED
job. -/
structure Quiet (q : Port) (s t : State) : Prop where
  port : t.port q = s.port q
  ring : s.attached q = false → t.ring q = s.ring q
  queue : s.attached q = false → t.queue q = s.queue q
  slot : ∀ k, s.slot q k = none → t.slot q k = none
  holder : ∀ k, (t.comparator k).holder = some q → (s.comparator k).holder = some q
  job : ∀ g, QueuedBy q t g → QueuedBy q s g

/-- The laws of one port. -/
abbrev PortLaws (s : State) (q : Port) : Prop :=
  RequestLaw (s.port q) ∧ DetachedLaw s q ∧ OwnershipLaw s q ∧ ReceiverLaw (s.port q)

section Rules

variable {q : Port} {s t u : State}

theorem attached_of_port (h : t.port q = s.port q) : t.attached q = s.attached q := by
  unfold State.attached; rw [h]

theorem Quiet.refl (q : Port) (s : State) : Quiet q s s := ⟨rfl, fun _ => rfl, fun _ => rfl, fun _ h => h, fun _ h => h, fun _ h => h⟩

theorem Quiet.trans (h : Quiet q s t) (k : Quiet q t u) : Quiet q s u where
  port := k.port.trans h.port
  ring detached := (k.ring (by rw [attached_of_port h.port]; exact detached)).trans (h.ring detached)
  queue detached := (k.queue (by rw [attached_of_port h.port]; exact detached)).trans (h.queue detached)
  slot l empty := k.slot l (h.slot l empty)
  holder l holds := h.holder l (k.holder l holds)
  job g queued := h.job g (k.job g queued)

theorem Quiet.foldl {α : Type} {f : State → α → State} (h : ∀ s a, Quiet q s (f s a)) (xs : List α) (s : State) :
    Quiet q s (xs.foldl f s) := foldl_rel (Quiet q) f (Quiet.refl q) (fun _ _ _ => Quiet.trans) h xs s

/-- A step that leaves ports, rings, queues and slots alone. -/
theorem Quiet.of_fields (ports : t.ports = s.ports) (rings : t.rings = s.rings) (queues : t.queues = s.queues)
    (subs : t.subs = s.subs) (holder : ∀ k, (t.comparator k).holder = some q → (s.comparator k).holder = some q)
    (job : ∀ g, QueuedBy q t g → QueuedBy q s g) : Quiet q s t where
  port := by unfold State.port; rw [ports]
  ring _ := by unfold State.ring; rw [rings]
  queue _ := by unfold State.queue; rw [queues]
  slot k h := by unfold State.slot State.slots at *; rw [subs]; exact h
  holder := holder
  job := job

/-- A step within the fields that the laws do not speak of. -/
theorem Quiet.of_same (ports : t.ports = s.ports) (rings : t.rings = s.rings) (queues : t.queues = s.queues)
    (subs : t.subs = s.subs) (comparators : t.comparators = s.comparators) (jobs : t.jobs = s.jobs) : Quiet q s t :=
  .of_fields ports rings queues subs (fun k h => by unfold State.comparator at *; rw [← comparators]; exact h)
    (fun g h => by unfold QueuedBy State.job at *; rw [← jobs]; exact h)

/-- The laws of a port survive a step that is quiet for it. -/
theorem PortLaws.of_quiet (h : PortLaws s q) (quiet : Quiet q s t) : PortLaws t q := by
  obtain ⟨request, ⟨detaching, detached⟩, owns, receiver⟩ := h
  have attached := attached_of_port quiet.port
  refine ⟨quiet.port ▸ request, ⟨?_, fun away => ?_⟩, fun away => ?_, quiet.port ▸ receiver⟩
  · rw [quiet.port, attached]; exact detaching
  · rw [attached] at away
    rw [quiet.ring away, quiet.queue away, quiet.port]
    exact detached away
  · rw [attached, quiet.port] at away
    obtain ⟨slots, holders, jobs⟩ := owns away
    exact ⟨fun k => quiet.slot k (slots k), fun k holds => holders k (quiet.holder k holds),
      fun g hg queued => jobs g hg (quiet.job g queued)⟩

theorem sessionLaws_of_quiet (h : SessionLaws s) (quiet : ∀ q, Quiet q s t) : SessionLaws t :=
  fun q => PortLaws.of_quiet (h q) (quiet q)

end Rules

/-! ### Quiet operations -/

section Operations

variable {q : Port} {s : State}

theorem quiet_formEvent (kind : EventKind) (subject value : Nat) (dest : Port → Bool) (s : State) :
    Quiet q s (formEvent kind subject value dest s) := by
  have only := formEvent_only kind subject value dest s
  refine ⟨only.port q, fun _ => only.ring q, fun detached => ?_, fun k h => by rw [only.slot]; exact h,
    fun k h => by rwa [only.comparator] at h, fun g h => ?_⟩
  · rw [queue_formEvent]; simp [detached]
  · unfold QueuedBy State.job at *; rw [only] at h; exact h

theorem quiet_formEventForAll (kind : EventKind) (subject value : Nat) (s : State) :
    Quiet q s (formEventForAll kind subject value s) := quiet_formEvent ..

theorem quiet_setLine (l : LineIdx) (x : ClaimSet) (s : State) : Quiet q s (s.setLine l x) := .of_same rfl rfl rfl rfl rfl rfl

theorem quiet_setMonitor (k : MonitorIdx) (v : Option Monitor) (s : State) : Quiet q s (s.setMonitor k v) :=
  .of_same rfl rfl rfl rfl rfl rfl

theorem quiet_setPoint (i : PointIdx) (e : PointEntry) (s : State) : Quiet q s (s.setPoint i e) :=
  .of_same rfl rfl rfl rfl rfl rfl

theorem quiet_addClaim (l : LineIdx) (c : Claimant) (s : State) : Quiet q s (addClaim l c s) := by
  unfold addClaim
  split
  · exact .refl q s
  · dsimp only
    split
    · exact quiet_setLine ..
    · exact (quiet_setLine l _ s).trans (quiet_formEvent ..)

theorem quiet_removeClaim (l : LineIdx) (c : Claimant) (s : State) : Quiet q s (removeClaim l c s) := by
  unfold removeClaim
  split
  · dsimp only
    split
    · exact quiet_setLine ..
    · exact (quiet_setLine l _ s).trans (quiet_formEvent ..)
  · exact .refl q s

theorem quiet_addClaims (mask : LineMask) (c : Claimant) (s : State) : Quiet q s (addClaims mask c s) :=
  .foldl (fun s l => quiet_addClaim l c s) _ s

theorem quiet_removeClaims (mask : LineMask) (c : Claimant) (s : State) : Quiet q s (removeClaims mask c s) :=
  .foldl (fun s l => quiet_removeClaim l c s) _ s

theorem quiet_deleteMonitor (k : MonitorIdx) (s : State) : Quiet q s (deleteMonitor k s) := by
  unfold deleteMonitor
  split
  · exact .refl q s
  · dsimp only
    split
    · exact ((quiet_addClaim _ _ s).trans (quiet_removeClaim ..)).trans (quiet_setMonitor ..)
    · exact quiet_setMonitor ..

theorem quiet_deleteMonitorsOn (p : Port) (i : PointIdx) (s : State) : Quiet q s (deleteMonitorsOn p i s) := by
  unfold deleteMonitorsOn
  refine .foldl (fun t k => ?_) _ s
  split
  · split
    · exact quiet_deleteMonitor k t
    · exact .refl q t
  · exact .refl q t

theorem quiet_of_onlyPlaces {t : State} (only : OnlyPlaces s t) : Quiet q s t :=
  .of_same (by rw [only]) (by rw [only]) (by rw [only]) (by rw [only]) (by rw [only]) (by rw [only])

theorem quiet_freeSlot (p : Port) (k : SlotIdx) (s : State) : Quiet q s (s.setSlot p k none) := by
  refine ⟨rfl, fun _ => rfl, fun _ => rfl, fun l empty => ?_, fun _ h => h, fun _ h => h⟩
  by_cases hq : q = p
  · subst hq
    by_cases hl : l = k
    · subst hl; rw [slot_setSlot]
    · rw [slot_setSlot_slot_ne _ _ _ _ _ hl]; exact empty
  · rw [slot_setSlot_port_ne _ _ _ _ _ _ hq]; exact empty

theorem quiet_removeSubscription (p : Port) (k : SlotIdx) (s : State) : Quiet q s (removeSubscription p k s) := by
  unfold removeSubscription
  split
  · exact .refl q s
  · exact ((quiet_freeSlot p k s).trans (quiet_deleteMonitorsOn ..)).trans (quiet_of_onlyPlaces (leaveList_places ..))

/-- A write to an occupied slot. -/
theorem quiet_setSlot_occupied {p : Port} {k : SlotIdx} {u : Subscription} (occupied : s.slot p k = some u)
    (v : Option Subscription) : Quiet q s (s.setSlot p k v) := by
  refine ⟨rfl, fun _ => rfl, fun _ => rfl, fun l empty => ?_, fun _ h => h, fun _ h => h⟩
  by_cases hq : q = p
  · subst hq
    by_cases hl : l = k
    · subst hl; rw [occupied] at empty; cases empty
    · rw [slot_setSlot_slot_ne _ _ _ _ _ hl]; exact empty
  · rw [slot_setSlot_port_ne _ _ _ _ _ _ hq]; exact empty

theorem quiet_modSubscription (p : Port) (i : PointIdx) (f : Subscription → Subscription) (s : State) :
    Quiet q s (modSubscription p i f s) := by
  unfold modSubscription
  split
  · next k _ =>
    cases occupied : s.slot p k with
    | none => exact quiet_freeSlot p k s
    | some u => exact quiet_setSlot_occupied occupied _
  · exact .refl q s

/-- A write to job g that queues nothing. -/
theorem quiet_setJob (g : Gain) (x : CalibrationJob) (s : State) (unqueued : x.state = .queued → x = s.job g) :
    Quiet q s (s.setJob g x) := by
  refine ⟨rfl, fun _ => rfl, fun _ => rfl, fun _ h => h, fun _ h => h, fun h queued => ?_⟩
  unfold QueuedBy at *
  rw [job_setJob_eq] at queued
  split at queued
  · next same => rw [unqueued queued.1] at queued; exact same ▸ queued
  · exact queued

theorem quiet_ofOtherPort {p : Port} (other : q ≠ p) (x : HostPort) (s : State) : Quiet q s (s.setPort p x) :=
  ⟨port_setPort_ne _ _ _ _ other, fun _ => rfl, fun _ => rfl, fun _ h => h, fun _ h => h, fun _ h => h⟩

/-! ### The scheduler and the triggers -/

theorem quiet_beginConversionOf (subject : Subject) (s : State) : Quiet q s (beginConversionOf subject s) := by
  cases subject <;> exact .of_same rfl rfl rfl rfl rfl rfl

theorem quiet_startBurst (subject : Subject) (c : BurstClass) (s : State) : Quiet q s (startBurst subject c s) := by
  have starts : Quiet q s (subjectStarts subject s) := by
    cases subject with
    | point i => exact quiet_setPoint ..
    | job g => exact quiet_setJob g _ s nofun
  unfold startBurst
  generalize subjectStarts subject s = t at starts ⊢
  refine starts.trans (Quiet.trans ?_ (quiet_beginConversionOf ..))
  exact .of_same rfl rfl rfl rfl rfl rfl

theorem quiet_grantUrgent (i : PointIdx) (rest : List PointIdx) (s : State) : Quiet q s (grantUrgent i rest s) := by
  unfold grantUrgent
  refine Quiet.trans ?_ (quiet_startBurst ..)
  split <;> exact .of_same rfl rfl rfl rfl rfl rfl

theorem quiet_grantPending (p : Port) (s : State) : Quiet q s (grantPending p s) := by
  unfold grantPending
  split
  · refine Quiet.trans ?_ (quiet_startBurst ..)
    exact .of_same rfl rfl rfl rfl rfl rfl
  · exact .refl q s

theorem quiet_resumeBurst (b : Burst) (s : State) : Quiet q s (resumeBurst b s) := by
  unfold resumeBurst
  refine Quiet.trans ?_ (quiet_beginConversionOf ..)
  split
  · exact .of_same rfl rfl rfl rfl rfl rfl
  · next g _ =>
    exact (quiet_setJob g { s.job g with state := .running } s nofun).trans (.of_same rfl rfl rfl rfl rfl rfl)

theorem quiet_grantDecision (s : State) : Quiet q s (grantDecision s) := by
  unfold grantDecision
  split
  · exact quiet_grantUrgent ..
  · split
    · exact quiet_resumeBurst ..
    · split
      · refine Quiet.trans ?_ (quiet_grantPending ..)
        exact .of_same rfl rfl rfl rfl rfl rfl
      · split
        · exact quiet_grantPending ..
        · exact .of_same rfl rfl rfl rfl rfl rfl

theorem quiet_takeDecision (s : State) : Quiet q s (takeDecision s) := by
  unfold takeDecision
  refine Quiet.trans ?_ (quiet_grantDecision _)
  exact .of_same rfl rfl rfl rfl rfl rfl

theorem quiet_decideIfIdle (s : State) : Quiet q s (decideIfIdle s) := by
  unfold decideIfIdle
  split
  · exact quiet_takeDecision s
  · exact .refl q s

theorem quiet_suspendBurst (b : Burst) (s : State) : Quiet q s (suspendBurst b s) := by
  unfold suspendBurst
  refine Quiet.trans ?_ (quiet_grantDecision _)
  split
  · exact .of_same rfl rfl rfl rfl rfl rfl
  · next g _ =>
    exact (quiet_setJob g { s.job g with state := .suspended } s nofun).trans (.of_same rfl rfl rfl rfl rfl rfl)

theorem quiet_becomeDue (i : PointIdx) (s : State) : Quiet q s (becomeDue i s) := by
  unfold becomeDue
  refine Quiet.trans ?_ (quiet_decideIfIdle _)
  unfold enqueueDue
  split
  · exact .of_same rfl rfl rfl rfl rfl rfl
  · split <;> exact .of_same rfl rfl rfl rfl rfl rfl

theorem quiet_triggerPoint (i : PointIdx) (s : State) : Quiet q s (triggerPoint i s) := by
  unfold triggerPoint
  split
  · unfold takeTrigger
    split
    · exact quiet_becomeDue ..
    · exact quiet_setPoint ..
  all_goals first
    | exact quiet_setPoint ..
    | exact .refl q s

theorem quiet_edgeAccepted (n : TrgIdx) (edge : Edge) (s : State) : Quiet q s (edgeAccepted n edge s) := by
  unfold edgeAccepted
  refine Quiet.trans ?_ (.foldl (fun t i => ?_) _ _)
  · exact .of_same rfl rfl rfl rfl rfl rfl
  · unfold edgeAtPoint
    split
    · exact .refl q t
    · split
      · exact (quiet_setPoint i _ t).trans (quiet_triggerPoint ..)
      · exact quiet_setPoint ..

/-! ### The result path -/

theorem quiet_evaluateMonitors (i : PointIdx) (v : Nat) (s : State) : Quiet q s (evaluateMonitors i v s) := by
  have setThenEvent : ∀ (t : State) (k : MonitorIdx) (m : Monitor) (kind : EventKind) (dest : Port → Bool), Quiet q t
      (formEvent kind k.val v dest (t.setMonitor k (some m))) := fun t k m kind dest =>
    (quiet_setMonitor k _ t).trans (quiet_formEvent ..)
  have evaluate : ∀ (t : State) (k : MonitorIdx) (m : Monitor), Quiet q t (evaluateMonitor k m v t) := by
    intro t k m
    have counts : Quiet q t (monitorCounts k m v t) := by
      unfold monitorCounts
      split
      · unfold monitorTrips
        dsimp only
        split
        · exact (setThenEvent ..).trans (quiet_addClaim ..)
        · exact setThenEvent ..
      · exact quiet_setMonitor ..
    unfold evaluateMonitor
    split
    · split
      · exact counts
      · exact quiet_setMonitor ..
    · split
      · exact counts
      · exact quiet_setMonitor ..
    · split
      · unfold monitorRecovers
        dsimp only
        split
        · exact (setThenEvent ..).trans (quiet_removeClaim ..)
        all_goals exact setThenEvent ..
      · exact .refl q t
  unfold evaluateMonitors
  refine .foldl (fun t k => ?_) _ s
  split
  · split
    · exact evaluate t k _
    · exact .refl q t
  · exact .refl q t

theorem quiet_transferMissed (i : PointIdx) (s : State) : Quiet q s (transferMissed i s) := by
  unfold transferMissed
  refine Quiet.trans ?_ (quiet_setPoint ..)
  exact .foldl (fun t p => quiet_modSubscription p i _ t) _ s

/-- A DETACHED port takes no record (R106). -/
theorem quiet_deliverRecord (p : Port) (x : Record) (s : State) : Quiet q s (deliverRecord p x s) := by
  unfold deliverRecord
  split
  · next attached =>
    refine ⟨rfl, fun detached => ?_, fun _ => rfl, fun _ h => h, fun _ h => h, fun _ h => h⟩
    have other : q ≠ p := fun same => by rw [same, attached] at detached; cases detached
    exact ring_setRing_ne _ _ _ _ other
  · exact .refl q s

theorem quiet_offerResult (i : PointIdx) (r : Result) (p : Port) (s : State) : Quiet q s (offerResult i r p s) := by
  unfold offerResult
  split
  · exact .refl q s
  · split
    · exact .refl q s
    · next occupied =>
      split
      · exact .refl q s
      · split
        · exact (quiet_setSlot_occupied occupied _).trans (quiet_deliverRecord ..)
        · exact quiet_setSlot_occupied occupied _

theorem quiet_finalizePoint (i : PointIdx) (s : State) : Quiet q s (finalizePoint i s) := by
  unfold finalizePoint
  extract_lets r t u
  have before : Quiet q s t := (quiet_setPoint i _ s).trans (quiet_transferMissed i _)
  have after : Quiet q (evaluateMonitors i r.value16 t) u := by
    unfold u fanOut
    exact .foldl (fun v p => quiet_offerResult i r p v) _ _
  clear_value u
  exact ((before.trans (quiet_evaluateMonitors ..)).trans after).trans (quiet_setPoint ..)

theorem quiet_endBurst (subject : Subject) (s : State) : Quiet q s (endBurst subject s) := by
  cases subject with
  | point i => exact quiet_finalizePoint i s
  | job g =>
    rw [endBurst_job]
    unfold completeCalibration
    extract_lets trim t
    have event : Quiet q s t := by
      unfold t
      refine Quiet.trans ?_ (quiet_formEventForAll ..)
      exact .of_same rfl rfl rfl rfl rfl rfl
    clear_value t
    exact event.trans (quiet_setJob g .idle t nofun)

theorem quiet_takeCode (subject : Subject) (code : ConverterCode) (reading : TimeReading) (s : State) :
    Quiet q s (takeCode subject code reading s) := by
  cases subject with
  | point i => exact quiet_setPoint ..
  | job g =>
    refine ⟨rfl, fun _ => rfl, fun _ => rfl, fun _ h => h, fun _ h => h, fun h queued => ?_⟩
    unfold QueuedBy takeCode at *
    rw [job_setJob_eq] at queued
    split at queued
    · next same => exact same ▸ queued
    · exact queued

theorem quiet_completeConversion (b : Burst) (code : ConverterCode) (s : State) :
    Quiet q s (completeConversion b code s) := by
  unfold completeConversion
  split
  · refine Quiet.trans ?_ (quiet_grantDecision _)
    obtain ⟨i | g, c, n⟩ := b
    · exact quiet_setPoint ..
    · exact .refl q s
  · have takes : Quiet q s (takeCode b.subject code (sampleReading s) s) := quiet_takeCode ..
    dsimp only
    generalize takeCode b.subject code (sampleReading s) s = t at takes ⊢
    refine takes.trans ?_
    split
    · have ends : Quiet q t (endBurst b.subject t) := quiet_endBurst ..
      rcases burstEnds_cases b.subject t with same | same
      · rw [same]; exact ends.trans (.of_same rfl rfl rfl rfl rfl rfl)
      · rw [same]; exact ends.trans (quiet_grantDecision _)
    · split
      · exact quiet_suspendBurst ..
      · exact quiet_beginConversionOf ..

/-! ### Comparators -/

/-- A change of a comparator that leaves it its holder or takes it away. -/
theorem quiet_modComparator (k : TripIdx) (f : Comparator → Comparator) (s : State)
    (holder : (f (s.comparator k)).holder = some q → (s.comparator k).holder = some q) : Quiet q s (s.modComparator k f) := by
  refine ⟨rfl, fun _ => rfl, fun _ => rfl, fun _ h => h, fun j holds => ?_, fun _ h => h⟩
  unfold State.modComparator at holds
  rw [comparator_setComparator_eq] at holds
  split at holds
  · next same => exact same ▸ holder holds
  · exact holds

theorem holder_sampled (output : Bool) (c : Comparator) : (sampled output c).holder = c.holder := by
  unfold sampled; split <;> rfl

theorem quiet_fireComparator (k : TripIdx) (s : State) : Quiet q s (fireComparator k s) := by
  unfold fireComparator
  refine Quiet.trans ?_ (quiet_modComparator k (fun c => { c with claimed := (s.comparator k).config.mask }) _ id)
  refine Quiet.trans (Quiet.trans ?_ (quiet_formEventForAll ..)) (quiet_addClaims ..)
  exact quiet_modComparator k _ s id

theorem quiet_takeSample (k : TripIdx) (output : Bool) (s : State) : Quiet q s (takeSample k output s) := by
  unfold takeSample
  split
  · refine Quiet.trans ?_ (quiet_fireComparator ..)
    exact quiet_modComparator k _ s id
  · exact quiet_modComparator k _ s (by rw [holder_sampled]; exact id)

theorem quiet_clearComparator (k : TripIdx) (s : State) : Quiet q s (clearComparator k s) := by
  unfold clearComparator
  refine Quiet.trans ?_ (quiet_modComparator k (fun c => { c with claimed := 0 }) _ id)
  refine Quiet.trans (Quiet.trans ?_ (quiet_formEventForAll ..)) (quiet_removeClaims ..)
  exact quiet_modComparator k _ s id

theorem quiet_clearClaim (k : MonitorIdx) (m : Monitor) (s : State) : Quiet q s (clearClaim k m s) := by
  unfold clearClaim
  split
  · exact (quiet_setMonitor ..).trans (quiet_removeClaim ..)
  · exact .refl q s

end Operations

/-! ### The operations of one port -/

section OnePort

variable {s t : State} {p q : Port}

/-- What a port holds matters while it is DETACHED or between the stages of a DETACH. -/
theorem portLaws_of_present (request : RequestLaw (s.port p)) (attached : s.attached p = true)
    (staying : (s.port p).detaching = false) (receiver : ReceiverLaw (s.port p)) : PortLaws s p :=
  ⟨request, ⟨fun _ => attached, fun away => by rw [attached] at away; cases away⟩,
    fun away => by simp [attached, staying] at away, receiver⟩

/-- A change of port p that leaves its session, its DETACH and, while it is DETACHED, its stopped supervision timer. -/
theorem sessionLaws_modPort (h : SessionLaws s) (p : Port) {f : HostPort → HostPort}
    (session : (f (s.port p)).session = (s.port p).session) (detaching : (f (s.port p)).detaching = (s.port p).detaching)
    (supervision : (s.port p).session = .detached → (s.port p).supervision = none → (f (s.port p)).supervision = none)
    (request : RequestLaw (f (s.port p))) (receiver : ReceiverLaw (f (s.port p))) : SessionLaws (s.modPort p f) := by
  intro q
  by_cases other : q = p
  · subst other
    obtain ⟨-, ⟨attached, detached⟩, owns, -⟩ := h q
    have port : (s.modPort q f).port q = f (s.port q) := by simp [State.modPort]
    have same : (s.modPort q f).attached q = s.attached q := by unfold State.attached; rw [port, session]
    refine ⟨port ▸ request, ⟨?_, fun away => ?_⟩, ?_, port ▸ receiver⟩
    · rw [port, detaching, same]; exact attached
    · rw [same] at away
      obtain ⟨window, unsent, lost, queue, timer⟩ := detached away
      refine ⟨window, unsent, lost, queue, port ▸ supervision ?_ timer⟩
      unfold State.attached at away
      cases state : (s.port q).session <;> simp_all
    · intro away
      rw [same, port, detaching] at away
      exact owns away
  · exact PortLaws.of_quiet (h q) (quiet_ofOtherPort other _ s)

/-! ### The frame receiver -/

/-- A change of the receiver and its inter-byte timer alone, and of counts. -/
theorem sessionLaws_receiver (h : SessionLaws s) (p : Port) {f : HostPort → HostPort}
    (same : ∀ x, f x = { x with receiver := (f x).receiver, interByte := (f x).interByte, framingErrors := (f x).framingErrors })
    (receiver : ReceiverLaw (f (s.port p))) : SessionLaws (s.modPort p f) := by
  refine sessionLaws_modPort h p (by rw [same]) (by rw [same]) (fun _ stopped => by rw [same]; exact stopped) ?_ receiver
  rw [same]
  exact (h p).1

theorem sessionLaws_receiverHunts (h : SessionLaws s) (p : Port) : SessionLaws (receiverHunts p s) :=
  sessionLaws_receiver h p (fun _ => rfl) ⟨rfl, by simp [hunting]⟩

theorem sessionLaws_countFramingError (h : SessionLaws s) (p : Port) : SessionLaws (countFramingError p s) :=
  sessionLaws_receiver h p (fun _ => rfl) (h p).2.2.2

theorem sessionLaws_discardFrame (h : SessionLaws s) (p : Port) : SessionLaws (discardFrame p s) :=
  sessionLaws_countFramingError (sessionLaws_receiverHunts h p) p

theorem sessionLaws_badStartByte (h : SessionLaws s) (p : Port) (run : Bool) (hunts : hunting (s.port p).receiver = true) :
    SessionLaws (badStartByte p run s) := by
  have next : SessionLaws (s.modPort p (fun h => { h with receiver := .hunting true })) :=
    sessionLaws_receiver h p (fun _ => rfl) ⟨rfl, by simpa [hunting] using (h p).2.2.2.2.mpr hunts⟩
  unfold badStartByte
  dsimp only
  split
  · exact next
  · exact sessionLaws_countFramingError next p

theorem sessionLaws_receiverMoves (h : SessionLaws s) (p : Port) {r : Receiver} (fits : receiverFits r = true)
    (within : hunting r = false) : SessionLaws (receiverMoves p r s) :=
  sessionLaws_receiver h p (fun _ => rfl) ⟨fits, by simp [within]⟩

theorem sessionLaws_takeByteError (h : SessionLaws s) (p : Port) : SessionLaws (takeByteError p s) := by
  unfold takeByteError
  split
  · next hunts => exact sessionLaws_badStartByte h p _ (by simp [hunts, hunting])
  all_goals exact sessionLaws_discardFrame h p

theorem sessionLaws_malformedFrame (h : SessionLaws s) (p : Port) (cause : FramingCause) :
    SessionLaws (malformedFrame p cause s) := by
  unfold malformedFrame
  split
  · next hunts => exact sessionLaws_badStartByte h p _ (by simp [hunts, hunting])
  · exact h
  · exact sessionLaws_discardFrame h p
  · exact sessionLaws_discardFrame h p
  · exact h
  · exact sessionLaws_takeByteError h p
  · exact sessionLaws_discardFrame h p

theorem sessionLaws_interByteExpires (h : SessionLaws s) (p : Port) : SessionLaws (interByteExpires p s) := by
  unfold interByteExpires
  split
  · exact h
  all_goals
    split
    · exact sessionLaws_discardFrame h p
    · exact h

/-! ### The end of a session -/

theorem slot_removeSubscription (p : Port) (k : SlotIdx) (s : State) : (removeSubscription p k s).slot p k = none := by
  unfold removeSubscription
  split
  · assumption
  · rw [(leaveList_places ..).slot, (deleteMonitorsOn_only ..).slot, slot_setSlot]

/-- No slot of the port is in use once its subscriptions are removed (R189). -/
theorem slot_removeSubscriptions (p : Port) (s : State) (k : SlotIdx) : (removeSubscriptions p s).slot p k = none := by
  have key : ∀ (xs : List SlotIdx) (t : State), k ∈ xs ∨ t.slot p k = none →
      (xs.foldl (fun s k => removeSubscription p k s) t).slot p k = none := by
    intro xs
    induction xs with
    | nil => intro t h; simpa using h
    | cons x xs ih =>
      intro t h
      refine ih _ ?_
      by_cases here : k = x
      · subst here; exact .inr (slot_removeSubscription ..)
      · rcases h with listed | empty
        · exact .inl (by simpa [here] using listed)
        · exact .inr ((quiet_removeSubscription p x t).slot k empty)
  exact key _ s (.inl (List.mem_finRange k))

/-- The QUEUED jobs of the port return to NONE (R82). -/
theorem job_removeQueuedJobs (p : Port) (s : State) (g : Gain) :
    (removeQueuedJobs p s).job g = if (s.job g).state = .queued ∧ (s.job g).requester = some p then .idle else s.job g := by
  have h := foldl_entries State.job
    (fun _ x => if x.state = .queued ∧ x.requester = some p then CalibrationJob.idle else x)
    (fun s g => if (s.job g).state = .queued ∧ (s.job g).requester = some p then
      (s.modFifo p (·.erase (.job g))).setJob g .idle else s)
    (fun t i j => by
      split
      · rw [job_setJob_eq]; rfl
      · next unqueued =>
        split
        · next same => rw [same]
        · rfl)
    allGains (by decide) s g
  have listed : g ∈ allGains := by cases g <;> decide
  rw [if_pos listed] at h
  exact h

/-- The comparators that the port held are held by none (R171). -/
theorem comparator_unholdComparators (p : Port) (s : State) (k : TripIdx) :
    (unholdComparators p s).comparator k =
      if (s.comparator k).holder = some p then { s.comparator k with holder := none } else s.comparator k := by
  have h := foldl_entries State.comparator
    (fun _ x => if x.holder = some p then { x with holder := none } else x)
    (fun s k => if (s.comparator k).holder = some p then s.modComparator k (fun c => { c with holder := none }) else s)
    (fun t i j => by
      split
      · unfold State.modComparator; rw [comparator_setComparator_eq]
      · split
        · next same => rw [same]
        · rfl)
    allComparators (List.nodup_finRange 2) s k
  simpa [unholdComparators, allComparators] using h

/-- The port has no slot, comparator or QUEUED job. -/
def OwnsNothing (p : Port) (s : State) : Prop :=
  (∀ k : SlotIdx, s.slot p k = none) ∧ (∀ k : TripIdx, (s.comparator k).holder ≠ some p) ∧ ∀ g, ¬QueuedBy p s g

theorem quiet_removeQueuedJobs (p : Port) (s : State) : Quiet q s (removeQueuedJobs p s) := by
  have only := removeQueuedJobs_only p s
  refine .of_fields (by rw [only]) (by rw [only]) (by rw [only]) (by rw [only]) (fun k holds => ?_) (fun g queued => ?_)
  · unfold State.comparator at *; rw [only] at holds; exact holds
  · unfold QueuedBy at *
    rw [job_removeQueuedJobs] at queued
    split at queued
    · exact nomatch queued.1
    · exact queued

theorem quiet_unholdComparators (p : Port) (s : State) : Quiet q s (unholdComparators p s) := by
  have only := unholdComparators_only p s
  refine .of_fields (by rw [only]) (by rw [only]) (by rw [only]) (by rw [only]) (fun k holds => ?_) (fun g queued => ?_)
  · rw [comparator_unholdComparators] at holds
    split at holds
    · cases holds
    · exact holds
  · unfold QueuedBy State.job at *; rw [only] at queued; exact queued

theorem quiet_teardownBlocks (p : Port) (s : State) : Quiet q s (teardownBlocks p s) := by
  have subscriptions : Quiet q s (removeSubscriptions p s) := .foldl (fun t k => quiet_removeSubscription p k t) _ s
  unfold teardownBlocks
  generalize removeSubscriptions p s = t at subscriptions ⊢
  exact (subscriptions.trans (quiet_removeQueuedJobs p t)).trans (quiet_unholdComparators ..)

theorem teardownBlocks_ownsNothing (p : Port) (s : State) : OwnsNothing p (teardownBlocks p s) := by
  have slots := slot_removeSubscriptions p s
  unfold teardownBlocks
  generalize removeSubscriptions p s = t at slots ⊢
  have quietJobs : Quiet p t (removeQueuedJobs p t) := quiet_removeQueuedJobs p t
  have jobs : ∀ g, ¬QueuedBy p (removeQueuedJobs p t) g := by
    intro g queued
    unfold QueuedBy at queued
    rw [job_removeQueuedJobs] at queued
    split at queued
    · exact nomatch queued.1
    · next unqueued => exact unqueued queued
  generalize removeQueuedJobs p t = u at quietJobs jobs ⊢
  have quiet : Quiet p u (unholdComparators p u) := quiet_unholdComparators p u
  refine ⟨fun k => quiet.slot k (quietJobs.slot k (slots k)), fun k holds => ?_, fun g queued => jobs g (quiet.job g queued)⟩
  rw [comparator_unholdComparators] at holds
  split at holds
  · cases holds
  · next unheld => exact unheld holds

theorem port_teardownPort (kind : EventKind) (p : Port) (s : State) :
    (teardownPort kind p s).port p =
      { s.port p with cache := none, supervision := none, session := .detached, detaching := false } := by
  unfold teardownPort
  dsimp only
  rw [(formEventForAll_only ..).port]
  simp [State.modPort, State.modRing]

/-- The ring and the queue of the port end empty, and the others are told. -/
theorem quiet_teardownPort (other : q ≠ p) (kind : EventKind) (s : State) : Quiet q s (teardownPort kind p s) := by
  unfold teardownPort
  dsimp only
  refine Quiet.trans ?_ (quiet_formEventForAll ..)
  refine Quiet.trans ?_ (quiet_ofOtherPort other _ _)
  exact ⟨rfl, fun _ => by simp [State.modRing, ring_setRing_ne _ _ _ _ other],
    fun _ => by simp [State.modRing, queue_setQueue_ne _ _ _ _ other], fun _ h => h, fun _ h => h, fun _ h => h⟩

/-- Rows 4 to 7 of a session end leave a port that owns nothing lawfully DETACHED. -/
theorem portLaws_teardownPort (kind : EventKind) (p : Port) (s : State) (request : RequestLaw (s.port p))
    (receiver : ReceiverLaw (s.port p)) (owns : OwnsNothing p s) : PortLaws (teardownPort kind p s) p := by
  obtain ⟨slots, holders, jobs⟩ := owns
  have port := port_teardownPort kind p s
  have detached : (teardownPort kind p s).attached p = false := by unfold State.attached; rw [port]; rfl
  have only := teardownPort_only kind p s
  have ring : (teardownPort kind p s).ring p = ringSessionEnd (s.ring p) := by
    unfold teardownPort
    dsimp only
    rw [(formEventForAll_only ..).ring]
    simp [State.modPort, State.modRing]
  have queue : (teardownPort kind p s).queue p = .empty := by
    unfold teardownPort
    dsimp only
    rw [queue_formEventForAll]
    simp [State.modPort, State.modRing, State.attached]
  refine ⟨?_, ⟨fun staying => ?_, fun _ => ⟨?_, ?_, ?_, queue, ?_⟩⟩, fun _ => ⟨fun k => ?_, fun k holds => ?_, fun g _ queued => ?_⟩, ?_⟩
  · rw [port]
    exact ⟨fun ready => ⟨(request.1 ready).1, (request.1 ready).2.1, rfl⟩, fun busy => ⟨(request.2 busy).1, rfl⟩⟩
  · rw [port] at staying; cases staying
  · rw [ring]; rfl
  · rw [ring]; rfl
  · rw [ring]; rfl
  · rw [port]
  · have := slots k
    unfold State.slot State.slots at *; rw [only]; exact this
  · have := holders k
    unfold State.comparator at *; rw [only] at holds; exact this holds
  · refine jobs g ?_
    unfold QueuedBy State.job at *; rw [only] at queued; exact queued
  · rw [port]; exact receiver

theorem ownsNothing_of_leaving (h : OwnershipLaw s p) (leaving : (s.port p).detaching = true) : OwnsNothing p s := by
  obtain ⟨slots, holders, jobs⟩ := h (.inr leaving)
  exact ⟨slots, holders, fun g queued => jobs g (by cases g <;> decide) queued⟩

theorem sessionLaws_sessionLost (h : SessionLaws s) (p : Port) : SessionLaws (sessionLost p s) := by
  have quiet : ∀ q, Quiet q s (teardownBlocks p s) := fun q => quiet_teardownBlocks p s
  have owns := teardownBlocks_ownsNothing p s
  unfold sessionLost
  generalize teardownBlocks p s = t at quiet owns ⊢
  intro q
  by_cases other : q = p
  · subst other
    obtain ⟨request, -, -, receiver⟩ := PortLaws.of_quiet (h q) (quiet q)
    exact portLaws_teardownPort .peerLost q t request receiver owns
  · exact PortLaws.of_quiet (h q) ((quiet q).trans (quiet_teardownPort other .peerLost t))

/-- After a response the port is READY, or sends its BUSY reply (R177, R179). -/
theorem sessionLaws_afterResponse (h : SessionLaws s) (p : Port) (staying : (s.port p).detaching = false)
    (executing : (s.port p).request = .executing) : SessionLaws (afterResponse p s) := by
  obtain ⟨request, -, -, receiver⟩ := h p
  unfold afterResponse
  split
  · refine sessionLaws_modPort h p rfl rfl (fun _ stopped => stopped) ⟨fun ready => ?_, fun _ => ?_⟩ receiver
    · exact nomatch ready.symm.trans executing
    · exact ⟨rfl, (request.2 executing).2⟩
  · next idle =>
    refine sessionLaws_modPort h p rfl rfl (fun away _ => ?_) ⟨fun _ => ⟨rfl, idle, staying⟩, fun busy => nomatch busy⟩ receiver
    simp [away]

theorem sessionLaws_responseEnds (h : SessionLaws s) (p : Port) (executing : (s.port p).request = .executing) :
    SessionLaws (responseEnds p s) := by
  unfold responseEnds
  split
  · next leaving =>
    have port := port_teardownPort .peerLeft p s
    have laws : SessionLaws (teardownPort .peerLeft p s) := by
      intro q
      by_cases other : q = p
      · subst other
        obtain ⟨request, -, owns, receiver⟩ := h q
        exact portLaws_teardownPort .peerLeft q s request receiver (ownsNothing_of_leaving owns leaving)
      · exact PortLaws.of_quiet (h q) (quiet_teardownPort other .peerLeft s)
    exact sessionLaws_afterResponse laws p (by rw [port]) (by rw [port]; exact executing)
  · next staying => exact sessionLaws_afterResponse h p (by simpa using staying) executing

/-! ### A request -/

/-- The port is EXECUTING with its supervision timer stopped, not between the stages of a DETACH, and its receiver hunts. -/
def Executes (x : HostPort) : Prop :=
  x.request = .executing ∧ x.supervision = none ∧ x.receiver = .hunting false ∧ x.interByte = none

/-- What owners can do to the ports: nothing to the others, and nothing to the requester but by ATTACH and DETACH. -/
theorem quiet_served (other : q ≠ p) {r : Request} (served : Served p s r t) : Quiet q s t := by
  have setSlot : ∀ (k : SlotIdx) (v : Option Subscription) (u : State), Quiet q u (u.setSlot p k v) := fun k v u =>
    ⟨rfl, fun _ => rfl, fun _ => rfl, fun l h => by rw [slot_setSlot_port_ne _ _ _ _ _ _ other]; exact h, fun _ h => h,
      fun _ h => h⟩
  have setRing : ∀ (x : Ring) (u : State), Quiet q u (u.setRing p x) := fun x u =>
    ⟨rfl, fun _ => ring_setRing_ne _ _ _ _ other, fun _ => rfl, fun _ h => h, fun _ h => h, fun _ h => h⟩
  have setQueue : ∀ (x : EventQueue) (u : State), Quiet q u (u.setQueue p x) := fun x u =>
    ⟨rfl, fun _ => rfl, fun _ => queue_setQueue_ne _ _ _ _ other, fun _ h => h, fun _ h => h, fun _ h => h⟩
  cases served
  case unchanged => exact .refl q s
  case attach =>
    unfold startSession
    exact ((setRing _ s).trans (setQueue _ _)).trans (quiet_ofOtherPort other _ _)
  case detach =>
    exact (quiet_teardownBlocks p s).trans (quiet_ofOtherPort other _ _)
  case joinPoint => exact (setSlot _ _ s).trans (quiet_setPoint ..)
  case createPoint => exact (quiet_setPoint _ _ s).trans (setSlot ..)
  case leavePoint =>
    unfold leavePoint
    split
    · exact quiet_removeSubscription ..
    · exact .refl q s
  case pause => exact quiet_modSubscription ..
  case resume => exact quiet_modSubscription ..
  case setConditioning => exact quiet_modSubscription ..
  case sampleNow => exact quiet_triggerPoint ..
  case calibrate g _ =>
    unfold queueJob
    refine Quiet.trans ?_ (quiet_decideIfIdle _)
    refine ⟨rfl, fun _ => rfl, fun _ => rfl, fun _ h => h, fun _ h => h, fun h queued => ?_⟩
    have entry : (enqueuePending p (.job g) (s.setJob g { s.job g with state := .queued, requester := some p })).job h =
        (s.setJob g { s.job g with state := .queued, requester := some p }).job h := rfl
    unfold QueuedBy at *
    rw [entry, job_setJob_eq] at queued
    split at queued
    · exact absurd (Option.some.inj queued.2).symm other
    · exact queued
  case readResults => exact setRing ..
  case ackResults => exact setRing ..
  case readEvents => exact setQueue ..
  case createMonitor => exact quiet_setMonitor ..
  case deleteMonitor => exact quiet_deleteMonitor ..
  case clearMonitorClaim => exact quiet_clearClaim ..
  case claimLine => exact quiet_addClaims ..
  case releaseLine => exact quiet_removeClaims ..
  case releaseStart => exact quiet_removeClaims ..
  case releaseOrphan => exact quiet_removeClaims ..
  case takeTrip k _ => exact quiet_modComparator k _ s (fun holds => absurd (Option.some.inj holds).symm other)
  case setTrip k config enable _ => exact quiet_modComparator k _ s id
  case giveTrip k => exact quiet_modComparator k _ s (fun holds => nomatch holds)
  case clearTrip => exact quiet_clearComparator ..

/-- No owner but those of ATTACH and DETACH touches a port, and what a DETACHED port may ask for otherwise changes
nothing. -/
theorem served_ports {r : Request} (served : Served p s r t) :
    t = s ∨ (servedDetached r = false ∧ t.ports = s.ports) ∨ (∃ f, t = startSession p f s) ∨
      (r = .detach ∧ t = (teardownBlocks p s).modPort p (fun h => { h with detaching := true })) := by
  cases served
  case unchanged => exact .inl rfl
  case attach f _ => exact .inr (.inr (.inl ⟨f, rfl⟩))
  case detach => exact .inr (.inr (.inr ⟨rfl, rfl⟩))
  all_goals refine .inr (.inl ⟨rfl, ?_⟩)
  case leavePoint i _ _ =>
    unfold leavePoint
    split
    · have only := removeSubscription_only p ‹_› s
      rw [only]
    · rfl
  case pause => rw [modSubscription_only]
  case resume => rw [modSubscription_only]
  case setConditioning => rw [modSubscription_only]
  case sampleNow i _ _ _ => have only := triggerPoint_only i s; unfold OnlyTrigger OnlyScheduling at only; rw [only]
  case calibrate g _ => have only := queueJob_only p g s; unfold OnlyTrigger OnlyScheduling at only; rw [only]
  case deleteMonitor k m _ _ => have only := deleteMonitor_only k s; rw [only]
  case clearMonitorClaim k m _ _ =>
    unfold clearClaim
    split
    · have only := removeClaim_only ‹_› (.monitor k) (s.setMonitor k (some { m with claimHeld := false }))
      rw [only]; rfl
    · rfl
  case claimLine mask => have only := addClaims_only mask (.host p) s; rw [only]
  case releaseLine mask => have only := removeClaims_only mask (.host p) s; rw [only]
  case releaseStart mask => have only := removeClaims_only mask .start s; rw [only]
  case releaseOrphan mask h _ => have only := removeClaims_only mask (.host h) s; rw [only]
  case clearTrip k _ => rw [clearComparator_only]
  all_goals rfl

/-- The port that answers sends; what it then must satisfy is what its session asks for. -/
theorem portLaws_answered (tag code : Byte) (body : List Byte) (a : Answer) (executes : Executes (t.port p))
    (detached : DetachedLaw t p) (owns : OwnershipLaw t p) : PortLaws (answered p tag code body a t) p := by
  obtain ⟨executing, stopped, hunts, noTimer⟩ := executes
  have port : (answered p tag code body a t).port p =
      { t.port p with
        cache := some { tag, crc := crc16 (requestCovered tag code body), response := responseFrame tag code a }
        sending := some { bytes := responseFrame tag code a, elapsed := 0 } } := by simp [answered, State.modPort]
  have attached : (answered p tag code body a t).attached p = t.attached p := by unfold State.attached; rw [port]
  refine ⟨?_, ⟨?_, fun away => ?_⟩, fun away => ?_, ?_⟩
  · rw [port]; exact ⟨fun ready => (nomatch ready.symm.trans executing), fun _ => ⟨rfl, stopped⟩⟩
  · rw [port, attached]; exact detached.1
  · rw [attached] at away
    rw [port]
    exact detached.2 away
  · rw [attached, port] at away
    exact owns away
  · rw [port]; exact ⟨by rw [hunts]; rfl, by simp [noTimer, hunts, hunting]⟩

theorem portLaws_served {r : Request} {tag code : Byte} {body : List Byte} {a : Answer} (h : PortLaws s p)
    (ready : (s.port p).request = .ready) (session : s.attached p = true ∨ servedDetached r = true)
    (served : Served p (atOwner p s) r t) : PortLaws (answered p tag code body a t) p := by
  obtain ⟨request, detached, owns, -⟩ := h
  have staying := (request.1 ready).2.2
  have port : (atOwner p s).port p = { s.port p with
      receiver := .hunting false, interByte := none, request := .executing, supervision := none } := by
    simp [atOwner, State.modPort]
  have attached : (atOwner p s).attached p = s.attached p := by unfold State.attached; rw [port]
  have executes : Executes ((atOwner p s).port p) := by rw [port]; exact ⟨rfl, rfl, rfl, rfl⟩
  have stays : ((atOwner p s).port p).detaching = false := by rw [port]; exact staying
  /- What an ATTACHED port that is not leaving needs. -/
  have present : ∀ {u : State}, Executes (u.port p) → u.attached p = true → (u.port p).detaching = false →
      PortLaws (answered p tag code body a u) p := fun executes attached stays =>
    portLaws_answered _ _ _ _ executes ⟨fun _ => attached, fun away => nomatch attached.symm.trans away⟩
      (fun away => by simp [attached, stays] at away)
  rcases served_ports served with rfl | ⟨session', same⟩ | ⟨f, rfl⟩ | ⟨rfl, rfl⟩
  · refine portLaws_answered _ _ _ _ executes ⟨fun leaving => (nomatch stays.symm.trans leaving), fun away => ?_⟩
      fun away => ?_
    · obtain ⟨window, unsent, lost, queue, -⟩ := detached.2 (attached ▸ away)
      exact ⟨window, unsent, lost, queue, by rw [port]⟩
    · rw [attached, stays] at away
      exact owns (.inl (by simpa using away))
  · have samePort : t.port p = (atOwner p s).port p := by unfold State.port; rw [same]
    have here : s.attached p = true := by simpa [session'] using session
    exact present (samePort ▸ executes) (by rw [attached_of_port samePort, attached, here]) (samePort ▸ stays)
  · have started : (startSession p f (atOwner p s)).port p = { (atOwner p s).port p with
        sessionId := ((atOwner p s).port p).sessionId + 1, interval := f.interval, session := .attached } := by
      simp [startSession, State.modPort]
    exact present (by rw [started]; exact executes) (by unfold State.attached; rw [started]; rfl)
      (by rw [started]; exact stays)
  · have here : s.attached p = true := by simpa [servedDetached] using session
    have owns := teardownBlocks_ownsNothing p (atOwner p s)
    have quiet : Quiet p (atOwner p s) (teardownBlocks p (atOwner p s)) := quiet_teardownBlocks p _
    generalize teardownBlocks p (atOwner p s) = u at owns quiet ⊢
    have leaving : (u.modPort p (fun h => { h with detaching := true })).port p =
        { (atOwner p s).port p with detaching := true } := by rw [← quiet.port]; simp [State.modPort]
    have there : (u.modPort p (fun h => { h with detaching := true })).attached p = true := by
      rw [← attached] at here
      unfold State.attached at here ⊢
      rw [leaving]
      exact here
    refine portLaws_answered _ _ _ _ (by rw [leaving]; exact executes)
      ⟨fun _ => there, fun away => nomatch there.symm.trans away⟩ fun _ => ?_
    exact ⟨owns.1, owns.2.1, fun g _ => owns.2.2 g⟩

theorem sessionLaws_received (h : SessionLaws s) {tag code : Byte} {body : List Byte}
    (received : Received p tag code body s t) : SessionLaws t := by
  have hunts := sessionLaws_receiverHunts h p
  have owner : ∀ q, q ≠ p → Quiet q s (atOwner p s) := fun q other => quiet_ofOtherPort other _ s
  have port : (atOwner p s).port p = { s.port p with
      receiver := .hunting false, interByte := none, request := .executing, supervision := none } := by
    simp [atOwner, State.modPort]
  have answers : ∀ {r : Request} {a : Answer} {u : State}, (s.port p).request = .ready →
      s.attached p = true ∨ servedDetached r = true → Served p (atOwner p s) r u →
      SessionLaws (answered p tag code body a u) := by
    intro r a u ready session served q
    by_cases other : q = p
    · subst other; exact portLaws_served (h q) ready session served
    · exact PortLaws.of_quiet (h q)
        (((owner q other).trans (quiet_served other served)).trans (quiet_ofOtherPort other _ _))
  cases received
  case resent response ready =>
    have staying := ((h p).1.1 ready).2.2
    have sends : SessionLaws (s.modPort p (fun h => { h with
        receiver := .hunting false, interByte := none, request := .executing, supervision := none,
        sending := some (transmission response) })) :=
      sessionLaws_modPort h p rfl rfl (fun _ _ => rfl) ⟨fun ready => (nomatch ready), fun _ => ⟨rfl, rfl⟩⟩ ⟨rfl, by simp [hunting]⟩
    have same : (atOwner p s).modPort p (fun h => { h with sending := some (transmission response) }) =
        s.modPort p (fun h => { h with
          receiver := .hunting false, interByte := none, request := .executing, supervision := none,
          sending := some (transmission response) }) := by
      simp only [atOwner, State.modPort, port_setPort, setPort_setPort]
    rw [same]
    exact sends
  case refused e ready => exact answers (r := .ping) ready (.inr rfl) (.unchanged .ping)
  case served r a u ready _ session served => exact answers ready session served
  case busyWaits executing _ =>
    refine sessionLaws_modPort hunts p rfl rfl (fun _ stopped => stopped) ⟨fun ready => ?_, ?_⟩ (hunts p).2.2.2
    · rw [port_receiverHunts] at ready
      exact nomatch ready.symm.trans executing
    · exact (hunts p).1.2
  case discarded => exact sessionLaws_discardFrame h p

theorem sessionLaws_takeByte (h : SessionLaws s) (p : Port) (b : Byte) : SessionLaws (takeByte p b s) := by
  have fits := (h p).2.2.2.1
  unfold takeByte
  split
  · next hunts =>
    split
    · exact sessionLaws_receiverMoves h p rfl rfl
    · exact sessionLaws_badStartByte h p _ (by simp [hunts, hunting])
  · split
    · next inRange =>
      refine sessionLaws_receiverMoves h p ?_ rfl
      simp only [Config.lenTop] at inRange
      simp [receiverFits, inRange]
      omega
    · exact sessionLaws_discardFrame h p
  · next len taken collects =>
    simp only [collects, receiverFits, Bool.and_eq_true, decide_eq_true_eq] at fits
    split
    · next complete =>
      refine sessionLaws_receiverMoves h p ?_ rfl
      simp [receiverFits, fits, complete]
    · next more =>
      refine sessionLaws_receiverMoves h p ?_ rfl
      simp [receiverFits, fits]
      omega
  · next len taken checks =>
    simp only [checks, receiverFits] at fits
    exact sessionLaws_receiverMoves h p (by simpa [receiverFits] using fits) rfl
  · unfold frameComplete
    split
    · split
      · exact sessionLaws_received h (goodFrame_received ..)
      · exact sessionLaws_discardFrame h p
    · exact sessionLaws_discardFrame h p

/-! ### The commands and the clock -/

theorem sessionLaws_reset (s : State) :
    SessionLaws { State.reset with pins := s.pins, draws := s.draws, pending := s.pending } := by
  have reset : SessionLaws State.reset := by decide +kernel
  exact sessionLaws_of_quiet reset fun q => .of_same rfl rfl rfl rfl rfl rfl

theorem sessionLaws_effect {c : Instr} (h : SessionLaws s) (effect : Effect s c t) : SessionLaws t := by
  cases effect
  case nothing => exact h
  case fullReset => exact sessionLaws_reset s
  case resetRelease => exact sessionLaws_of_quiet h fun q => .of_same rfl rfl rfl rfl rfl rfl
  case trgEdge => exact sessionLaws_of_quiet h fun q => quiet_edgeAccepted ..
  case periodicExpiry i period _ _ _ =>
    exact sessionLaws_of_quiet h fun q => (quiet_setPoint i _ s).trans (quiet_triggerPoint ..)
  case delayExpiry => exact sessionLaws_of_quiet h fun q => quiet_becomeDue ..
  case completion => exact sessionLaws_of_quiet h fun q => quiet_completeConversion ..
  case tripFiring => exact sessionLaws_of_quiet h fun q => quiet_takeSample ..
  case comparatorSample k input i output =>
    refine sessionLaws_of_quiet h fun q => Quiet.trans ?_ (quiet_takeSample ..)
    exact .of_same rfl rfl rfl rfl rfl rfl
  case framingError => exact sessionLaws_malformedFrame h _ _
  case interByteTimeout => exact sessionLaws_interByteExpires h _
  case responseSent p executing => exact sessionLaws_responseEnds h p executing
  case supervisionExpiry p _ => exact sessionLaws_sessionLost h p
  case byteTaken => exact sessionLaws_takeByte h _ _
  case request => exact sessionLaws_received h (goodFrame_received ..)
  case unknownRequest => exact sessionLaws_received h (goodFrame_received ..)
  case busyReply => exact sessionLaws_received h (goodFrame_received ..)

theorem timerTick_eq_none (x : Option Nat) : timerTick x = none ↔ x = none := by
  cases x with
  | none => simp [timerTick]
  | some n => cases n <;> simp [timerTick]

/-- A tick runs timers down and stops or starts none (R32). -/
theorem sessionLaws_tick (h : SessionLaws s) (p : Port) : SessionLaws (s.modPort p portTick) := by
  obtain ⟨⟨ready, executing⟩, -, -, fits, timer⟩ := h p
  refine sessionLaws_modPort h p rfl rfl (fun _ stopped => (timerTick_eq_none _).mpr stopped)
    ⟨ready, fun busy => ⟨(executing busy).1, (timerTick_eq_none _).mpr (executing busy).2⟩⟩
    ⟨fits, (timerTick_eq_none _).trans timer⟩

theorem sessionLaws_linesClk (h : SessionLaws s) (p : Port) (baud : StrapCode) (level : Bool) :
    SessionLaws (s.modPort p (linesClk baud level)) := by
  obtain ⟨⟨ready, executing⟩, -, -, receiver⟩ := h p
  refine sessionLaws_modPort h p rfl rfl (fun _ stopped => stopped) ⟨fun idle => ?_, fun busy => ?_⟩ receiver
  · obtain ⟨silent, rest⟩ := ready idle
    exact ⟨by simp [linesClk, silent], rest⟩
  · obtain ⟨sends, stopped⟩ := executing busy
    exact ⟨by simpa [linesClk] using sends, stopped⟩

theorem sessionLaws_clkTimebase (h : SessionLaws s) : SessionLaws (clkTimebase s) := by
  unfold clkTimebase
  split
  · unfold timebaseTick
    have points : SessionLaws (tickPoints s) := by
      rw [tickPoints_only]
      exact sessionLaws_of_quiet h fun q => .of_same rfl rfl rfl rfl rfl rfl
    have ports : SessionLaws (tickPorts (tickPoints s)) := by
      unfold tickPorts
      exact foldl_keeps SessionLaws _ _ (fun t p _ ht => sessionLaws_tick ht p) _ points
    generalize tickPorts (tickPoints s) = t at ports ⊢
    exact sessionLaws_of_quiet ports fun q => .of_same rfl rfl rfl rfl rfl rfl
  · exact sessionLaws_of_quiet h fun q => .of_same rfl rfl rfl rfl rfl rfl

theorem quiet_sampleComparators (s : State) : Quiet q s (sampleComparators s) := by
  unfold sampleComparators
  refine .foldl (fun t k => quiet_modComparator k _ t ?_) _ s
  split
  · exact id
  · rw [holder_sampled]; exact id

theorem sessionLaws_clkPeriod (h : SessionLaws s) : SessionLaws (clkPeriod s) := by
  have sampled : SessionLaws (sampleComparators (clkTimebase s)) :=
    sessionLaws_of_quiet (sessionLaws_clkTimebase h) fun q => quiet_sampleComparators _
  have links : SessionLaws (clkLinks (sampleComparators (clkTimebase s))) := by
    unfold clkLinks
    exact foldl_keeps SessionLaws _ _ (fun t p _ ht => sessionLaws_linesClk ht p _ _) _ sampled
  unfold clkPeriod
  split
  · exact h
  · unfold clkAdvance
    generalize clkLinks (sampleComparators (clkTimebase s)) = t at links ⊢
    exact sessionLaws_of_quiet links fun q => .of_same rfl rfl rfl rfl rfl rfl

end OnePort

/-- Settles O56: a case analysis of the step; what is quiet for a port keeps its laws, and a port's own requests and the
ends of its sessions are followed one by one. -/
theorem everyStepKeepsSessionLaws : Obligations.EveryStepKeepsSessionLaws := by
  intro s t h run
  unfold step at run
  split at run
  · next c rest _ =>
    have waits : SessionLaws { s with pending := rest } :=
      sessionLaws_of_quiet h fun q => .of_same rfl rfl rfl rfl rfl rfl
    exact sessionLaws_effect waits (effect_of_exec run)
  · cases run
    unfold withNoCommand
    split
    · exact sessionLaws_of_quiet h fun q => quiet_takeDecision s
    · exact sessionLaws_clkPeriod h

end Sys2Proof.SessionLawsKept
end

section
/-!
PROOFS. Reset and the link: the reset values, the commands while RST_N is low, the frame receiver byte by byte, good frames
that are refused or not executed, and the end of a response.
-/

namespace Sys2Proof.Machine

theorem modPort_modPort (s : State) (p : Port) (f g : HostPort → HostPort) :
    (s.modPort p f).modPort p g = s.modPort p (fun h => g (f h)) := by
  simp only [State.modPort, port_setPort, setPort_setPort]

theorem modPort_congr {s : State} {p : Port} {f g : HostPort → HostPort} (h : f (s.port p) = g (s.port p)) :
    s.modPort p f = s.modPort p g := by
  simp only [State.modPort, h]

theorem port_modPort (s : State) (p : Port) (f : HostPort → HostPort) : (s.modPort p f).port p = f (s.port p) :=
  port_setPort ..

end Sys2Proof.Machine

namespace Sys2Proof.Machine

theorem OnlyPort.ring {p : Port} {s t : State} (h : OnlyPort p s t) (q : Port) : t.ring q = s.ring q := by rw [h]; rfl
theorem OnlyPort.queue {p : Port} {s t : State} (h : OnlyPort p s t) (q : Port) : t.queue q = s.queue q := by rw [h]; rfl

end Sys2Proof.Machine

namespace Sys2Proof.LinkCommands

open Sys2Proof Sys2Proof.Machine Sys2Proof.Safety Sys2Proof.Statement Sys2Proof.StepEffects Sys2Proof.StepFrames
open Sys2Proof.Noninterference

/-! ### Reset -/

/-- Settles O53. -/
theorem lawsHoldAtReset : Obligations.LawsHoldAtReset := by
  have bounds : BoundsLaw State.reset := by decide +kernel
  have claims : ClaimLaws State.reset := by decide +kernel
  have sessions : SessionLaws State.reset := by decide +kernel
  have entries : ∀ i : PointIdx, ListLaw (State.reset.point i) ∧ TriggerLaw (State.reset.point i) ∧ PlaceLaw State.reset i := by
    decide +kernel
  have subscriptions : SubscriptionLaw State.reset := by decide +kernel
  have creators : CreatorLaw State.reset := by decide +kernel
  have jobs : ∀ g ∈ allGains, JobLaw State.reset g := by decide +kernel
  have converter : ConverterLaw State.reset := by decide +kernel
  exact ⟨bounds, claims, sessions, entries, subscriptions, creators, by decide +kernel, by decide +kernel,
    by decide +kernel, jobs, converter⟩

theorem fullResetValues_reset : FullResetValues State.reset := by
  decide +kernel

/-- Settles O3: the reset state is evaluated; pins, draws and the line of commands are read by none of its values. -/
theorem fullResetValuesOfEveryBlock : Obligations.FullResetValuesOfEveryBlock :=
  ⟨fullResetValues_reset, fun _ => ⟨_, rfl, fullResetValues_reset⟩⟩

/-! ### Commands while RST_N is low -/

theorem whenReleased_held (f : State → State) {s : State} (held : s.resetLow = true) : whenReleased f s = .next s := by
  simp [whenReleased, held]

theorem whenReleased_released (f : State → State) {s : State} (released : s.resetLow = false) :
    whenReleased f s = .next (f s) := by
  simp [whenReleased, released]

theorem frameRow_held (p : Port) (tag code : Byte) (body : List Byte) {s : State} (held : s.resetLow = true) :
    frameRow p tag code body s = .next s := whenReleased_held _ held

/-- A command that carries a good frame does nothing while RST_N is low (notes/assumptions/1.md). -/
theorem exec_goodFrame_held {c : Instr} {p : Port} {tag code : Byte} {body : List Byte} {s : State}
    (frame : goodFrameOf c = some (p, tag, code, body)) (held : s.resetLow = true) : exec c s = .next s := by
  rcases exec_frameInstr (frameInstr_of_goodFrameOf frame) with same | same
  · exact same
  · rw [same, frameRow_held p tag code body held]

theorem exec_held {c : Instr} {s : State} (held : s.resetLow = true) (noFullReset : c ≠ .fullReset)
    (noRelease : ∀ sh cd bd lv, c ≠ .resetRelease sh cd bd lv) : exec c s = .next s := by
  cases frame : goodFrameOf c with
  | some x => exact exec_goodFrame_held frame held
  | none =>
    cases c
    case fullReset => exact absurd rfl noFullReset
    case resetRelease sh cd bd lv => exact absurd rfl (noRelease sh cd bd lv)
    case trgEdge => exact whenReleased_held _ held
    case periodicExpiry => exact whenReleased_held _ held
    case delayExpiry => exact whenReleased_held _ held
    case conversionCompletion => simp only [exec, execConversionCompletion]; exact whenReleased_held _ held
    case tripFiring => exact whenReleased_held _ held
    case framingError => exact whenReleased_held _ held
    case interByteTimeout => exact whenReleased_held _ held
    case responseSent => simp only [exec, execResponseSent]; exact whenReleased_held _ held
    case supervisionExpiry => exact whenReleased_held _ held
    case comparatorSample => simp only [exec, execComparatorSample]; exact whenReleased_held _ held
    case byteTaken => exact whenReleased_held _ held
    all_goals exact nomatch frame

/-- A line with a claimant is asserted, and its pin is high (R147). -/
theorem line_of_claim {s : State} {l : LineIdx} {c : Claimant} (stands : s.claims l c = true) :
    s.inhHigh l = true ∧ s.lineAsserted l = true := by
  have asserted : claimAsserted (s.line l) = true := (claimAsserted_iff _).mpr ⟨claimantIndex c, stands⟩
  exact ⟨by simp [State.inhHigh, State.lineAsserted, asserted], asserted⟩

/-- Settles O4: every row but the two reset rows goes through `whenReleased`. -/
theorem resetIsHeldUntilItsRelease : Obligations.ResetIsHeldUntilItsRelease := by
  intro share cdiv baud levels s held
  refine ⟨?release, fun l stands => line_of_claim stands, fun c => exec_held held, fun idle => ?noTime⟩
  case release =>
    simp only [exec, execResetRelease, held, if_true]
  case noTime =>
    simp only [step, idle, withNoCommand, clkPeriod, held, Bool.not_true, Bool.and_false, Bool.false_eq_true, if_false, if_true]

/-! ### The frame receiver -/

section Receiver

variable {p : Port} {s : State}

theorem oneErrorMore_eq (n : Nat) : satAdd 65535 n 1 = oneErrorMore n := rfl

theorem countFramingError_eq (p : Port) (s : State) :
    countFramingError p s = s.modPort p (fun h => { h with framingErrors := oneErrorMore h.framingErrors }) := rfl

theorem discardFrame_eq (p : Port) (s : State) :
    discardFrame p s = s.modPort p (fun h =>
      { h with receiver := .hunting false, interByte := none, framingErrors := oneErrorMore h.framingErrors }) := by
  rw [discardFrame, countFramingError_eq, receiverHunts, modPort_modPort]

theorem badStartByte_eq (p : Port) (run : Bool) (s : State) :
    badStartByte p run s = s.modPort p (fun h =>
      { h with receiver := .hunting true,
               framingErrors := if run then h.framingErrors else oneErrorMore h.framingErrors }) := by
  unfold badStartByte
  dsimp only
  cases run with
  | true => rfl
  | false => exact (countFramingError_eq ..).trans (modPort_modPort ..)

theorem expired_eq (timer : Option Nat) : expired timer = decide (timer = some 0) := by
  rcases timer with _ | n
  · rfl
  · cases n <;> rfl

/-- Settles O8: the receiver is followed state by state. -/
theorem receiverTakesBytesAndErrors : Obligations.ReceiverTakesBytesAndErrors := by
  intro p b s released moves discards timesOut
  have takes : exec (.byteTaken p b) s = .next (takeByte p b s) := whenReleased_released _ released
  have fails : ∀ cause, exec (.framingError p cause) s = .next (malformedFrame p cause s) := fun _ =>
    whenReleased_released _ released
  have expires : exec (.interByteTimeout p) s = .next (interByteExpires p s) := whenReleased_released _ released
  simp only [takes, fails, expires, Host.Outcome.next.injEq]
  cases receiver : (s.port p).receiver with
  | hunting run =>
    simp only [takeByte, malformedFrame, takeByteError, interByteExpires, receiver, badStartByte_eq, discardFrame_eq]
    refine ⟨?_, ?_, ?_, ?_, ?_, ?_⟩ <;> trivial
  | length =>
    simp only [takeByte, malformedFrame, takeByteError, interByteExpires, receiver, discardFrame_eq, expired_eq,
      decide_eq_true_eq]
    refine ⟨?_, ?_, ?_, ?_, ?_, ?_⟩ <;> trivial
  | collecting len taken =>
    simp only [takeByte, malformedFrame, takeByteError, interByteExpires, receiver, discardFrame_eq, expired_eq,
      decide_eq_true_eq]
    refine ⟨?_, ?_, ?_, ?_, ?_, ?_⟩ <;> trivial
  | checking len taken high =>
    simp only [malformedFrame, takeByteError, interByteExpires, receiver, discardFrame_eq, expired_eq, decide_eq_true_eq]
    refine ⟨fun first => ?_, fun h second disagree => ?_, ?_, ?_, ?_, ?_, ?_⟩
    · subst first
      simp only [takeByte, receiver]
      rfl
    · cases second
      simp only [takeByte, receiver, frameComplete]
      split
      · rw [if_neg disagree, discardFrame_eq]
      · rw [discardFrame_eq]
    all_goals trivial

end Receiver

/-! ### Good frames -/

section GoodFrames

variable {c : Instr} {p : Port} {tag code : Byte} {body : List Byte} {s t : State}

/-- A well-formed UNKNOWN_REQUEST has a CODE that names no request (R199). -/
theorem requestOf_of_wellFormed (wellFormed : (Instr.unknownRequest p tag code body).wellFormed = true) :
    requestOf code = none := by
  simp only [Instr.wellFormed, Bool.and_eq_true, Bool.not_eq_true'] at wellFormed
  cases named : requestOf code with
  | none => rfl
  | some r =>
    have same : requestCode r = code := by simpa using List.find?_some named
    rw [← same] at wellFormed
    have listed : requestCodes.contains (requestCode r).toNat = true := by cases r <;> decide
    rw [listed] at wellFormed
    exact nomatch wellFormed.2

/-- Every row that carries a good frame stands for the rest of that frame (notes/assumptions/9.md). -/
theorem exec_goodFrame (frame : goodFrameOf c = some (p, tag, code, body)) (wellFormed : c.wellFormed = true)
    (busy : c = .busyReply p tag code body → (s.port p).request = .executing) :
    exec c s = frameRow p tag code body s := by
  cases frameInstr_of_goodFrameOf frame with
  | request r => exact exec_requestInstr r p tag body s
  | unknownRequest => simp only [exec, execUnknownRequest, requestOf_of_wellFormed wellFormed, Option.isNone_none, if_true]
  | busyReply => simp only [exec, execBusyReply, busy rfl]

theorem frameRow_completes (released : s.resetLow = false) (completes : frameCanComplete p tag code body s = true) :
    frameRow p tag code body s = .next (goodFrame p tag code body s) := by
  rw [frameRow, whenReleased_released _ released, if_pos completes]

/-- The port in which a good frame is taken. -/
theorem port_hunts (p : Port) (s : State) :
    (receiverHunts p s).port p = { s.port p with receiver := .hunting false, interByte := none } := port_receiverHunts p s

theorem goodFrame_executing (executing : (s.port p).request = .executing) :
    goodFrame p tag code body s = s.modPort p (fun h => match h.busy with
      | none => { h with receiver := .hunting false, interByte := none, busy := some (tag, code) }
      | some _ =>
        { h with receiver := .hunting false, interByte := none, framingErrors := oneErrorMore h.framingErrors }) := by
  unfold goodFrame
  dsimp only
  rw [port_hunts]
  simp only [executing, busyFrameTaken, port_hunts]
  split
  · next idle =>
    rw [receiverHunts, modPort_modPort]
    exact modPort_congr (by simp only [idle])
  · next waits =>
    rw [countFramingError_eq, receiverHunts, modPort_modPort]
    exact modPort_congr (by simp only [waits])

theorem goodFrame_cached {e : CacheEntry} (ready : (s.port p).request = .ready) (cached : e ∈ (s.port p).cache)
    (sameTag : e.tag = tag) (sameCrc : e.crc = crc16 (requestCovered tag code body)) :
    goodFrame p tag code body s = s.modPort p (fun h =>
      { h with receiver := .hunting false, interByte := none, request := .executing, supervision := none,
               sending := some { bytes := e.response, elapsed := 0 } }) := by
  have hit : cacheHit ((receiverHunts p s).port p) tag (crc16 (requestCovered tag code body)) = some e.response := by
    rw [port_hunts]
    simp only [cacheHit, Option.mem_def.mp cached, sameTag, sameCrc, and_self, if_true]
  unfold goodFrame
  dsimp only
  rw [port_hunts]
  simp only [ready, executeFrame, hit]
  rw [receiverHunts, modPort_modPort, modPort_modPort]
  rfl

/-- Settles O10. -/
theorem duplicatesAndBusyFramesAreNotExecuted : Obligations.DuplicatesAndBusyFramesAreNotExecuted := by
  intro c p tag code body s frame wellFormed released completes
  refine ⟨fun ready notBusy e cached sameTag sameCrc => ?_, fun executing => ?_⟩
  · rw [exec_goodFrame frame wellFormed (fun busy => absurd busy notBusy), frameRow_completes released completes,
      goodFrame_cached ready cached sameTag sameCrc]
  · exact ((exec_goodFrame frame wellFormed (fun _ => executing)).trans (frameRow_completes released completes)).trans
      (congrArg _ (goodFrame_executing executing))

/-! ### The common checks (R181) -/

/-- The row of R199 for a request. -/
def codeRow (r : Request) : Nat × Nat × Bool := ((requestCode r).toNat, requestLength r, servedDetached r)

/-- The table of R199 has one row for each request. -/
theorem codeTable_eq : codeTable = allRequests.map codeRow := by decide

theorem mem_codeTable {n : Nat} {d : Bool} :
    (code.toNat, n, d) ∈ codeTable ↔ ∃ r, requestOf code = some r ∧ requestLength r = n ∧ servedDetached r = d := by
  rw [codeTable_eq, List.mem_map]
  constructor
  · rintro ⟨r, -, row⟩
    obtain ⟨same, length, detached⟩ : (requestCode r).toNat = code.toNat ∧ requestLength r = n ∧ servedDetached r = d := by
      simpa [codeRow] using row
    exact ⟨r, by rw [← BitVec.eq_of_toNat_eq same, requestOf_requestCode], length, detached⟩
  · rintro ⟨r, named, rfl, rfl⟩
    have same : requestCode r = code := by simpa using List.find?_some named
    exact ⟨r, by cases r <;> decide, by simp [codeRow, same]⟩

theorem requestFrame_isGoodFrame (frame : requestFrameOf c = some (p, tag, code, body)) :
    goodFrameOf c = some (p, tag, code, body) ∧ c ≠ .busyReply p tag code body := by
  constructor
  · unfold goodFrameOf
    split
    · exact nomatch frame
    · exact frame
  · rintro rfl
    exact nomatch frame

theorem exec_refused (frame : requestFrameOf c = some (p, tag, code, body)) (wellFormed : c.wellFormed = true)
    (arrives : Arrives p tag code body s) {e : Status}
    (refused : answerRequest p code body (atOwner p s) = (atOwner p s, refusal e)) : Refuses c p tag code body e s := by
  obtain ⟨good, notBusy⟩ := requestFrame_isGoodFrame frame
  unfold Refuses
  rw [exec_goodFrame good wellFormed (fun busy => absurd busy notBusy), frameRow_arrives arrives, refused]

/-- Settles O9: the checks are an if-chain in this order, and the table of R199 is the model's. -/
theorem commonChecksComeInOrder : Obligations.CommonChecksComeInOrder := by
  intro c p tag code body s frame wellFormed arrives
  refine ⟨fun detached notServed => ?session, fun attached notNamed => ?known, fun n d row session wrong => ?length⟩
    <;> refine exec_refused frame wellFormed arrives ?_
  case session =>
    have refuses : sessionRefuses p (requestOf code) (atOwner p s) = true := by
      cases named : requestOf code with
      | none => simp [sessionRefuses, detached]
      | some r =>
        have : servedDetached r = false := by
          cases served : servedDetached r with
          | false => rfl
          | true => exact absurd (mem_codeTable.mpr ⟨r, named, rfl, served⟩) (notServed _)
        simp [sessionRefuses, detached, this]
    simp only [answerRequest, refuses, if_true]
  case known =>
    have unnamed : requestOf code = none := by
      cases named : requestOf code with
      | none => rfl
      | some r => exact absurd (mem_codeTable.mpr ⟨r, named, rfl, rfl⟩) (notNamed _ _)
    simp [answerRequest, unnamed, sessionRefuses, attached]
  case length =>
    obtain ⟨r, named, rfl, rfl⟩ := mem_codeTable.mp row
    have passes : sessionRefuses p (some r) (atOwner p s) = false := by
      rcases session with attached | served
      · simp [sessionRefuses, attached]
      · simp [sessionRefuses, served]
    simp [answerRequest, named, passes, wrong]

end GoodFrames

/-! ### The end of a response -/

section Responses

variable {p : Port} {s : State}

theorem exec_responseSent (released : s.resetLow = false) (executing : (s.port p).request = .executing) :
    exec (.responseSent p) s = .next (responseEnds p s) := by
  simp only [exec, execResponseSent, whenReleased_released _ released, executing]

theorem busyFrame_eq (tag code : Byte) : busyFrame tag code = busyBytes tag code := rfl

theorem responseEnds_staying (staying : (s.port p).detaching = false) : responseEnds p s = afterResponse p s := by
  simp only [responseEnds, staying, Bool.false_eq_true, if_false]

theorem afterResponse_eq (p : Port) (s : State) :
    afterResponse p s = s.modPort p (fun h => match h.busy with
      | some (tag, code) => { h with busy := none, sending := some { bytes := busyBytes tag code, elapsed := 0 } }
      | none =>
        { h with request := .ready, sending := none,
                 supervision := if h.session = .attached ∧ h.interval ≠ 0 then some (h.interval * 10000) else none }) := by
  unfold afterResponse
  split
  · next waits => exact modPort_congr (by simp only [waits]; rfl)
  · next idle => exact modPort_congr (by simp only [idle])

/-- Settles O11. -/
theorem endOfResponse : Obligations.EndOfResponse := by
  intro p s released executing staying
  exact (exec_responseSent released executing).trans
    (congrArg _ ((responseEnds_staying staying).trans (afterResponse_eq p s)))

/-- The four bytes of a time reading, most significant first (R195). -/
theorem bytes32_toNat (x : BitVec 32) : bytes32 x.toNat =
    [BitVec.extractLsb' 24 8 x, BitVec.extractLsb' 16 8 x, BitVec.extractLsb' 8 8 x, BitVec.extractLsb' 0 8 x] := by
  simp only [bytes32, byteOf, List.cons.injEq, and_true]
  refine ⟨?_, ?_, ?_, ?_⟩ <;> apply BitVec.eq_of_toNat_eq <;> simp [Nat.shiftRight_eq_div_pow]

theorem sessionCode_eq (p : Port) (s : State) :
    sessionCode (s.port p).session = if s.attached p then 1 else 0 := by
  unfold State.attached
  cases (s.port p).session <;> rfl

/-- Settles O16: the request leaves the port EXECUTING with no BUSY reply waiting, so its response ends in READY. -/
theorem pingReportsTimeAndSession : Obligations.PingReportsTimeAndSession := by
  intro p tag s arrives idle staying
  have answer : exec (.ping p tag []) s = .next (answered p tag 0x03 [] (okAnswer
      (bytes32 s.timebase.toNat ++ [sessionCode (s.port p).session, (s.port p).sessionId])) (atOwner p s)) := by
    have port : ((atOwner p s).port p).session = (s.port p).session ∧ ((atOwner p s).port p).sessionId = (s.port p).sessionId := by
      rw [atOwner, port_modPort]; exact ⟨rfl, rfl⟩
    have served := frameRow_serves .ping arrives (.inr rfl) rfl
    simp only [serve, servePing, port] at served
    exact served
  rw [bytes32_toNat, sessionCode_eq] at answer
  have port : ∀ a, (answered p tag 0x03 [] a (atOwner p s)).port p = { s.port p with
      receiver := .hunting false, interByte := none, request := .executing, supervision := none
      cache := some { tag, crc := crc16 (requestCovered tag 0x03 []), response := responseFrame tag 0x03 a }
      sending := some { bytes := responseFrame tag 0x03 a, elapsed := 0 } } := by
    intro a; rw [answered, port_modPort, atOwner, port_modPort]
  refine ⟨_, _, answer, exec_responseSent arrives.1 (by rw [port]), rfl, fun attached interval => ?_⟩
  have session : (s.port p).session = .attached := by
    unfold State.attached at attached
    cases session : (s.port p).session <;> simp_all
  rw [responseEnds_staying (by rw [port]; exact staying), afterResponse_eq, port_modPort, port]
  simp [idle, session, interval]

end Responses

/-! ### The bytes of a frame -/

section Bytes

variable {p : Port} {tag code : Byte} {body : List Byte} {s : State}

theorem takeAll_nil (p : Port) (s : State) : takeAll p [] s = .next s := rfl

theorem takeAll_cons (p : Port) (b : Byte) (bs : List Byte) (released : s.resetLow = false) :
    takeAll p (b :: bs) s = takeAll p bs (takeByte p b s) := by
  have takes : exec (.byteTaken p b) s = .next (takeByte p b s) := whenReleased_released _ released
  simp only [takeAll, takes]

theorem resetLow_receiverMoves (p : Port) (r : Receiver) (s : State) : (receiverMoves p r s).resetLow = s.resetLow := rfl

theorem receiver_receiverMoves (p : Port) (r : Receiver) (s : State) : ((receiverMoves p r s).port p).receiver = r := by
  rw [receiverMoves, port_modPort]

/-- Where the receiver stood does not matter to a good frame once it completes. -/
theorem goodFrame_receiverMoves (r : Receiver) :
    goodFrame p tag code body (receiverMoves p r s) = goodFrame p tag code body s := by
  have same : receiverHunts p (receiverMoves p r s) = receiverHunts p s := by
    rw [receiverHunts, receiverMoves, modPort_modPort]; rfl
  simp only [goodFrame, same]

theorem requestFrame_eq (tag code : Byte) (body : List Byte) :
    requestFrame tag code body = 0xA5 :: requestLen body :: (tag :: code :: body ++ crcBytes (requestCovered tag code body)) :=
  rfl

theorem length_crcBytes (bytes : List Byte) : (crcBytes bytes).length = 2 := rfl

/-- A receiver that takes the rest of a good frame, byte by byte, ends in the good frame's effect (R174). -/
theorem takeAll_restOfFrame (fits : bodyFits body = true) (rest : List Byte) :
    ∀ s : State, s.resetLow = false → receiverFits (s.port p).receiver = true →
      receiverHolds (s.port p).receiver ++ rest = requestFrame tag code body →
      takeAll p rest s = .next (goodFrame p tag code body s) := by
  have len : (requestLen body).toNat = body.length + 2 ∧ (requestLen body).toNat ≤ 250 := by
    obtain ⟨length, bound, -⟩ := Laws.FrameFits.of_bodyFits fits
    exact ⟨length, bound⟩
  have crcLength := length_crcBytes (requestCovered tag code body)
  induction rest with
  | nil =>
    intro s _ receiverFit whole
    rw [List.append_nil, requestFrame_eq] at whole
    cases receiver : (s.port p).receiver with
    | hunting run => simp [receiver, receiverHolds] at whole
    | length => simp [receiver, receiverHolds] at whole
    | collecting x taken =>
      simp only [receiver, receiverHolds, List.cons.injEq, true_and] at whole
      simp only [receiver, receiverFits, Bool.and_eq_true, decide_eq_true_eq] at receiverFit
      have lengths := congrArg List.length whole.2
      simp only [List.length_append, List.length_cons, crcLength] at lengths
      rw [whole.1] at receiverFit
      omega
    | checking x taken high =>
      simp only [receiver, receiverHolds, List.cons.injEq, true_and] at whole
      simp only [receiver, receiverFits, Bool.and_eq_true, decide_eq_true_eq, beq_iff_eq] at receiverFit
      have lengths := congrArg List.length whole.2
      simp only [List.length_append, List.length_cons, crcLength] at lengths
      rw [whole.1] at receiverFit
      have short : high.toList.length ≤ 1 := by cases high <;> simp
      omega
  | cons b rest ih =>
    intro s released receiverFit whole
    have moves : ∀ r : Receiver, takeByte p b s = receiverMoves p r s → receiverFits r = true →
        receiverHolds r ++ rest = requestFrame tag code body →
        takeAll p (b :: rest) s = .next (goodFrame p tag code body s) := fun r takes fit holds => by
      rw [takeAll_cons p b rest released, takes,
        ih (receiverMoves p r s) released (by rw [receiver_receiverMoves]; exact fit)
          (by rw [receiver_receiverMoves]; exact holds), goodFrame_receiverMoves]
    cases receiver : (s.port p).receiver with
    | hunting run =>
      have start : b = 0xA5 ∧ rest = requestLen body :: (tag :: code :: body ++ crcBytes (requestCovered tag code body)) := by
        simpa [receiver, receiverHolds, requestFrame_eq] using whole
      refine moves .length (by simp only [takeByte, receiver, start.1, if_true]) rfl ?_
      rw [start.2]; rfl
    | length =>
      have start : b = requestLen body ∧ rest = tag :: code :: body ++ crcBytes (requestCovered tag code body) := by
        simpa [receiver, receiverHolds, requestFrame_eq] using whole
      have inRange : 2 ≤ b.toNat ∧ b.toNat ≤ Config.lenTop := by
        simp only [start.1, Config.lenTop]; omega
      refine moves (.collecting b []) (by simp only [takeByte, receiver, inRange, and_self, if_true]) ?_ ?_
      · simp only [receiverFits, Bool.and_eq_true, decide_eq_true_eq, List.length_nil]
        have := inRange.2
        simp only [Config.lenTop] at this
        omega
      · rw [start.1, start.2]; rfl
    | collecting x taken =>
      have holds : receiverHolds (.collecting x (taken ++ [b])) ++ rest = requestFrame tag code body := by
        rw [← whole, receiver]; simp [receiverHolds]
      simp only [receiver, receiverFits, Bool.and_eq_true, decide_eq_true_eq] at receiverFit
      by_cases complete : taken.length + 1 = x.toNat
      · refine moves (.checking x (taken ++ [b]) none) (by simp only [takeByte, receiver, complete, if_true]) ?_ ?_
        · simp [receiverFits, receiverFit, complete]
        · rw [← holds]; simp [receiverHolds]
      · refine moves (.collecting x (taken ++ [b])) (by simp only [takeByte, receiver, complete, if_false]) ?_ holds
        simp only [receiverFits, Bool.and_eq_true, decide_eq_true_eq, List.length_append, List.length_singleton]
        omega
    | checking x taken high =>
      simp only [receiver, receiverFits, Bool.and_eq_true, decide_eq_true_eq, beq_iff_eq] at receiverFit
      rw [receiver] at whole
      have parts : x = requestLen body ∧
          taken ++ (high.toList ++ b :: rest) = (tag :: code :: body) ++ crcBytes (requestCovered tag code body) := by
        simpa [receiverHolds, requestFrame_eq] using whole
      have collected : taken = tag :: code :: body ∧ high.toList ++ b :: rest = crcBytes (requestCovered tag code body) := by
        refine List.append_inj parts.2 ?_
        rw [receiverFit.2, parts.1, len.1]; rfl
      cases high with
      | none =>
        refine moves (.checking x taken (some b)) (by simp only [takeByte, receiver]) ?_ ?_
        · simp [receiverFits, receiverFit]
        · rw [← whole]; simp [receiverHolds]
      | some first =>
        have lengths := congrArg List.length collected.2
        simp only [Option.toList_some, List.length_append, List.length_cons, List.length_nil, crcLength] at lengths
        have last : rest = [] := List.length_eq_zero_iff.mp (by omega)
        subst last
        have agree : crcBytes (x :: tag :: code :: body) = [first, b] := by
          rw [parts.1]; exact collected.2.symm
        have completes : takeByte p b s = goodFrame p tag code body s := by
          simp only [takeByte, receiver, frameComplete, collected.1, agree, if_true]
        rw [takeAll_cons p b [] released, completes, takeAll_nil]

/-- Settles O7: by induction on the bytes that remain, along the states of the receiver. -/
theorem bytesOfAFrameAreItsCommand : Obligations.BytesOfAFrameAreItsCommand := by
  intro c p tag code body s frame wellFormed released receiver completes busy
  have parts : bodyFits body = true ∧ receiverHolds (s.port p).receiver <+: requestFrame tag code body := by
    simpa [frameCanComplete] using completes
  rw [exec_goodFrame frame wellFormed busy, frameRow_completes released completes]
  refine takeAll_restOfFrame parts.1 _ s released receiver.1 ?_
  exact List.prefix_iff_eq_append.mp parts.2

end Bytes

/-! ### Sessions -/

section Sessions

variable {p : Port} {s : State}

theorem ringPolicyOf_eq (b : Byte) :
    ringPolicyOf b.toNat = if 1 < b.toNat then none else some (if b = 0 then .keepOldest else .keepNewest) := by
  revert b; decide

theorem readAttach_eq (interval policy watermark : Byte) :
    readAttach [interval, policy, watermark] =
      if 1 < policy.toNat ∨ watermark.toNat = 0 ∨ 64 < watermark.toNat then none
      else some { interval := interval.toNat, policy := if policy = 0 then .keepOldest else .keepNewest,
                  watermark := watermark.toNat } := by
  have policyByte : byteAt [interval, policy, watermark] 1 = policy.toNat := rfl
  have watermarkByte : byteAt [interval, policy, watermark] 2 = watermark.toNat := rfl
  simp only [readAttach, policyByte, watermarkByte, ringPolicyOf_eq]
  by_cases badPolicy : 1 < policy.toNat
  · simp [badPolicy]
  · by_cases inRange : 1 ≤ watermark.toNat ∧ watermark.toNat ≤ 64
    · have : ¬(watermark.toNat = 0 ∨ 64 < watermark.toNat) := by omega
      simp [badPolicy, inRange, this, byteAt]
    · have : watermark.toNat = 0 ∨ 64 < watermark.toNat := by omega
      simp [badPolicy, inRange, this]

theorem sessionId_startSession (p : Port) (f : AttachFields) (s : State) :
    ((startSession p f (atOwner p s)).port p).sessionId = (s.port p).sessionId + 1 := by
  simp [startSession, State.modPort, atOwner]

/-- Settles O12. -/
theorem attachStartsASession : Obligations.AttachStartsASession := by
  intro p tag interval policy watermark s arrives body c
  have served := frameRow_serves .attach arrives (.inr rfl) rfl
  simp only [serve, serveAttach, readAttach_eq, attached_atOwner] at served
  split
  · next outOfRange =>
    rw [if_pos outOfRange] at served
    exact served
  · next inRange =>
    rw [if_neg inRange] at served
    split
    · next attached =>
      simp only [attached, if_true] at served
      exact served
    · next detached =>
      simp only [detached, Bool.false_eq_true, if_false] at served
      refine Eq.trans served ?_
      rw [sessionId_startSession, InhibitLines.maskByte_eq]
      rfl

theorem queue_setPort_setQueue (q : Port) (x : EventQueue) (y : HostPort) :
    ((s.setQueue p x).setPort p y).queue q = if q = p then x else s.queue q := by
  simp only [queue_setPort, queue_setQueue_eq]

/-- Rows 4 to 7 of a session end, ring by ring, queue by queue and port by port (R189). -/
theorem ring_teardownPort (kind : EventKind) (p q : Port) (s : State) :
    (teardownPort kind p s).ring q = if q = p then endedRing (s.ring p) else s.ring q := by
  unfold teardownPort
  dsimp only
  rw [(formEventForAll_only ..).ring, State.modPort, ring_setPort, ring_setQueue, State.modRing, ring_setRing_eq]
  rfl

theorem queue_teardownPort (kind : EventKind) (p q : Port) (s : State) :
    (teardownPort kind p s).queue q =
      if q = p then .empty else offered s q [eventNow s kind p.val (s.port p).sessionId.toNat] := by
  unfold teardownPort
  dsimp only
  rw [queue_formEventForAll]
  by_cases own : q = p
  · subst own
    simp [State.attached, State.modPort, State.modRing]
  · simp [State.attached, State.modPort, State.modRing, queue_setQueue_eq, own, port_setPort_ne, offered, eventNow]

theorem port_teardownPort_eq (kind : EventKind) (p q : Port) (s : State) :
    (teardownPort kind p s).port q = if q = p then endedPort (s.port p) else s.port q := by
  unfold teardownPort
  dsimp only
  rw [(formEventForAll_only ..).port, State.modPort, port_setPort_eq]
  rfl

/-- ALERT is deasserted at a port whose ring and queue hold nothing, or that is DETACHED (R192). -/
theorem alertAsserted_of_ended {t : State} (detached : t.attached p = false) : t.alertAsserted p = false := by
  simp [State.alertAsserted, State.ringCondition, State.eventCondition, detached]

theorem frame_of_onlyPort {t u : State} (frame : t = { s with rings := t.rings, queues := t.queues, ports := t.ports })
    (only : OnlyPort p t u) : u = { s with rings := u.rings, queues := u.queues, ports := u.ports } := by
  unfold OnlyPort at only
  rw [only]
  rw [frame]
  rfl

/-- Settles O14: rows 4 to 7 of the session end, then the end of the response. -/
theorem detachSecondStageAtEndOfResponse : Obligations.DetachSecondStageAtEndOfResponse := by
  intro p s released executing leaving
  have ends : responseEnds p s = afterResponse p (teardownPort .peerLeft p s) := by
    simp only [responseEnds, leaving, if_true]
  have only := afterResponse_only p (teardownPort .peerLeft p s)
  have port : ∀ q, (responseEnds p s).port q = if q = p then (match (s.port p).busy with
      | some (tag, code) =>
        { endedPort (s.port p) with busy := none, sending := some { bytes := busyBytes tag code, elapsed := 0 } }
      | none => { endedPort (s.port p) with request := .ready, sending := none })
      else s.port q := by
    intro q
    rw [ends, afterResponse_eq, State.modPort, port_setPort_eq, port_teardownPort_eq, port_teardownPort_eq, if_pos rfl]
    by_cases own : q = p
    · simp only [own, if_true]
      have busy : (endedPort (s.port p)).busy = (s.port p).busy := rfl
      rw [busy]
      cases (s.port p).busy with
      | none => rfl
      | some x => rfl
    · simp only [own, if_false]
  rw [← ends] at only
  refine ⟨_, exec_responseSent released executing, ?frame, fun q => ?ring, fun q => ?queue, port, ?alert⟩
  case frame =>
    exact frame_of_onlyPort (teardownPort_only ..) only
  case ring => rw [only.ring, ring_teardownPort]
  case queue => rw [only.queue, queue_teardownPort]
  case alert =>
    refine alertAsserted_of_ended ?_
    unfold State.attached
    rw [port, if_pos rfl]
    cases (s.port p).busy <;> rfl

end Sessions

end Sys2Proof.LinkCommands
end

section
/-!
PROOFS. The reports of the status requests byte by byte, that every response fits its frame, and that a request body reads back
as the fields it was made of.
-/

namespace Sys2Proof.Reports

open Sys2Proof.Machine Sys2Proof.Safety Sys2Proof.Statement

/-! ### Layouts (R205) -/

theorem byteOfBool_eq (b : Bool) : byteOfBool b = yes b := rfl

theorem portByte_eq (p : Option Port) : portByte p = portField p := by cases p <;> rfl

theorem portEntryBytes_eq (s : State) (p : Port) : portEntryBytes s p = portLayout s p := by
  have session : sessionCode (s.port p).session = yes (s.attached p) := by
    unfold State.attached
    cases (s.port p).session <;> rfl
  simp only [portEntryBytes, session]
  rfl

theorem entriesInUse_eq (s : State) :
    s.entriesInUse = (allPoints.filter (fun i => (s.point i).state ≠ .free)).length := by
  rw [State.entriesInUse, List.countP_eq_length_filter]
  congr 2
  funext i
  cases (s.point i).state <;> rfl

theorem urgentInUse_eq (s : State) : s.urgentInUse =
    (allPoints.filter (fun i => (s.point i).state ≠ .free ∧ (s.point i).key.urgent = true)).length := by
  rw [State.urgentInUse, List.countP_eq_length_filter]
  congr 2
  funext i
  cases (s.point i).state <;> cases (s.point i).key.urgent <;> rfl

theorem partStatusBody_eq (s : State) : partStatusBody s = partLayout s := by
  have ports : allPorts.flatMap (portEntryBytes s) = portLayout s 0 ++ portLayout s 1 ++ portLayout s 2 ++ portLayout s 3 := by
    simp [allPorts, List.finRange_succ, portEntryBytes_eq]
  simp only [partStatusBody, partLayout, ports, entriesInUse_eq, urgentInUse_eq, byteOfBool_eq]
  simp only [List.append_assoc]
  rfl

theorem subscriberBytes_eq (ps : List Port) : subscriberBytes ps =
    (ps.map (fun p : Port => (BitVec.ofNat 8 p.val : Byte)) ++ List.replicate 4 0xFF).take 4 := by
  rcases ps with _ | ⟨a, _ | ⟨b, _ | ⟨c, _ | ⟨d, rest⟩⟩⟩⟩ <;> rfl

theorem pointStatusBody_eq (e : PointEntry) : pointStatusBody e = pointLayout e := by
  simp only [pointStatusBody, pointLayout, pointStateCode_eq, keyBytes_eq, subscriberBytes_eq]
  rfl

theorem slotBytes_eq (k : SlotIdx) (u : Subscription) : slotBytes k u = slotLayout k u := by
  obtain ⟨point, state, offset, multiplier, shift, decimation, counter, missed, first⟩ := u
  cases state <;> rfl

/-- The occupied slots of a table, one by one. -/
theorem occupiedSlots_eq (s : State) (p : Port) (ks : List SlotIdx) :
    (ks.filterMap (fun k => (s.slot p k).map (slotBytes k))).length = (ks.filter (fun k => (s.slot p k).isSome)).length ∧
    (ks.filterMap (fun k => (s.slot p k).map (slotBytes k))).flatten =
      ks.flatMap (fun k => match s.slot p k with | some u => slotLayout k u | none => []) := by
  induction ks with
  | nil => exact ⟨rfl, rfl⟩
  | cons k ks ih =>
    obtain ⟨length, bytes⟩ := ih
    cases occupied : s.slot p k with
    | none => simp [occupied, length, bytes]
    | some u => simp [occupied, length, bytes, slotBytes_eq]

theorem listBody_eq (s : State) (p : Port) : listBody s p = listLayout s p := by
  obtain ⟨length, bytes⟩ := occupiedSlots_eq s p allSlots
  simp only [listBody, length, bytes]
  rfl

theorem trimBytes_eq (s : State) (g : Gain) : trimBytes (s.trimEntry g) (s.job g) = trimLayout s g := by
  unfold trimBytes trimLayout
  rw [portByte_eq]
  cases (s.trimEntry g).state <;> cases (s.job g).state <;> rfl

theorem monitorBytes_eq (m : Option Monitor) : monitorBytes m = monitorLayout m := by
  cases m with
  | none => rfl
  | some m =>
    obtain ⟨creator, point, low, high, hysteresis, qualify, action, broadcast, state, count, claimHeld⟩ := m
    cases action <;> cases state <;> rfl

theorem comparatorBytes_eq (c : Comparator) : comparatorBytes c = tripLayout c := by
  obtain ⟨⟨input, step, polarity, filter, mask⟩, state, holder, run, claimed, beyond⟩ := c
  unfold comparatorBytes tripLayout
  simp only [InhibitLines.maskByte_eq, portByte_eq]
  cases state <;> cases polarity <;> cases filter <;> rfl

/-! ### Claim sets as bits (R155) -/

theorem toList_eq_ofFn (set : ClaimSet) : set.toList = List.ofFn (fun x : Fin 15 => set[x]) := by
  refine List.ext_getElem (by simp) fun k h1 h2 => ?_
  rw [List.getElem_ofFn, Vector.getElem_toList]
  rfl

/-- A list of bits, least significant first, as the sum of the powers of 2 that stand in it. -/
theorem foldr_bits_eq_sum {n : Nat} (f : Fin n → Bool) :
    (List.ofFn f).foldr (fun b n => b.toNat + 2 * n) 0 =
      (((List.finRange n).filter f).map (fun x => 2 ^ x.val)).sum := by
  induction n with
  | zero => simp
  | succ n ih =>
    have doubled : ∀ xs : List (Fin n), ((xs.map Fin.succ).map (fun x => 2 ^ x.val)).sum = 2 * (xs.map (fun x => 2 ^ x.val)).sum := by
      intro xs
      induction xs with
      | nil => rfl
      | cons x xs ih => simp only [List.map_cons, List.sum_cons, ih, Fin.val_succ, pow_succ]; omega
    rw [List.ofFn_succ, List.foldr_cons, ih (fun x => f x.succ), List.finRange_succ, List.filter_cons, List.filter_map,
      Function.comp_def]
    cases f 0 <;> simp only [Bool.toNat_true, Bool.toNat_false, Bool.false_eq_true, if_true, if_false, List.map_cons,
      List.sum_cons, doubled, Fin.val_zero, pow_zero]
    omega

theorem lineBytes_eq (set : ClaimSet) : lineBytes set = lineLayout set := by
  have count : claimCount set = ((List.finRange 15).filter (fun x : Fin 15 => set[x])).length := by
    rw [claimCount, toList_eq_ofFn, List.ofFn_eq_map, List.countP_map, List.countP_eq_length_filter]
    rfl
  have asserted : claimAsserted set = !((List.finRange 15).filter (fun x : Fin 15 => set[x])).isEmpty := by
    rw [Bool.eq_iff_iff, claimAsserted_iff]
    simp [List.filter_eq_nil_iff]
  have bits : claimBits set = (((List.finRange 15).filter (fun x : Fin 15 => set[x])).map (fun x => 2 ^ x.val)).sum := by
    rw [claimBits, toList_eq_ofFn, foldr_bits_eq_sum]
  simp only [lineBytes, lineLayout, count, asserted, bits, byteOfBool_eq]
  rfl

/-! ### The status requests -/

theorem portLayout_atOwner (p q : Port) (s : State) : portLayout (atOwner p s) q = portLayout s q := by
  have port : ((atOwner p s).port q).sessionId = (s.port q).sessionId ∧
      ((atOwner p s).port q).framingErrors = (s.port q).framingErrors := by
    rw [atOwner, State.modPort, port_setPort_eq]
    split
    · next own => rw [own]; exact ⟨rfl, rfl⟩
    · exact ⟨rfl, rfl⟩
  simp only [portLayout, attached_atOwner, port]
  rfl

theorem partLayout_atOwner (p : Port) (s : State) : partLayout (atOwner p s) = partLayout s := by
  simp only [partLayout, portLayout_atOwner]
  rfl

theorem pointIndexOf_of_lt {n : Nat} (h : n < 32) : pointIndexOf n = some ⟨n, h⟩ := by simp [pointIndexOf, h]

/-- Settles O17. -/
theorem statusRequestsChangeNothing : Obligations.StatusRequestsChangeNothing := by
  intro p tag index s
  refine ⟨fun arrives => ?part, fun asks inRange => ?point, fun asks outOfRange => ?noPoint, fun asks => ?list,
    fun asks => ?trim, fun asks => ?monitor, fun asks => ?line, fun asks => ?trip⟩
  case part =>
    refine (frameRow_serves .partStatus arrives (.inr rfl) rfl).trans ?_
    simp only [serve, servePartStatus, partStatusBody_eq, partLayout_atOwner]
    rfl
  case point =>
    refine ResultRing.frameRow_served .pointStatus asks rfl ?_
    simp only [serve, servePointStatus, byteAt, List.getD_cons_zero, pointIndexOf_of_lt inRange, pointStatusBody_eq]
    rfl
  case noPoint =>
    refine ResultRing.frameRow_served .pointStatus asks rfl ?_
    have none : pointIndexOf index.toNat = none := by simp [pointIndexOf]; omega
    simp only [serve, servePointStatus, byteAt, List.getD_cons_zero, none]
  case list =>
    refine ResultRing.frameRow_served .listSubscriptions asks rfl ?_
    simp only [serve, serveListSubscriptions, listBody_eq]
    rfl
  case trim =>
    refine ResultRing.frameRow_served .trimStatus asks rfl ?_
    simp only [serve, serveTrimStatus, trimStatusBody, trimBytes_eq]
    rfl
  case monitor =>
    refine ResultRing.frameRow_served .monitorStatus asks rfl ?_
    simp only [serve, serveMonitorStatus, monitorStatusBody, monitorBytes_eq]
    rfl
  case line =>
    refine ResultRing.frameRow_served .lineStatus asks rfl ?_
    simp only [serve, serveLineStatus, lineStatusBody, lineBytes_eq]
    rfl
  case trip =>
    refine ResultRing.frameRow_served .tripStatus asks rfl ?_
    simp only [serve, serveTripStatus, tripStatusBody, comparatorBytes_eq]
    rfl

/-! ### Lengths (R196, R205) -/

/-- Equal parts, one for each element of a list. -/
theorem length_flatMap_const {α : Type} {f : α → List Byte} {n : Nat} (h : ∀ a, (f a).length = n) (xs : List α) :
    (xs.flatMap f).length = xs.length * n := by
  induction xs with
  | nil => simp
  | cons x xs ih => simp only [List.flatMap_cons, List.length_append, h, ih, List.length_cons]; ring

theorem length_keyBytes (k : Key) : (keyBytes k).length = 13 := by
  unfold keyBytes triggerBytes
  split <;> rfl

theorem length_pointStatusBody (e : PointEntry) : (pointStatusBody e).length = 22 := by
  unfold pointStatusBody
  split <;> simp [length_keyBytes, subscriberBytes, bytes16]

theorem length_monitorBytes (m : Option Monitor) : (monitorBytes m).length = 16 := by
  unfold monitorBytes
  split
  · rfl
  · unfold actionBytes
    split <;> rfl

theorem length_listBody (s : State) (p : Port) : (listBody s p).length ≤ 209 := by
  have slots : (allSlots.filterMap (fun k => (s.slot p k).map (slotBytes k))).length ≤ 16 :=
    (List.length_filterMap_le ..).trans (by simp [allSlots])
  have thirteen : ∀ x ∈ allSlots.filterMap (fun k => (s.slot p k).map (slotBytes k)), x.length = 13 := by
    intro x hx
    obtain ⟨k, -, occupied⟩ := List.mem_filterMap.mp hx
    obtain ⟨u, -, rfl⟩ := Option.map_eq_some_iff.mp occupied
    rfl
  have total : (allSlots.filterMap (fun k => (s.slot p k).map (slotBytes k))).flatten.length =
      (allSlots.filterMap (fun k => (s.slot p k).map (slotBytes k))).length * 13 := by
    rw [List.length_flatten, List.map_congr_left thirteen, List.map_const', List.sum_replicate, smul_eq_mul]
  simp only [listBody, List.length_cons, total]
  omega

theorem length_recordBytes (r : Record) : (recordBytes r).length = 16 := rfl

theorem length_eventBytes (e : Event) : (eventBytes e).length = 8 := rfl

theorem length_windowBody (r : Ring) (resent ackIgnored : Bool) (window : r.window.length ≤ 15) :
    (windowBody r resent ackIgnored).length ≤ 245 := by
  have records : (r.window.flatMap recordBytes).length = r.window.length * 16 :=
    length_flatMap_const length_recordBytes _
  simp only [windowBody, List.length_append, records, List.length_cons, List.length_nil]
  omega

/-- The answer's body leaves room for TAG, CODE and STATUS in a frame of LEN 250. -/
def FitsFrame (x : State × Answer) : Prop := x.2.body.length ≤ 247

theorem fitsFrame_refusal (s : State) (e : Status) : FitsFrame (s, refusal e) := Nat.zero_le _

theorem fitsFrame_ok {s : State} {body : List Byte} (h : body.length ≤ 247) : FitsFrame (s, okAnswer body) := h

/-- An answer of a few bytes. -/
theorem fitsFrame_short {x : State × Answer} (h : x.2.body.length ≤ 4) : FitsFrame x := h.trans (by omega)

theorem length_claimOutcome (l : Option LineIdx) : (claimOutcome l).length = 2 := by cases l <;> rfl

theorem fitsFrame_readResults {p : Port} {body : List Byte} {s : State} (h : BoundsLaw s) :
    FitsFrame (serveReadResults p body s) := by
  unfold serveReadResults
  split
  · exact fitsFrame_refusal ..
  · next f fields =>
    have bounds := Bounds.ringBounds_read (f := f) (StepEffects.readReadResults_inRange fields).2 (h.1 p).1
    exact fitsFrame_ok ((length_windowBody _ _ _ bounds.2.1).trans (by omega))

theorem fitsFrame_readEvents {p : Port} {body : List Byte} {s : State} (h : BoundsLaw s) :
    FitsFrame (serveReadEvents p body s) := by
  unfold serveReadEvents
  split
  · exact fitsFrame_refusal ..
  · next n _ =>
    have queue := (h.1 p).2.1.1
    have events : (((s.queue p).events.take n).flatMap eventBytes).length = ((s.queue p).events.take n).length * 8 :=
      length_flatMap_const length_eventBytes _
    refine fitsFrame_ok ?_
    simp only [List.length_append, events, List.length_cons, List.length_nil, List.length_take]
    omega

theorem fitsFrame_claims (mask : LineMask) (c : Claimant) (s : State) : FitsFrame (releaseClaims mask c s) :=
  fitsFrame_short (by simp [releaseClaims, okAnswer])

theorem fitsFrame_definePoint (p : Port) (body : List Byte) (s : State) : FitsFrame (serveDefinePoint p body s) := by
  unfold serveDefinePoint
  split
  · exact fitsFrame_refusal ..
  · split
    · exact fitsFrame_refusal ..
    · split
      · split <;> exact fitsFrame_short (by simp [defineBody, okAnswer, bytes16])
      · split
        · exact fitsFrame_refusal ..
        · split
          · exact fitsFrame_refusal ..
          · exact fitsFrame_short (by simp [defineBody, okAnswer, bytes16])

theorem fitsFrame_serve (r : Request) (p : Port) (body : List Byte) {s : State} (h : BoundsLaw s) :
    FitsFrame (serve r p body s) := by
  cases r
  case attach =>
    simp only [serve, serveAttach]
    split
    · exact fitsFrame_refusal ..
    · split
      · exact fitsFrame_refusal ..
      · exact fitsFrame_short (by simp [okAnswer])
  case detach =>
    simp only [serve, serveDetach]
    split
    · exact fitsFrame_refusal ..
    · exact fitsFrame_short (by simp [okAnswer])
  case ping => exact fitsFrame_ok (by simp [bytes32])
  case partStatus =>
    refine fitsFrame_ok ?_
    simp [partStatusBody, allPorts, List.finRange_succ, portEntryBytes, bytes16, bytes32]
  case definePoint => exact fitsFrame_definePoint p body s
  case leavePoint =>
    simp only [serve, serveLeavePoint]
    split
    · exact fitsFrame_refusal ..
    · exact fitsFrame_short (by simp [okAnswer])
  case pauseSubscription =>
    simp only [serve, servePause]
    split
    · exact fitsFrame_refusal ..
    · exact fitsFrame_short (by simp [okAnswer])
  case resumeSubscription =>
    simp only [serve, serveResume]
    split
    · exact fitsFrame_refusal ..
    · exact fitsFrame_short (by simp [okAnswer])
  case setConditioning =>
    simp only [serve, serveSetConditioning]
    split
    · exact fitsFrame_refusal ..
    · split
      · exact fitsFrame_refusal ..
      · exact fitsFrame_short (by simp [okAnswer])
  case pointStatus =>
    simp only [serve, servePointStatus]
    split
    · exact fitsFrame_refusal ..
    · exact fitsFrame_ok (by rw [length_pointStatusBody]; omega)
  case listSubscriptions => exact fitsFrame_ok ((length_listBody s p).trans (by omega))
  case sampleNow =>
    simp only [serve, serveSampleNow]
    split
    · exact fitsFrame_refusal ..
    · split
      · exact fitsFrame_short (by simp [sampleBody])
      · exact fitsFrame_refusal ..
  case calibrate =>
    simp only [serve, serveCalibrate]
    split
    · exact fitsFrame_refusal ..
    · split
      · exact fitsFrame_short (by simp [okAnswer])
      · exact fitsFrame_refusal ..
  case trimStatus =>
    refine fitsFrame_ok ?_
    rw [trimStatusBody, length_flatMap_const (n := 6) (fun g => rfl)]
    decide
  case readResults => exact fitsFrame_readResults h
  case ackResults =>
    simp only [serve, serveAckResults]
    split <;> exact fitsFrame_short (by simp [okAnswer])
  case readEvents => exact fitsFrame_readEvents h
  case createMonitor =>
    simp only [serve, serveCreateMonitor]
    split
    · exact fitsFrame_refusal ..
    · split
      · split
        · split
          · exact fitsFrame_refusal ..
          · exact fitsFrame_short (by simp [okAnswer])
        · exact fitsFrame_refusal ..
      · exact fitsFrame_refusal ..
  case deleteMonitor =>
    simp only [serve, serveDeleteMonitor]
    split
    · exact fitsFrame_refusal ..
    · exact fitsFrame_short (by simp [okAnswer, length_claimOutcome])
  case clearMonitorClaim =>
    simp only [serve, serveClearMonitorClaim]
    split
    · exact fitsFrame_refusal ..
    · split
      · exact fitsFrame_refusal ..
      · exact fitsFrame_short (by simp [okAnswer, length_claimOutcome])
  case monitorStatus =>
    refine fitsFrame_ok ?_
    rw [monitorStatusBody, length_flatMap_const (n := 16) (fun k => length_monitorBytes _)]
    decide
  case claimLine =>
    simp only [serve, serveClaimLine]
    split
    · exact fitsFrame_refusal ..
    · exact fitsFrame_short (by simp [okAnswer])
  case releaseLine =>
    simp only [serve, serveReleaseLine]
    split
    · exact fitsFrame_refusal ..
    · exact fitsFrame_claims ..
  case releaseStart =>
    simp only [serve, serveReleaseStart]
    split
    · exact fitsFrame_refusal ..
    · exact fitsFrame_claims ..
  case releaseOrphan =>
    simp only [serve, serveReleaseOrphan]
    split
    · exact fitsFrame_refusal ..
    · split
      · exact fitsFrame_refusal ..
      · exact fitsFrame_claims ..
  case lineStatus =>
    refine fitsFrame_ok ?_
    rw [lineStatusBody, length_flatMap_const (n := 4) (fun l => rfl)]
    decide
  case takeTrip =>
    simp only [serve, serveTakeTrip]
    split
    · exact fitsFrame_refusal ..
    · split
      · exact fitsFrame_short (by simp [okAnswer])
      · split <;> exact fitsFrame_short (by simp [okAnswer])
  case setTrip =>
    simp only [serve, serveSetTrip]
    split
    · exact fitsFrame_refusal ..
    · split
      · split
        · exact fitsFrame_refusal ..
        · exact fitsFrame_short (by simp [okAnswer])
      · exact fitsFrame_refusal ..
  case giveTrip =>
    simp only [serve, serveGiveTrip]
    split
    · exact fitsFrame_refusal ..
    · split
      · exact fitsFrame_short (by simp [okAnswer])
      · exact fitsFrame_refusal ..
  case clearTrip =>
    simp only [serve, serveClearTrip]
    split
    · exact fitsFrame_refusal ..
    · split
      · split
        · exact fitsFrame_refusal ..
        · exact fitsFrame_short (by simp [okAnswer])
      · exact fitsFrame_refusal ..
  case tripStatus =>
    refine fitsFrame_ok ?_
    rw [tripStatusBody, length_flatMap_const (n := 9) (fun k => rfl)]
    decide

/-- Settles O18: the common checks answer an empty body, and each owner's answer is measured. -/
theorem everyResponseFitsAFrame : Obligations.EveryResponseFitsAFrame := by
  intro p code body s h
  have fits : FitsFrame (answerRequest p code body s) := by
    unfold answerRequest
    dsimp only
    split
    · exact fitsFrame_refusal ..
    · split
      · exact fitsFrame_refusal ..
      · split
        · exact fitsFrame_serve _ p body h
        · exact fitsFrame_refusal ..
  unfold FitsFrame at fits
  omega

end Sys2Proof.Reports
end

section
/-!
PROOFS. A request body laid out as R203 and R204 say reads back as the fields it was made of.
-/

namespace Sys2Proof.RequestBodies

open Sys2Proof.Machine Sys2Proof.Statement

/-! ### Bytes and words -/

theorem toNat_byte {n : Nat} (h : n < 256) : (BitVec.ofNat 8 n).toNat = n := by
  simp only [BitVec.toNat_ofNat]; omega

/-- The two bytes of a 16-bit field read back. -/
theorem word_of_two {n : Nat} (h : n < 65536) :
    (BitVec.ofNat 8 (n / 256)).toNat * 256 + (BitVec.ofNat 8 n).toNat = n := by
  simp only [BitVec.toNat_ofNat]; omega

theorem byteAt_zero (b : Byte) (bs : List Byte) : byteAt (b :: bs) 0 = b.toNat := rfl
theorem byteAt_succ (b : Byte) (bs : List Byte) (k : Nat) : byteAt (b :: bs) (k + 1) = byteAt bs k := rfl

theorem flagOf_byte (b : Bool) : flagOf (if b then (1 : Byte) else 0).toNat = some b := by cases b <;> rfl

theorem lineMaskOf_byte (mask : LineMask) : lineMaskOf (mask.setWidth 8).toNat = some mask := by revert mask; decide

/-! ### Conditioning fields -/

theorem readConditioning_layout {c : Conditioning} (inRange : ConditioningInRange c) (index : Byte) :
    readConditioning (index :: conditioningLayout c) 1 = some c := by
  obtain ⟨shift, positive, decimation⟩ := inRange
  have bytes : byteAt (index :: conditioningLayout c) 5 = c.shift ∧ word16At (index :: conditioningLayout c) 6 = c.decimation ∧
      word16At (index :: conditioningLayout c) 1 = c.offset.toNat ∧
      word16At (index :: conditioningLayout c) 3 = c.multiplier.toNat :=
    ⟨toNat_byte (by omega), word_of_two (by omega), word_of_two c.offset.isLt, word_of_two c.multiplier.isLt⟩
  obtain ⟨shiftByte, decimationWord, offsetWord, multiplierWord⟩ := bytes
  have fits : c.shift ≤ 15 ∧ 1 ≤ c.decimation ∧ c.decimation ≤ 256 := ⟨shift, positive, decimation⟩
  simp only [readConditioning, Nat.reduceAdd, shiftByte, decimationWord, offsetWord, multiplierWord, if_pos fits,
    BitVec.ofNat_toNat, BitVec.setWidth_eq]

/-- Bytes before the one that is read do not matter. -/
theorem readConditioning_shift (front bytes : List Byte) (k : Nat) :
    readConditioning (front ++ bytes) (front.length + k) = readConditioning bytes k := by
  have shifted : ∀ j, byteAt (front ++ bytes) (front.length + j) = byteAt bytes j := fun j => by
    simp only [byteAt, List.getD_append_right _ _ _ _ (Nat.le_add_right ..), Nat.add_sub_cancel_left]
  simp only [readConditioning, word16At, Nat.add_assoc, shifted]

/-! ### Key fields -/

theorem length_keyLayout (k : Key) : (keyLayout k).length = 13 := by
  rw [← keyBytes_eq]; exact Reports.length_keyBytes k

theorem gainOf_byte (g : Gain) :
    gainOf (BitVec.ofNat 8 (match g with | .g1 => 0 | .g2 => 1 | .g4 => 2 | .g8 => 3)).toNat = some g := by
  cases g <;> rfl

theorem oversampleOf_byte (o : Oversample) :
    oversampleOf (BitVec.ofNat 8 (match o with | .n1 => 1 | .n2 => 2 | .n4 => 4 | .n8 => 8 | .n16 => 16)).toNat = some o := by
  cases o <;> rfl

theorem readTrigger_layout {k : Key} (inRange : KeyInRange k) (rest : List Byte) :
    readTrigger (keyLayout k ++ rest) = some k.trigger := by
  obtain ⟨channel, gain, settle, oversample, trigger, delay, urgent⟩ := k
  cases trigger with
  | demand => rfl
  | periodic period =>
    obtain ⟨low, high⟩ : 4 ≤ period ∧ period ≤ 65535 := inRange.2
    have word : word16At (keyLayout ⟨channel, gain, settle, oversample, .periodic period, delay, urgent⟩ ++ rest) 8 = period :=
      word_of_two (by omega)
    have kind : byteAt (keyLayout ⟨channel, gain, settle, oversample, .periodic period, delay, urgent⟩ ++ rest) 4 = 1 := rfl
    simp only [readTrigger, kind, word, low, if_true]
  | line input edge divider =>
    obtain ⟨low, high⟩ : 1 ≤ divider ∧ divider ≤ 16 := inRange.2
    have kind : byteAt (keyLayout ⟨channel, gain, settle, oversample, .line input edge divider, delay, urgent⟩ ++ rest) 4 = 0 := rfl
    have inputByte : byteAt (keyLayout ⟨channel, gain, settle, oversample, .line input edge divider, delay, urgent⟩ ++ rest) 5 =
        input.val := toNat_byte (by omega)
    have edgeByte : edgeSelectOf
        (byteAt (keyLayout ⟨channel, gain, settle, oversample, .line input edge divider, delay, urgent⟩ ++ rest) 6) = some edge := by
      cases edge <;> rfl
    have dividerByte : byteAt (keyLayout ⟨channel, gain, settle, oversample, .line input edge divider, delay, urgent⟩ ++ rest) 7 =
        divider := toNat_byte (by omega)
    simp [readTrigger, kind, edgeByte, dividerByte, inputByte, low, high]

theorem readKey_layout {k : Key} (inRange : KeyInRange k) (rest : List Byte) : readKey (keyLayout k ++ rest) = some k := by
  have trigger := readTrigger_layout inRange rest
  have delayBound := inRange.1
  have channelByte : byteAt (keyLayout k ++ rest) 0 = k.channel.val := toNat_byte (by omega)
  have settleByte : byteAt (keyLayout k ++ rest) 2 = k.settle.val := toNat_byte (by omega)
  have gainByte : gainOf (byteAt (keyLayout k ++ rest) 1) = some k.gain := gainOf_byte k.gain
  have oversampleByte : oversampleOf (byteAt (keyLayout k ++ rest) 3) = some k.oversample := oversampleOf_byte k.oversample
  have delayWord : word16At (keyLayout k ++ rest) 10 = k.delay := by
    rw [← keyBytes_eq]
    unfold keyBytes triggerBytes
    split <;> exact word_of_two (by omega)
  have urgentByte : flagOf (byteAt (keyLayout k ++ rest) 12) = some k.urgent := by
    rw [← keyBytes_eq]
    unfold keyBytes triggerBytes
    split <;> exact flagOf_byte k.urgent
  simp [readKey, gainByte, oversampleByte, trigger, urgentByte, delayWord, channelByte, settleByte, delayBound]

theorem readDefine_layout {k : Key} {c : Conditioning} (keyInRange : KeyInRange k) (inRange : ConditioningInRange c) :
    readDefine (keyLayout k ++ conditioningLayout c) = some { key := k, conditioning := c } := by
  have conditioning : readConditioning (keyLayout k ++ conditioningLayout c) 13 = some c := by
    have shifted := readConditioning_shift (keyLayout k) (conditioningLayout c) 0
    have shifted' := readConditioning_shift [0] (conditioningLayout c) 0
    rw [length_keyLayout] at shifted
    rw [shifted, ← shifted']
    exact readConditioning_layout inRange 0
  simp [readDefine, readKey_layout keyInRange, conditioning]

/-! ### Monitors, comparators and windows -/

/-- A CREATE MONITOR body as R204 lays it out. -/
def monitorBody (f : MonitorFields) : List Byte :=
  [BitVec.ofNat 8 f.point.val] ++ two f.low ++ two f.high ++ two f.hysteresis ++ [BitVec.ofNat 8 f.qualify] ++
    (match f.action with
      | .none => [0, 0]
      | .follow l => [1, BitVec.ofNat 8 l.val]
      | .latch l => [2, BitVec.ofNat 8 l.val]) ++
    [if f.broadcast then 1 else 0]

theorem readMonitor_layout {f : MonitorFields} (low : f.low ≤ 65535) (high : f.high ≤ 65535) (hysteresis : f.hysteresis ≤ 4095)
    (positive : 1 ≤ f.qualify) (qualify : f.qualify ≤ 8) (window : f.low + 2 * f.hysteresis ≤ f.high) :
    readMonitor (monitorBody f) = some f := by
  generalize hbody : monitorBody f = body
  obtain ⟨point, lo, hi, h, q, action, broadcast⟩ := f
  dsimp only at low high hysteresis positive qualify window
  have pointByte : pointIndexOf (byteAt body 0) = some point := by
    have byte : byteAt body 0 = point.val := by rw [← hbody]; exact toNat_byte (by omega)
    rw [byte]
    exact Reports.pointIndexOf_of_lt point.isLt
  have words : word16At body 1 = lo ∧ word16At body 3 = hi ∧ word16At body 5 = h ∧ byteAt body 7 = q := by
    rw [← hbody]
    exact ⟨word_of_two (n := lo) (by omega), word_of_two (n := hi) (by omega), word_of_two (n := h) (by omega),
      toNat_byte (n := q) (by omega)⟩
  have actionBytes : readAction body = some action := by
    have lineByte : ∀ l : LineIdx, lineIndexOf (BitVec.ofNat 8 l.val).toNat = some l := by decide
    rw [← hbody]
    cases action with
    | none => rfl
    | follow l => exact congrArg (Option.map MonitorAction.follow) (lineByte l)
    | latch l => exact congrArg (Option.map MonitorAction.latch) (lineByte l)
  have broadcastByte : (byteAt body 10 % 2 == 1) = broadcast := by
    rw [← hbody]
    cases action <;> cases broadcast <;> rfl
  have room : lo + h + h ≤ hi := by omega
  simp [readMonitor, pointByte, actionBytes, words, broadcastByte, hysteresis, positive, qualify, room]

theorem readSetTrip_layout (f : SetTripFields) :
    readSetTrip [BitVec.ofNat 8 f.comparator.val, BitVec.ofNat 8 f.config.input.val, BitVec.ofNat 8 f.config.step.val,
      (match f.config.polarity with | .above => 0 | .below => 1),
      (match f.config.filter with | .f0 => 0 | .f1 => 1 | .f4 => 2 | .f16 => 3),
      f.config.mask.setWidth 8, if f.enable then 1 else 0] = some f := by
  obtain ⟨k, ⟨input, step, polarity, filter, mask⟩, enable⟩ := f
  generalize hbody : [BitVec.ofNat 8 k.val, BitVec.ofNat 8 input.val, BitVec.ofNat 8 step.val,
    (match polarity with | .above => 0 | .below => 1), (match filter with | .f0 => 0 | .f1 => 1 | .f4 => 2 | .f16 => 3),
    mask.setWidth 8, if enable then (1 : Byte) else 0] = body
  have index : comparatorIndexOf (byteAt body 0) = some k := by
    have each : ∀ k : TripIdx, comparatorIndexOf (BitVec.ofNat 8 k.val).toNat = some k := by decide
    rw [← hbody]
    exact each k
  have inputByte : byteAt body 1 = input.val := by rw [← hbody]; exact toNat_byte (by omega)
  have stepByte : byteAt body 2 = step.val := by rw [← hbody]; exact toNat_byte (by omega)
  have polarityByte : polarityOf (byteAt body 3) = some polarity := by rw [← hbody]; cases polarity <;> rfl
  have filterByte : tripFilterOf (byteAt body 4) = some filter := by rw [← hbody]; cases filter <;> rfl
  have maskByte : lineMaskOf (byteAt body 5) = some mask := by rw [← hbody]; exact lineMaskOf_byte mask
  have enableByte : flagOf (byteAt body 6) = some enable := by rw [← hbody]; exact flagOf_byte enable
  simp [readSetTrip, index, inputByte, stepByte, polarityByte, filterByte, maskByte, enableByte]

theorem readReadResults_layout {f : ReadResultsFields} (positive : 1 ≤ f.k) (few : f.k ≤ 15) :
    readReadResults [BitVec.ofNat 8 f.k, if f.ack.isSome then 1 else 0, f.ack.getD 0] = some f := by
  obtain ⟨k, ack⟩ := f
  generalize hbody : [BitVec.ofNat 8 k, if ack.isSome then (1 : Byte) else 0, ack.getD 0] = body
  have count : byteAt body 0 = k := by rw [← hbody]; exact toNat_byte (by dsimp only at few; omega)
  have kind : flagOf (byteAt body 1) = some ack.isSome := by rw [← hbody]; exact flagOf_byte _
  have token : (if ack.isSome then some (BitVec.ofNat 8 (byteAt body 2)) else none) = ack := by
    rw [← hbody]
    cases ack with
    | none => rfl
    | some token => exact congrArg some (by simp [byteAt])
  have inRange : 1 ≤ k ∧ k ≤ 15 := ⟨positive, few⟩
  simp only [readReadResults, kind, count, Option.bind_eq_bind, Option.bind_some, if_pos inRange, token]

theorem readOrphan_layout (f : OrphanFields) : readOrphan [BitVec.ofNat 8 f.port.val, f.mask.setWidth 8] = some f := by
  obtain ⟨port, mask⟩ := f
  have portByte : portOf (byteAt [BitVec.ofNat 8 port.val, mask.setWidth 8] 0) = some port := by
    have index : ∀ p : Port, portOf (BitVec.ofNat 8 p.val).toNat = some p := by decide
    exact index port
  have maskByte : lineMaskOf (byteAt [BitVec.ofNat 8 port.val, mask.setWidth 8] 1) = some mask := lineMaskOf_byte mask
  simp [readOrphan, portByte, maskByte]

/-- Settles O19. -/
theorem requestBodiesReadBack : Obligations.RequestBodiesReadBack :=
  ⟨fun _ _ keyInRange inRange => readDefine_layout keyInRange inRange,
   fun _ _ inRange => readConditioning_layout inRange _,
   fun _ low high hysteresis positive qualify window => readMonitor_layout low high hysteresis positive qualify window,
   fun f => readSetTrip_layout f, fun _ positive few => readReadResults_layout positive few, fun f => readOrphan_layout f⟩

end Sys2Proof.RequestBodies
end

section
/-!
PROOFS. What arrives at the result rings and the event queues, and READ EVENTS (chapter 6).
-/

namespace Sys2Proof.RingsAndQueues

open Sys2Proof.Machine Sys2Proof.Statement Sys2Proof.Safety

/-! ### Records arrive (R105 to R107) -/

section Arrival

variable {r : Ring} (x : Record)

theorem ringArrive_room (room : r.window.length + r.unsent.length < 64) : ringArrive r x = ringStore r x :=
  if_pos room

theorem ringArrive_keepOldest (full : r.window.length + r.unsent.length = 64) (policy : r.policy = .keepOldest) :
    ringArrive r x = ringCountLoss r := by
  have noRoom : ¬ringFill r < Config.ringCapacity := by simp only [ringFill, full, Config.ringCapacity]; omega
  simp only [ringArrive, if_neg noRoom, policy]

theorem ringArrive_keepNewest (full : r.window.length + r.unsent.length = 64) (policy : r.policy = .keepNewest) :
    ringArrive r x = ringStore (ringCountLoss { r with unsent := r.unsent.tail }) x := by
  have noRoom : ¬ringFill r < Config.ringCapacity := by simp only [ringFill, full, Config.ringCapacity]; omega
  simp only [ringArrive, if_neg noRoom, policy]

/-- The unsent region grows by one record where the ring has room, and keeps its length where it is full. -/
theorem length_unsent_ringArrive (bounds : RingBounds r) :
    (ringArrive r x).unsent.length = r.unsent.length + (if r.window.length + r.unsent.length < 64 then 1 else 0) := by
  obtain ⟨fill, window, -, -⟩ := bounds
  by_cases room : r.window.length + r.unsent.length < 64
  · simp [ringArrive_room x room, ringStore, room]
  · have full : r.window.length + r.unsent.length = 64 := by omega
    cases policy : r.policy with
    | keepOldest => simp [ringArrive_keepOldest x full policy, ringCountLoss, room]
    | keepNewest =>
      simp only [ringArrive_keepNewest x full policy, ringStore, ringCountLoss, List.length_append, List.length_tail,
        List.length_singleton, if_neg room]
      omega

theorem watermark_ringArrive (r : Ring) (x : Record) : (ringArrive r x).watermark = r.watermark := by
  unfold ringArrive
  split
  · rfl
  · split <;> rfl

end Arrival

theorem deliverRecord_attached {p : Port} (x : Record) {s : State} (attached : s.attached p = true) :
    deliverRecord p x s = s.setRing p (ringArrive (s.ring p) x) := if_pos attached

theorem deliverRecord_detached {p : Port} (x : Record) {s : State} (detached : s.attached p = false) :
    deliverRecord p x s = s := by
  simp only [deliverRecord, detached, Bool.false_eq_true, if_false]

theorem alertAsserted_iff (s : State) (p : Port) :
    s.alertAsserted p = true ↔
      s.attached p = true ∧ ((s.ring p).watermark ≤ (s.ring p).unsent.length ∨ (s.queue p).events ≠ []) := by
  simp only [State.alertAsserted, State.ringCondition, State.eventCondition, Bool.or_eq_true, Bool.and_eq_true,
    decide_eq_true_eq, Bool.not_eq_true', List.isEmpty_eq_false_iff, ← and_or_left]

/-- Settles O37: by the room at the ring, and its policy where there is none. -/
theorem recordArrivesAtARing : Obligations.RecordArrivesAtARing := by
  intro r x bounds lost total
  refine ⟨ringArrive_room x, ringArrive_keepOldest x, fun full policy => ?_, fun p s here => ⟨?_, ?_⟩⟩
  · obtain ⟨oldest, rest, unsent⟩ : ∃ oldest rest, r.unsent = oldest :: rest :=
      List.exists_cons_of_ne_nil fun empty => by
        have window := bounds.2.1
        rw [empty, List.length_nil] at full
        omega
    refine ⟨oldest, rest, unsent, ?_⟩
    rw [ringArrive_keepNewest x full policy, unsent]
    rfl
  · intro attached
    have delivered : deliverRecord p x s = s.setRing p (ringArrive r x) := by
      rw [deliverRecord_attached x attached, here]
    refine ⟨delivered, ?_⟩
    rw [delivered, alertAsserted_iff, ring_setRing, queue_setRing, attached_setRing, watermark_ringArrive,
      length_unsent_ringArrive x bounds]
    exact and_iff_right attached
  · intro detached
    rw [deliverRecord_detached x detached]
    refine ⟨rfl, Bool.eq_false_iff.mpr fun alert => ?_⟩
    exact Bool.eq_false_iff.mp detached ((alertAsserted_iff s p).mp alert).1

/-! ### Events are offered (R118 to R122) -/

theorem queuePut_room {q : EventQueue} (room : q.events.length < 16) (e : Event) :
    queuePut q e = { q with events := q.events ++ [e] } := if_pos room

theorem queuePut_full {q : EventQueue} (full : ¬q.events.length < 16) (e : Event) :
    queuePut q e = { q with lost := min (q.lost + 1) 255 } := if_neg full

/-- A queue to which an event has been offered holds one. -/
theorem events_queuePut_ne_nil (q : EventQueue) (e : Event) : (queuePut q e).events ≠ [] := by
  by_cases room : q.events.length < 16
  · simp [queuePut_room room]
  · rw [queuePut_full room]
    intro empty
    simp only at empty
    simp [empty] at room

/-- Settles O41: by the port's session and the room in its queue. -/
theorem eventIsOfferedToEachQueue : Obligations.EventIsOfferedToEachQueue := by
  intro kind subject value dest s t e
  have only : OnlyQueues s t := formEvent_only ..
  refine ⟨only, fun q => ?_⟩
  have queue : t.queue q = if dest q = true ∧ s.attached q = true then queuePut (s.queue q) e else s.queue q :=
    queue_formEvent ..
  have alert : t.alertAsserted q = true ↔
      s.attached q = true ∧ ((s.ring q).watermark ≤ (s.ring q).unsent.length ∨ (t.queue q).events ≠ []) := by
    rw [alertAsserted_iff, only.attached, only.ring]
  by_cases offers : dest q = true ∧ s.attached q = true
  · rw [if_pos offers] at queue ⊢
    have asserted : t.alertAsserted q = true :=
      alert.mpr ⟨offers.2, .inr (queue ▸ events_queuePut_ne_nil (s.queue q) e)⟩
    split
    · next room => exact ⟨queue.trans (queuePut_room room e), asserted⟩
    · next full => exact ⟨queue.trans (queuePut_full full e), asserted⟩
  · rw [if_neg offers] at queue ⊢
    exact ⟨queue, Bool.eq_iff_iff.mpr (by rw [alert, queue, alertAsserted_iff])⟩

/-! ### READ EVENTS (R121) -/

section ReadEvents

variable {p : Port} {maximum : Byte} {s : State}

theorem serveReadEvents_badField (outOfRange : maximum.toNat = 0 ∨ 16 < maximum.toNat) :
    serveReadEvents p [maximum] s = (s, refusal .badField) := by
  have noFields : readReadEvents [maximum] = none := if_neg fun inRange => by
    have : 1 ≤ maximum.toNat ∧ maximum.toNat ≤ 16 := inRange
    omega
  simp only [serveReadEvents, noFields]

theorem serveReadEvents_takes (inRange : ¬(maximum.toNat = 0 ∨ 16 < maximum.toNat)) :
    serveReadEvents p [maximum] s =
      (s.setQueue p { events := (s.queue p).events.drop maximum.toNat, lost := 0 },
       okAnswer ([BitVec.ofNat 8 (min maximum.toNat (s.queue p).events.length), BitVec.ofNat 8 (s.queue p).lost,
           BitVec.ofNat 8 ((s.queue p).events.length - maximum.toNat)] ++
         ((s.queue p).events.take maximum.toNat).flatMap eventLayout)) := by
  have fields : readReadEvents [maximum] = some maximum.toNat :=
    if_pos (show 1 ≤ maximum.toNat ∧ maximum.toNat ≤ 16 by omega)
  simp only [serveReadEvents, fields, byteOf, List.length_take, List.length_drop,
    funext eventBytes_eq]

end ReadEvents

theorem exec_readEvents {p : Port} {tag maximum : Byte} {s t : State} {a : Answer} (asks : Asks p tag 0x32 [maximum] s)
    (served : serveReadEvents p [maximum] (atOwner p s) = (t, a)) :
    exec (.readEvents p tag [maximum]) s = .next (answered p tag 0x32 [maximum] a t) :=
  ResultRing.frameRow_served .readEvents asks rfl served

/-- Settles O40: by the range of the maximum. -/
theorem readEventsTakesTheOldest : Obligations.ReadEventsTakesTheOldest := by
  intro p tag maximum s asks q n
  split
  · next outOfRange => exact exec_readEvents asks (serveReadEvents_badField outOfRange)
  · next inRange => exact exec_readEvents asks (serveReadEvents_takes inRange)

end Sys2Proof.RingsAndQueues
end

section
/-!
PROOFS. The trip comparators (8.4): the holder, the configuration, the clearing and the firing of a comparator.
-/

namespace Sys2Proof.TripComparators

open Sys2Proof.Machine Sys2Proof.Statement Sys2Proof.Safety

/-! ### TAKE TRIP and GIVE TRIP (R165, R167) -/

theorem comparatorIndexOf_of_lt {n : Nat} (h : n < 2) : comparatorIndexOf n = some ⟨n, h⟩ := dif_pos h

theorem comparatorIndexOf_eq_none {n : Nat} (h : ¬n < 2) : comparatorIndexOf n = none := dif_neg h

section Holder

variable {p q : Port} {index : Byte} {s : State} {k : TripIdx}

theorem serveTakeTrip_badField (outOfRange : ¬index.toNat < 2) : serveTakeTrip p [index] s = (s, refusal .badField) := by
  have noIndex : comparatorIndexOf (byteAt [index] 0) = none := comparatorIndexOf_eq_none outOfRange
  simp only [serveTakeTrip, noIndex]

theorem serveTakeTrip_unheld (named : comparatorIndexOf index.toNat = some k) (unheld : (s.comparator k).holder = none) :
    serveTakeTrip p [index] s =
      (s.setComparator k { s.comparator k with holder := some p }, okAnswer [BitVec.ofNat 8 p.val]) := by
  have named' : comparatorIndexOf (byteAt [index] 0) = some k := named
  simp only [serveTakeTrip, named', unheld]
  rfl

theorem serveTakeTrip_held (named : comparatorIndexOf index.toNat = some k) (held : (s.comparator k).holder = some q) :
    serveTakeTrip p [index] s =
      (s, { status := if q = p then .ok else .heldByOther, body := [BitVec.ofNat 8 q.val] }) := by
  have named' : comparatorIndexOf (byteAt [index] 0) = some k := named
  simp only [serveTakeTrip, named', held]
  by_cases own : q = p
  · simp only [if_pos own]; rfl
  · simp only [if_neg own]; rfl

theorem serveGiveTrip_badField (outOfRange : ¬index.toNat < 2) : serveGiveTrip p [index] s = (s, refusal .badField) := by
  have noIndex : comparatorIndexOf (byteAt [index] 0) = none := comparatorIndexOf_eq_none outOfRange
  simp only [serveGiveTrip, noIndex]

theorem serveGiveTrip_own (named : comparatorIndexOf index.toNat = some k) (own : (s.comparator k).holder = some p) :
    serveGiveTrip p [index] s = (s.setComparator k { s.comparator k with holder := none }, okAnswer []) := by
  have named' : comparatorIndexOf (byteAt [index] 0) = some k := named
  simp only [serveGiveTrip, named', if_pos own]
  rfl

theorem serveGiveTrip_notHolder (named : comparatorIndexOf index.toNat = some k)
    (other : (s.comparator k).holder ≠ some p) : serveGiveTrip p [index] s = (s, refusal .notHolder) := by
  have named' : comparatorIndexOf (byteAt [index] 0) = some k := named
  simp only [serveGiveTrip, named', if_neg other]

end Holder

theorem exec_takeTrip {p : Port} {tag index : Byte} {s t : State} {a : Answer} (asks : Asks p tag 0x60 [index] s)
    (served : serveTakeTrip p [index] (atOwner p s) = (t, a)) :
    exec (.takeTrip p tag [index]) s = .next (answered p tag 0x60 [index] a t) :=
  ResultRing.frameRow_served .takeTrip asks rfl served

theorem exec_giveTrip {p : Port} {tag index : Byte} {s t : State} {a : Answer} (asks : Asks p tag 0x62 [index] s)
    (served : serveGiveTrip p [index] (atOwner p s) = (t, a)) :
    exec (.giveTrip p tag [index]) s = .next (answered p tag 0x62 [index] a t) :=
  ResultRing.frameRow_served .giveTrip asks rfl served

/-- Settles O49: by the comparator's holder. -/
theorem takeAndGiveTripMoveTheHolder : Obligations.TakeAndGiveTripMoveTheHolder := by
  intro p tag index s
  constructor
  · intro asks c
    split
    · next h =>
      intro k
      have named := comparatorIndexOf_of_lt h
      split
      · next unheld => exact exec_takeTrip asks (serveTakeTrip_unheld named unheld)
      · next q held => exact exec_takeTrip asks (serveTakeTrip_held named held)
    · next outOfRange => exact exec_takeTrip asks (serveTakeTrip_badField outOfRange)
  · intro asks c
    split
    · next h =>
      intro k
      have named := comparatorIndexOf_of_lt h
      split
      · next own => exact exec_giveTrip asks (serveGiveTrip_own named own)
      · next other => exact exec_giveTrip asks (serveGiveTrip_notHolder named other)
    · next outOfRange => exact exec_giveTrip asks (serveGiveTrip_badField outOfRange)

/-! ### SET TRIP (R166) -/

theorem polarityOf_known {b : Byte} (known : b.toNat < 2) :
    polarityOf b.toNat = some (if b = 0 then .above else .below) := by
  revert b; decide

theorem tripFilterOf_known {b : Byte} (known : b.toNat < 4) :
    tripFilterOf b.toNat = some (if b = 0 then .f0 else if b = 1 then .f1 else if b = 2 then .f4 else .f16) := by
  revert b; decide

theorem polarityOf_eq_none {n : Nat} (unknown : ¬n < 2) : polarityOf n = none := by
  unfold polarityOf
  split
  · omega
  · omega
  · rfl

theorem tripFilterOf_eq_none {n : Nat} (unknown : ¬n < 4) : tripFilterOf n = none := by
  unfold tripFilterOf
  split
  · omega
  · omega
  · omega
  · omega
  · rfl

section Fields

variable {index input ladder polarity filter mask enable : Byte}

/-- Every field of a SET TRIP body is in its range (R166, R204). -/
abbrev TripFieldsInRange (index input ladder polarity filter mask enable : Byte) : Prop :=
  index.toNat < 2 ∧ input.toNat < 16 ∧ ladder.toNat < 64 ∧ polarity.toNat < 2 ∧ filter.toNat < 4 ∧ mask.toNat < 16 ∧
    enable.toNat < 2

theorem readSetTrip_inRange (h : TripFieldsInRange index input ladder polarity filter mask enable) :
    readSetTrip [index, input, ladder, polarity, filter, mask, enable] =
      some { comparator := ⟨index.toNat, h.1⟩, enable := decide (enable = 1),
             config := { input := ⟨input.toNat, h.2.1⟩, step := ⟨ladder.toNat, h.2.2.1⟩,
                         polarity := if polarity = 0 then .above else .below,
                         filter := if filter = 0 then .f0 else if filter = 1 then .f1 else if filter = 2 then .f4 else .f16,
                         mask := mask.setWidth 4 } } := by
  obtain ⟨hk, hi, hs, hp, hf, hm, he⟩ := h
  have bytes : comparatorIndexOf (byteAt [index, input, ladder, polarity, filter, mask, enable] 0) = some ⟨index.toNat, hk⟩ ∧
      polarityOf (byteAt [index, input, ladder, polarity, filter, mask, enable] 3) = _ ∧
      tripFilterOf (byteAt [index, input, ladder, polarity, filter, mask, enable] 4) = _ ∧
      lineMaskOf (byteAt [index, input, ladder, polarity, filter, mask, enable] 5) = some (mask.setWidth 4) ∧
      flagOf (byteAt [index, input, ladder, polarity, filter, mask, enable] 6) = _ :=
    ⟨comparatorIndexOf_of_lt hk, polarityOf_known hp, tripFilterOf_known hf, if_pos hm,
     ResultRing.flagOf_known (Nat.le_of_lt_succ he)⟩
  obtain ⟨hk', hp', hf', hm', he'⟩ := bytes
  have hi' : byteAt [index, input, ladder, polarity, filter, mask, enable] 1 < 16 := hi
  have hs' : byteAt [index, input, ladder, polarity, filter, mask, enable] 2 < 64 := hs
  simp only [readSetTrip, hk', hp', hf', hm', he', Option.bind_eq_bind, Option.bind_some, dif_pos hi', dif_pos hs']
  rfl

theorem readSetTrip_outOfRange (h : ¬TripFieldsInRange index input ladder polarity filter mask enable) :
    readSetTrip [index, input, ladder, polarity, filter, mask, enable] = none := by
  refine Option.eq_none_iff_forall_ne_some.mpr fun f read => h ?_
  simp only [readSetTrip, Option.bind_eq_bind, Option.bind_eq_some_iff] at read
  obtain ⟨k, hk, pol, hp, fil, hf, msk, hm, en, he, rest⟩ := read
  split at rest
  · next hi =>
    split at rest
    · next hs =>
      refine ⟨?_, hi, hs, ?_, ?_, ?_, ?_⟩
      · exact by_contra fun out => nomatch (comparatorIndexOf_eq_none out).symm.trans hk
      · exact by_contra fun out => nomatch (polarityOf_eq_none out).symm.trans hp
      · exact by_contra fun out => nomatch (tripFilterOf_eq_none out).symm.trans hf
      · exact by_contra fun out => nomatch (show lineMaskOf _ = none from if_neg out).symm.trans hm
      · exact by_contra fun out =>
          nomatch ((DefinePoint.flagOf_eq_none _).mpr (Nat.lt_of_succ_le (Nat.not_lt.mp out))).symm.trans he
    · cases rest
  · cases rest

end Fields

section Configure

variable {p : Port} {body : List Byte} {f : SetTripFields} {s : State}

theorem serveSetTrip_badField (fields : readSetTrip body = none) : serveSetTrip p body s = (s, refusal .badField) := by
  simp only [serveSetTrip, fields]

theorem serveSetTrip_notHolder (fields : readSetTrip body = some f)
    (other : (s.comparator f.comparator).holder ≠ some p) : serveSetTrip p body s = (s, refusal .notHolder) := by
  simp only [serveSetTrip, fields, if_neg other]

theorem serveSetTrip_latched (fields : readSetTrip body = some f) (own : (s.comparator f.comparator).holder = some p)
    (fired : (s.comparator f.comparator).state = .fired) : serveSetTrip p body s = (s, refusal .tripLatched) := by
  simp only [serveSetTrip, fields, if_pos own, if_pos fired]

theorem serveSetTrip_sets (fields : readSetTrip body = some f) (own : (s.comparator f.comparator).holder = some p)
    (calm : (s.comparator f.comparator).state ≠ .fired) :
    serveSetTrip p body s =
      (s.setComparator f.comparator (configured f.config f.enable (s.comparator f.comparator)),
       okAnswer [if f.enable then 1 else 0]) := by
  simp only [serveSetTrip, fields, if_pos own, if_neg calm, State.modComparator, comparator_setComparator, configured]
  cases f.enable <;> rfl

end Configure

theorem exec_setTrip {p : Port} {tag index input ladder polarity filter mask enable : Byte} {s t : State} {a : Answer}
    (asks : Asks p tag 0x61 [index, input, ladder, polarity, filter, mask, enable] s)
    (served : serveSetTrip p [index, input, ladder, polarity, filter, mask, enable] (atOwner p s) = (t, a)) :
    exec (.setTrip p tag [index, input, ladder, polarity, filter, mask, enable]) s =
      .next (answered p tag 0x61 [index, input, ladder, polarity, filter, mask, enable] a t) :=
  ResultRing.frameRow_served .setTrip asks rfl served

/-- Settles O50: the fields, the holder and the comparator's state, in this order. -/
theorem setTripConfiguresTheComparator : Obligations.SetTripConfiguresTheComparator := by
  intro p tag index input ladder polarity filter mask enable s body asks c
  split
  · next h =>
    intro k
    have fields := readSetTrip_inRange h
    split
    · next other => exact exec_setTrip asks (serveSetTrip_notHolder fields other)
    · next own =>
      have own' := not_not.mp own
      split
      · next fired => exact exec_setTrip asks (serveSetTrip_latched fields own' fired)
      · next calm =>
        refine (exec_setTrip asks (serveSetTrip_sets fields own' calm)).trans ?_
        simp only [configured, decide_eq_true_eq]
        rfl
  · next h => exact exec_setTrip asks (serveSetTrip_badField (readSetTrip_outOfRange h))

/-! ### Claims that follow an event (R164, R168) -/

section AfterNotice

variable {mask : LineMask} {c : Claimant} {first : List Event} {s t u : State}

/-- `t` is `s` but that the events `first` have been offered to every queue, and that comparators have changed. -/
def Noticed (first : List Event) (s t : State) : Prop :=
  t = { s with comparators := t.comparators, queues := t.queues } ∧ ∀ q : Port, t.queue q = offered s q first

theorem noticed_formEventForAll {k : TripIdx} (kind : EventKind) (subject value : Nat) (v : Comparator) (s : State) :
    Noticed [eventNow s kind subject value] s (formEventForAll kind subject value (s.setComparator k v)) := by
  constructor
  · have only := formEventForAll_only kind subject value (s.setComparator k v)
    generalize formEventForAll kind subject value (s.setComparator k v) = t at only ⊢
    rw [only]
    rfl
  · intro q
    rw [queue_formEventForAll]
    rfl

theorem Noticed.line (h : Noticed first s t) (l : LineIdx) : t.line l = s.line l := by rw [h.1]; rfl

theorem Noticed.attached (h : Noticed first s t) (q : Port) : t.attached q = s.attached q := by rw [h.1]; rfl

theorem Noticed.assertedEvents (h : Noticed first s t) (mask : LineMask) : assertedEvents t mask = assertedEvents s mask := by
  rw [h.1]; rfl

theorem Noticed.releasedEvents (h : Noticed first s t) (mask : LineMask) (c : Claimant) :
    releasedEvents t mask c = releasedEvents s mask c := by
  rw [h.1]; rfl

/-- The line events of an addition come after the events that were offered before it. -/
theorem Noticed.claimsAdded (h : Noticed first s t) (added : ClaimsAdded mask c [] t u) : ClaimsAdded mask c first s u := by
  obtain ⟨sets, queues⟩ := added
  refine ⟨fun l k => by rw [sets, h.line], fun q => ?_⟩
  rw [queues, List.nil_append, h.assertedEvents, LineClaims.offered_after (h.attached q) (h.2 q)]

/-- The line events of a removal come after the events that were offered before it. -/
theorem Noticed.claimsRemoved (h : Noticed first s t) (removed : ClaimsRemoved mask c [] t u) :
    ClaimsRemoved mask c first s u := by
  obtain ⟨sets, queues⟩ := removed
  refine ⟨fun l k => by rw [sets, h.line], fun q => ?_⟩
  rw [queues, List.nil_append, h.releasedEvents, LineClaims.offered_after (h.attached q) (h.2 q)]

end AfterNotice

/-! ### CLEAR TRIP (R168) -/

theorem comparator_clearComparator (k j : TripIdx) (s : State) :
    (clearComparator k s).comparator j =
      if j = k then { s.comparator k with state := .watching, run := 0, claimed := 0 } else s.comparator j := by
  unfold clearComparator State.modComparator
  simp only [comparator_setComparator_eq, comparator_removeClaims, comparator_formEventForAll, if_true]
  split <;> rfl

theorem clearComparator_claimsRemoved (k : TripIdx) (s : State) :
    ClaimsRemoved (s.comparator k).claimed (.trip k) [eventNow s .tripCleared k.val 0] s (clearComparator k s) :=
  (noticed_formEventForAll (k := k) .tripCleared k.val 0 _ s).claimsRemoved (LineClaims.removeClaims_claimsRemoved _ _ _)

/-- The lines that hold TRIP k are the claimed lines of comparator k. -/
theorem heldIn_claimed {s : State} (h : ClaimLaws s) (k : TripIdx) :
    heldIn s (s.comparator k).claimed (.trip k) = (s.comparator k).claimed := by
  have holding : s.linesHolding (.trip k) = (s.comparator k).claimed := by
    refine BitVec.eq_of_getLsbD_eq fun i lt => ?_
    rw [State.linesHolding, InhibitLines.getLsbD_maskOfLines _ ⟨i, lt⟩]
    exact ((ClaimLawsKept.claimLaws_iff.mp h).2 k).1 ⟨i, lt⟩
  rw [heldIn, holding, BitVec.and_self]

section ClearTrip

variable {p : Port} {index : Byte} {s : State} {k : TripIdx}

theorem serveClearTrip_badField (outOfRange : ¬index.toNat < 2) :
    serveClearTrip p [index] s = (s, refusal .badField) := by
  have noIndex : comparatorIndexOf (byteAt [index] 0) = none := comparatorIndexOf_eq_none outOfRange
  simp only [serveClearTrip, noIndex]

theorem serveClearTrip_notFired (named : comparatorIndexOf index.toNat = some k)
    (calm : (s.comparator k).state ≠ .fired) : serveClearTrip p [index] s = (s, refusal .notFired) := by
  have named' : comparatorIndexOf (byteAt [index] 0) = some k := named
  simp only [serveClearTrip, named', if_neg calm]

theorem serveClearTrip_stillActive (named : comparatorIndexOf index.toNat = some k)
    (fired : (s.comparator k).state = .fired) (beyond : (s.comparator k).beyond = true) :
    serveClearTrip p [index] s = (s, refusal .stillActive) := by
  have named' : comparatorIndexOf (byteAt [index] 0) = some k := named
  simp only [serveClearTrip, named', if_pos fired, if_pos beyond]

theorem serveClearTrip_clears (h : ClaimLaws s) (named : comparatorIndexOf index.toNat = some k)
    (fired : (s.comparator k).state = .fired) (safe : ¬(s.comparator k).beyond = true) :
    serveClearTrip p [index] s = (clearComparator k s, okAnswer [(s.comparator k).claimed.setWidth 8]) := by
  have named' : comparatorIndexOf (byteAt [index] 0) = some k := named
  simp only [serveClearTrip, named', if_pos fired, if_neg safe, heldIn_claimed h, InhibitLines.maskByte_eq]

end ClearTrip

theorem exec_clearTrip {p : Port} {tag index : Byte} {s t : State} {a : Answer} (asks : Asks p tag 0x63 [index] s)
    (served : serveClearTrip p [index] (atOwner p s) = (t, a)) :
    exec (.clearTrip p tag [index]) s = .next (answered p tag 0x63 [index] a t) :=
  ResultRing.frameRow_served .clearTrip asks rfl served

/-- Settles O51: by the comparator's state and its present output. -/
theorem clearTripReleasesTheClaimedLines : Obligations.ClearTripReleasesTheClaimedLines := by
  intro p tag index s asks laws c
  split
  · next h =>
    intro k x
    have named := comparatorIndexOf_of_lt h
    have lawsHere : ClaimLaws (atOwner p s) := ClaimLawsKept.claimLaws_same laws rfl rfl rfl
    split
    · next calm => exact exec_clearTrip asks (serveClearTrip_notFired named calm)
    · next fired =>
      have fired' := not_not.mp fired
      split
      · next beyond => exact exec_clearTrip asks (serveClearTrip_stillActive named fired' beyond)
      · next safe =>
        exact ⟨_, exec_clearTrip asks (serveClearTrip_clears lawsHere named fired' safe),
          clearComparator_only k (atOwner p s), fun j => comparator_clearComparator k j (atOwner p s),
          ClaimRemoval.claimsRemoved_of_atOwner (clearComparator_claimsRemoved k (atOwner p s))⟩
  · next h => exact exec_clearTrip asks (serveClearTrip_badField h)

/-! ### Samples and firings (R162 to R164) -/

theorem comparator_fireComparator (k j : TripIdx) (s : State) :
    (fireComparator k s).comparator j =
      if j = k then
        { s.comparator k with state := .fired, run := 0, claimed := (s.comparator k).config.mask }
      else s.comparator j := by
  unfold fireComparator State.modComparator
  simp only [comparator_setComparator_eq, comparator_addClaims, comparator_formEventForAll, if_true]
  split <;> rfl

theorem fireComparator_claimsAdded (k : TripIdx) (s : State) :
    ClaimsAdded (s.comparator k).config.mask (.trip k) [eventNow s .tripFired k.val 0] s (fireComparator k s) :=
  (noticed_formEventForAll (k := k) .tripFired k.val 0 _ s).claimsAdded (LineClaims.addClaims_claimsAdded _ _ _)

/-- A firing at a sample is a firing of the comparator whose present output follows that sample. -/
theorem fires_fireComparator (k : TripIdx) (s : State) :
    Fires k s (fireComparator k (s.setComparator k { s.comparator k with beyond := true })) := by
  generalize here : s.setComparator k { s.comparator k with beyond := true } = u
  have comparator : ∀ j, u.comparator j = if j = k then { s.comparator k with beyond := true } else s.comparator j :=
    fun j => by rw [← here, comparator_setComparator_eq]
  have own : u.comparator k = { s.comparator k with beyond := true } := (comparator k).trans (if_pos rfl)
  refine ⟨?_, fun j => ?_, ?_⟩
  · have only := fireComparator_only k u
    generalize fireComparator k u = t at only ⊢
    rw [only, ← here]
    rfl
  · rw [comparator_fireComparator, own, comparator]
    split <;> rfl
  · have added := fireComparator_claimsAdded k u
    rw [own] at added
    rw [← here] at added ⊢
    exact added

/-- One sample of a comparator, by its state, the output and the run (R162, R163). -/
theorem samples_takeSample (k : TripIdx) (output : Bool) (s : State) :
    Samples k output s (.next (takeSample k output s)) := by
  unfold Samples
  intro x
  have completes : runCompletes k s = (x.state == .watching && x.run + 1 == fireCount x.config) := by
    rw [runCompletes, ← filterSamples_eq]
  have counted (h : (runCompletes k s && output) = false) :
      takeSample k output s = s.setComparator k (sampled output x) := takeSample_counts h
  refine ⟨fun calm => ?_, fun watching safe => ?_, fun watching beyond short => ?_, fun watching beyond full => ?_⟩
  · rw [counted (by simp [completes, calm])]
    cases state : x.state with
    | watching => exact absurd state calm
    | off => simp only [sampled, state]
    | fired => simp only [sampled, state]
  · subst safe
    rw [counted (Bool.and_false _)]
    simp [sampled, watching]
  · subst beyond
    rw [counted (by simp [completes, short])]
    simp [sampled, watching]
  · subst beyond
    refine ⟨_, rfl, ?_⟩
    rw [takeSample_fires (by simp [completes, watching, full])]
    exact fires_fireComparator k s

/-- Settles O52: each of the two commands is a sample with its own output. -/
theorem comparatorFiresAfterItsFilter : Obligations.ComparatorFiresAfterItsFilter := by
  intro k input s released x completes
  constructor
  · have output : outputOf k input.near (s.driveAin x.config.input input.level) = outputAt k x.config input.level input.near := by
      simp only [outputOf, sampleOutput_eq]
      exact congrArg (outputAt k x.config · input.near) (Vector.getElem_set_self _)
    have run : exec (.comparatorSample k input) s =
        .next (takeSample k (outputAt k x.config input.level input.near) (s.driveAin x.config.input input.level)) := by
      rw [← output]
      simp only [exec, execComparatorSample]
      rw [LinkCommands.whenReleased_released _ released]
    rw [run]
    exact samples_takeSample k _ (s.driveAin x.config.input input.level)
  · have output : outputOf k (runCompletes k s || Config.nearOutput s.draws k) s =
        outputAt k x.config s.pins.ain[x.config.input] (completes || Config.nearOutput s.draws k) := by
      rw [outputOf, sampleOutput_eq, runCompletes, filterSamples_eq]
    have run : exec (.tripFiring k) s =
        .next (takeSample k (outputAt k x.config s.pins.ain[x.config.input] (completes || Config.nearOutput s.draws k)) s) := by
      rw [← output]
      simp only [exec, execTripFiring]
      rw [LinkCommands.whenReleased_released _ released]
    rw [run]
    exact samples_takeSample k _ s

end Sys2Proof.TripComparators
end

section
/-!
PROOFS. The deletion of a monitor: its held claim becomes a HOST claim of its creator, the line stays asserted and no
event is formed (R141, R142).
-/

namespace Sys2Proof.MonitorDeletion

open Sys2Proof.Machine Sys2Proof.Statement Sys2Proof.Safety

/-! ### Claims on a line that stays asserted -/

/-- A claimant enters an asserted line without an event. -/
theorem addClaim_of_asserted {l : LineIdx} {s : State} (c : Claimant) (asserted : s.lineAsserted l = true) :
    addClaim l c s = s.setLine l ((s.line l).set (claimantIndex c) true) := by
  unfold addClaim
  cases stands : s.claims l c with
  | true =>
    have same : (s.line l).set (claimantIndex c) true = s.line l := by
      rw [← show (s.line l)[claimantIndex c] = true from stands]
      exact Vector.set_getElem_self _
    rw [same, setLine_line]
    rfl
  | false => simp only [Bool.false_eq_true, if_false, asserted, if_true]

/-- A claimant leaves a line that another holds without an event. -/
theorem removeClaim_of_other {l : LineIdx} {s : State} {c d : Claimant} (other : d ≠ c) (stands : s.claims l d = true) :
    removeClaim l c s = s.setLine l ((s.line l).set (claimantIndex c) false) := by
  unfold removeClaim
  cases own : s.claims l c with
  | false =>
    have same : (s.line l).set (claimantIndex c) false = s.line l := by
      rw [← show (s.line l)[claimantIndex c] = false from own]
      exact Vector.set_getElem_self _
    rw [same, setLine_line]
    rfl
  | true =>
    have asserted : (s.setLine l ((s.line l).set (claimantIndex c) false)).lineAsserted l = true := by
      have elsewhere : (claimantIndex c).val ≠ (claimantIndex d).val := fun same =>
        other (claimantIndex_injective (Fin.ext same)).symm
      rw [State.lineAsserted, line_setLine]
      refine (claimAsserted_iff _).mpr ⟨claimantIndex d, ?_⟩
      exact (Vector.getElem_set_ne _ _ elsewhere).trans stands
    simp only [if_true, asserted]

/-! ### The deletion -/

/-- The claim set of a line on which the claim of monitor k becomes a HOST claim of port p. -/
def converted (p : Port) (k : MonitorIdx) (set : ClaimSet) : ClaimSet :=
  (set.set (claimantIndex (.host p)) true).set (claimantIndex (.monitor k)) false

section Deletion

variable {k : MonitorIdx} {m : Monitor} {s : State} {l : LineIdx}

theorem deleteMonitor_claimless (entry : s.monitor k = some m) (claimless : heldLine m = none) :
    deleteMonitor k s = s.setMonitor k none := by
  simp only [deleteMonitor, entry, claimless]

theorem deleteMonitor_holding (entry : s.monitor k = some m) (held : heldLine m = some l)
    (stands : s.claims l (.monitor k) = true) :
    deleteMonitor k s = (s.setLine l (converted m.creator k (s.line l))).setMonitor k none := by
  have asserted : s.lineAsserted l = true := (claimAsserted_iff _).mpr ⟨_, stands⟩
  have host : (addClaim l (.host m.creator) s).claims l (.host m.creator) = true := by
    rw [claims_addClaim]; simp
  have distinct : Claimant.host m.creator ≠ .monitor k := by simp
  simp only [deleteMonitor, entry, held]
  rw [removeClaim_of_other distinct host, addClaim_of_asserted _ asserted, line_setLine, setLine_setLine]
  rfl

theorem getElem_converted (p : Port) (k : MonitorIdx) (set : ClaimSet) (x : Fin 15) :
    (converted p k set)[x] =
      if x = claimantIndex (.host p) then true else if x = claimantIndex (.monitor k) then false else set[x] := by
  have distinct : claimantIndex (.host p) ≠ claimantIndex (.monitor k) := fun same =>
    absurd (claimantIndex_injective same) (by simp)
  simp only [converted, Fin.getElem_fin, Vector.getElem_set, Fin.val_inj, eq_comm (a := claimantIndex _) (b := x)]
  split
  · next mon => rw [if_neg (fun host => distinct (host.symm.trans mon))]
  · rfl

/-- Under the claim laws a monitor that is in use is deleted without an event. -/
theorem deleteMonitor_claims (laws : ClaimLaws s) (entry : s.monitor k = some m) :
    deleteMonitor k s = { s with monitors := (deleteMonitor k s).monitors, lines := (deleteMonitor k s).lines } ∧
    ∀ l : LineIdx, (deleteMonitor k s).line l =
      if heldLine m = some l then converted m.creator k (s.line l) else s.line l := by
  cases held : heldLine m with
  | none =>
    rw [deleteMonitor_claimless entry held]
    exact ⟨rfl, fun l => by simp⟩
  | some l =>
    have stands : s.claims l (.monitor k) = true := (laws.2.1 k l).mpr (by rw [entry]; exact held)
    rw [deleteMonitor_holding entry held stands]
    refine ⟨rfl, fun j => ?_⟩
    rw [line_setMonitor, line_setLine_eq]
    by_cases here : j = l
    · simp [here]
    · simp [here, Ne.symm here]

theorem lineAsserted_deleteMonitor (laws : ClaimLaws s) (entry : s.monitor k = some m) (l : LineIdx) :
    (deleteMonitor k s).lineAsserted l = s.lineAsserted l := by
  rw [State.lineAsserted, (deleteMonitor_claims laws entry).2 l]
  split
  · next held =>
    have stands : s.claims l (.monitor k) = true := (laws.2.1 k l).mpr (by rw [entry]; exact held)
    have before : s.lineAsserted l = true := (claimAsserted_iff _).mpr ⟨_, stands⟩
    rw [before]
    exact (claimAsserted_iff _).mpr ⟨claimantIndex (.host m.creator), by rw [getElem_converted, if_pos rfl]⟩
  · rfl

end Deletion

/-! ### DELETE MONITOR (R140) -/

section Request

variable {p : Port} {tag index : Byte} {s t : State} {k : MonitorIdx} {m : Monitor}

theorem serveDeleteMonitor_refused {e : Status} (checks : createdMonitor p [index] s = .error e) :
    serveDeleteMonitor p [index] s = (s, refusal e) := by
  simp only [serveDeleteMonitor, checks]

theorem serveDeleteMonitor_deletes (checks : createdMonitor p [index] s = .ok (k, m)) :
    serveDeleteMonitor p [index] s = (deleteMonitor k s, okAnswer (claimOutcome (heldLine m))) := by
  simp only [serveDeleteMonitor, checks]

theorem exec_deleteMonitor {a : Answer} (asks : Asks p tag 0x41 [index] s)
    (served : serveDeleteMonitor p [index] (atOwner p s) = (t, a)) :
    exec (.deleteMonitor p tag [index]) s = .next (answered p tag 0x41 [index] a t) :=
  ResultRing.frameRow_served .deleteMonitor asks rfl served

end Request

/-- Settles O43: the shared checks, then the line of the held claim. -/
theorem deleteMonitorConvertsItsClaim : Obligations.DeleteMonitorConvertsItsClaim := by
  intro p tag index s asks laws c
  refine ⟨fun outOfRange => ?_, fun k named => ⟨fun free => ?_, fun m entry => ⟨fun other => ?_, fun own => ?_⟩⟩⟩
  · exact exec_deleteMonitor asks (serveDeleteMonitor_refused (LimitMonitors.createdMonitor_badField outOfRange))
  · have checks := LimitMonitors.createdMonitor_noSuchMonitor (p := p) (s := atOwner p s) named free
    exact exec_deleteMonitor asks (serveDeleteMonitor_refused checks)
  · have checks := LimitMonitors.createdMonitor_notCreator (s := atOwner p s) named entry other
    exact exec_deleteMonitor asks (serveDeleteMonitor_refused checks)
  · have checks := LimitMonitors.createdMonitor_ok (s := atOwner p s) named entry own
    have lawsHere : ClaimLaws (atOwner p s) := ClaimLawsKept.claimLaws_same laws rfl rfl rfl
    have entryHere : (atOwner p s).monitor k = some m := entry
    obtain ⟨only, lines⟩ := deleteMonitor_claims lawsHere entryHere
    refine ⟨deleteMonitor k (atOwner p s), ?_, only, fun j => ?_, fun l x => ?_,
      fun l => lineAsserted_deleteMonitor lawsHere entryHere l⟩
    · refine (exec_deleteMonitor asks (serveDeleteMonitor_deletes checks)).trans ?_
      cases heldLine m <;> rfl
    · rw [monitor_deleteMonitor, monitor_atOwner]
    · rw [lines, line_atOwner, own]
      by_cases held : heldLine m = some l
      · simp only [held, if_true, true_and, getElem_converted]
      · simp only [held, if_false, false_and]

end Sys2Proof.MonitorDeletion
end

section
/-!
PROOFS. The requests on behalf of a subscriber: their checks in order (R16, R24), and the one slot that PAUSE, RESUME and
SET CONDITIONING change (R22 to R24).
-/

namespace Sys2Proof.SubscriberRequests

open Sys2Proof.Machine Sys2Proof.Statement

/-! ### The checks (R16) -/

section Checks

variable {p : Port} {body : List Byte} {s : State} {i : PointIdx}

theorem pointIndexOf_named (named : byteAt body 0 = i.val) : pointIndexOf (byteAt body 0) = some i := by
  rw [named]; exact Reports.pointIndexOf_of_lt i.isLt

theorem subscribedPoint_badField (outOfRange : 31 < byteAt body 0) : subscribedPoint p body s = .error .badField := by
  simp only [subscribedPoint, (LimitMonitors.pointIndexOf_eq_none _).mpr outOfRange]

theorem subscribedPoint_noSuchPoint (named : byteAt body 0 = i.val)
    (dead : (s.point i).state = .free ∨ (s.point i).state = .retiring) :
    subscribedPoint p body s = .error .noSuchPoint := by
  have notLive := (LimitMonitors.live_eq_false_iff (s.point i)).mpr dead
  simp only [subscribedPoint, pointIndexOf_named named, notLive, Bool.false_eq_true, if_false]

theorem live_of_state (notFree : (s.point i).state ≠ .free) (notRetiring : (s.point i).state ≠ .retiring) :
    live (s.point i) = true := by
  simp [live, notFree, notRetiring]

theorem subscribedPoint_notSubscribed (named : byteAt body 0 = i.val) (alive : live (s.point i) = true)
    (other : p ∉ (s.point i).subscribers) : subscribedPoint p body s = .error .notSubscribed := by
  simp only [subscribedPoint, pointIndexOf_named named, alive, if_true, if_neg other]

theorem subscribedPoint_ok (named : byteAt body 0 = i.val) (alive : live (s.point i) = true)
    (subscribed : p ∈ (s.point i).subscribers) : subscribedPoint p body s = .ok i := by
  simp only [subscribedPoint, pointIndexOf_named named, alive, if_true, if_pos subscribed]

end Checks

/-! ### The four requests -/

section Requests

variable {p : Port} {tag code : Byte} {body : List Byte} {s : State} {c : Instr} {e : Status}

/-- A check that fails is answered with its status, once the conditioning fields of SET CONDITIONING are in range. -/
theorem subscriberRequest_refused (request : SubscriberRequest c p tag code body) (asks : Asks p tag code body s)
    (fields : code = 0x14 → readConditioning body 1 ≠ none) (checks : subscribedPoint p body (atOwner p s) = .error e) :
    Refuses c p tag code body e s := by
  rcases request with ⟨rfl, rfl, length⟩ | ⟨rfl, rfl, length⟩ | ⟨rfl, rfl, length⟩ | ⟨rfl, rfl, length⟩
  · have served : serveLeavePoint p body (atOwner p s) = (atOwner p s, refusal e) := by simp only [serveLeavePoint, checks]
    exact ResultRing.frameRow_served .leavePoint asks length served
  · have served : servePause p body (atOwner p s) = (atOwner p s, refusal e) := by simp only [servePause, checks]
    exact ResultRing.frameRow_served .pauseSubscription asks length served
  · have served : serveResume p body (atOwner p s) = (atOwner p s, refusal e) := by simp only [serveResume, checks]
    exact ResultRing.frameRow_served .resumeSubscription asks length served
  · have served : serveSetConditioning p body (atOwner p s) = (atOwner p s, refusal e) := by
      obtain ⟨conditioning, read⟩ := Option.ne_none_iff_exists'.mp (fields rfl)
      simp only [serveSetConditioning, read, checks]
    exact ResultRing.frameRow_served .setConditioning asks length served

theorem setConditioning_badField (length : body.length = 8) (asks : Asks p tag 0x14 body s)
    (fields : readConditioning body 1 = none) : Refuses (.setConditioning p tag body) p tag 0x14 body .badField s := by
  have served : serveSetConditioning p body (atOwner p s) = (atOwner p s, refusal .badField) := by
    simp only [serveSetConditioning, fields]
  exact ResultRing.frameRow_served .setConditioning asks length served

/-- The conditioning fields of SET CONDITIONING are read where they are in range, and only there. -/
theorem readConditioning_none_iff (body : List Byte) :
    readConditioning body 1 = none ↔ 15 < at8 body 5 ∨ at16 body 6 = 0 ∨ 256 < at16 body 6 :=
  DefinePoint.readConditioning_eq_none body 1

end Requests

/-- Settles O24: the fields, the entry and its list, in this order. -/
theorem subscriberRequestsAreChecked : Obligations.SubscriberRequestsAreChecked := by
  intro c p tag code body s request asks
  refine ⟨fun outOfRange => ?_, fun inRange i named => ?_⟩
  · by_cases fields : code = 0x14 ∧ readConditioning body 1 = none
    · obtain ⟨rfl, unread⟩ := fields
      rcases request with ⟨-, wrong, -⟩ | ⟨-, wrong, -⟩ | ⟨-, wrong, -⟩ | ⟨rfl, -, length⟩
      · exact absurd wrong (by decide)
      · exact absurd wrong (by decide)
      · exact absurd wrong (by decide)
      · exact setConditioning_badField length asks unread
    · have read : code = 0x14 → readConditioning body 1 ≠ none := fun conditioning unread => fields ⟨conditioning, unread⟩
      have index : 31 < byteAt body 0 := outOfRange.resolve_right fun ⟨conditioning, bad⟩ =>
        read conditioning ((readConditioning_none_iff body).mpr bad)
      exact subscriberRequest_refused request asks read (subscribedPoint_badField index)
  · have read : code = 0x14 → readConditioning body 1 ≠ none := fun conditioning unread =>
      inRange (.inr ⟨conditioning, (readConditioning_none_iff body).mp unread⟩)
    exact ⟨fun dead => subscriberRequest_refused request asks read (subscribedPoint_noSuchPoint named dead),
      fun notFree notRetiring other => subscriberRequest_refused request asks read
        (subscribedPoint_notSubscribed named (live_of_state (s := atOwner p s) notFree notRetiring) other)⟩

/-! ### One slot (R22 to R24) -/

section Slot

variable {p : Port} {i : PointIdx} {k : SlotIdx} {u : Subscription} {s : State}

theorem point_of_slotOf (found : slotOf s p i = some k) : (s.slot p k).map (·.point) = some i := by
  have here := List.find?_some found
  split at here
  · next u entry => rw [entry]; simpa using here
  · cases here

theorem slotOf_eq_some (sole : ∀ j : SlotIdx, (s.slot p j).map (·.point) = some i ↔ j = k) : slotOf s p i = some k := by
  cases found : slotOf s p i with
  | some j => rw [(sole j).mp (point_of_slotOf found)]
  | none =>
    have here := (sole k).mpr rfl
    have absent := List.find?_eq_none.mp found k (List.mem_finRange k)
    obtain ⟨u, entry, point⟩ := Option.map_eq_some_iff.mp here
    simp [entry, point] at absent

theorem modSubscription_eq (sole : ∀ j : SlotIdx, (s.slot p j).map (·.point) = some i ↔ j = k)
    (entry : s.slot p k = some u) (f : Subscription → Subscription) :
    modSubscription p i f s = s.setSlot p k (some (f u)) := by
  simp only [modSubscription, slotOf_eq_some sole, entry, Option.map_some]

end Slot

/-- Settles O26: each request changes the one slot that holds the subscription. -/
theorem pauseResumeAndConditioningActOnOneSlot : Obligations.PauseResumeAndConditioningActOnOneSlot := by
  intro p tag i k u c s subscribes entry inRange index fields
  obtain ⟨alive, subscribed, sole⟩ := subscribes
  have soleHere : ∀ j : SlotIdx, ((atOwner p s).slot p j).map (·.point) = some i ↔ j = k := sole
  have entryHere : (atOwner p s).slot p k = some u := entry
  have change := modSubscription_eq soleHere entryHere
  have checks (body : List Byte) (named : byteAt body 0 = i.val) : subscribedPoint p body (atOwner p s) = .ok i :=
    subscribedPoint_ok named alive subscribed
  have indexByte : (BitVec.ofNat 8 i.val).toNat = i.val := RequestBodies.toNat_byte (by omega)
  refine ⟨fun asks => ?_, fun asks => ?_, fun asks => ?_⟩
  · have served : servePause p index (atOwner p s) =
        ((atOwner p s).setSlot p k (some { u with state := .paused }), okAnswer []) := by
      simp only [servePause, checks index indexByte, change]
    exact ResultRing.frameRow_served .pauseSubscription asks rfl served
  · have served : serveResume p index (atOwner p s) =
        ((atOwner p s).setSlot p k (some (resumed u)), okAnswer []) := by
      simp only [serveResume, checks index indexByte, change]
    exact (ResultRing.frameRow_served .resumeSubscription asks rfl served).trans rfl
  · have served : serveSetConditioning p fields (atOwner p s) =
        ((atOwner p s).setSlot p k (some { u with offset := c.offset, multiplier := c.multiplier, shift := c.shift,
                                                  decimation := c.decimation, counter := 0 }), okAnswer []) := by
      have named := checks (BitVec.ofNat 8 i.val :: conditioningLayout c) indexByte
      simp only [serveSetConditioning, fields, RequestBodies.readConditioning_layout inRange, named, change]
    exact ResultRing.frameRow_served .setConditioning asks rfl served

end Sys2Proof.SubscriberRequests
end

section
/-!
PROOFS. Triggers and enqueues (R35 to R39, R52, R64, R77): what a trigger does to its entry, where a DUE point joins, the
grant decision that follows an enqueue into an IDLE converter, and what it grants when nothing else waits.
-/

namespace Sys2Proof.Triggers

open Sys2Proof.Machine Sys2Proof.Statement

/-! ### An enqueue and the decision that follows it (R37, R52) -/

section Enqueue

variable (i : PointIdx) (s : State)

/-- Point `i` DUE at the tail of its queue, before any decision. -/
def madeDue (i : PointIdx) (s : State) : State :=
  enqueueDue i (s.modPoint i (fun e => { e with state := .due, delayTimer := none }))

theorem decideIfIdle_eq {s u : State} (converter : u.converter = s.converter) : decideIfIdle u = enqueuedThen s u := by
  unfold enqueuedThen
  by_cases idle : s.converter = none
  · rw [if_pos idle, decideIfIdle_decides (converter.trans idle)]
    rfl
  · rw [if_neg idle, decideIfIdle_waits (fun none => idle (converter.symm.trans none))]

theorem becomeDue_eq : becomeDue i s = enqueuedThen s (madeDue i s) := by
  have converter : (madeDue i s).converter = s.converter := enqueueDue_converter ..
  exact decideIfIdle_eq converter

theorem enqueuedThen_congr {s t : State} (u : State) (converter : t.converter = s.converter) :
    enqueuedThen t u = enqueuedThen s u := by
  unfold enqueuedThen
  rw [converter]

theorem urgentQueue_enqueueDue : (enqueueDue i s).urgentQueue = s.urgentQueue ++ urgentOf s [i] := by
  unfold enqueueDue
  by_cases urgent : (s.point i).key.urgent = true
  · rw [if_pos urgent]
    simp [urgentOf, urgent]
  · rw [if_neg urgent]
    have same : urgentOf s [i] = [] := by simp [urgentOf, urgent]
    rw [same, List.append_nil]
    split <;> rfl

theorem fifo_enqueueDue (q : Port) : (enqueueDue i s).fifo q = s.fifo q ++ pendingOf s q [i] := by
  unfold enqueueDue
  by_cases urgent : (s.point i).key.urgent = true
  · rw [if_pos urgent]
    simp [pendingOf, urgent, State.fifo]
  · rw [if_neg urgent]
    have pending : pendingOf s q [i] = if s.sponsor i = some q then [.point i] else [] := by
      by_cases own : s.sponsor i = some q
      · have own' : ((s.point i).subscribers.head? == some q) = true := by simpa [State.sponsor] using own
        simp [pendingOf, urgent, own, own']
      · have other : ((s.point i).subscribers.head? == some q) = false := by simpa [State.sponsor] using own
        simp [pendingOf, other, own]
    rw [pending]
    cases sponsor : s.sponsor i with
    | none => simp
    | some p =>
      simp only [enqueuePending, State.modFifo, fifo_setFifo_eq, Option.some.injEq]
      by_cases same : q = p
      · simp [same]
      · simp [same, Ne.symm same]

end Enqueue

/-! ### What a trigger does (R35, R41) -/

theorem urgentOf_setPoint {s : State} {i : PointIdx} {e : PointEntry} (urgent : e.key.urgent = (s.point i).key.urgent) :
    urgentOf (s.setPoint i e) [i] = urgentOf s [i] := by
  simp [urgentOf, List.filter_singleton, urgent]

theorem pendingOf_setPoint {s : State} {i : PointIdx} {e : PointEntry} (q : Port)
    (urgent : e.key.urgent = (s.point i).key.urgent) (subscribers : e.subscribers = (s.point i).subscribers) :
    pendingOf (s.setPoint i e) q [i] = pendingOf s q [i] := by
  simp [pendingOf, List.filter_singleton, urgent, subscribers]

/-- The state in which a trigger leaves the part, before a decision. -/
def triggeredAt (i : PointIdx) (s : State) : State :=
  if goesDue (s.point i) then madeDue i s else s.setPoint i (triggered (s.point i))

/-- `u` is `s` but that point `i` is entry `e`, at the tail of its queue where it has become DUE. -/
abbrev Enqueued (i : PointIdx) (e : PointEntry) (due : Bool) (s u : State) : Prop :=
  u = { s with points := u.points, urgentQueue := u.urgentQueue, fifos := u.fifos } ∧
  (∀ j : PointIdx, u.point j = if j = i then e else s.point j) ∧
  u.urgentQueue = s.urgentQueue ++ (if due then urgentOf s [i] else []) ∧
  (∀ q : Port, u.fifo q = s.fifo q ++ (if due then pendingOf s q [i] else []))

theorem madeDue_enqueued (i : PointIdx) (s : State) :
    Enqueued i { s.point i with state := .due, delayTimer := none } true s (madeDue i s) := by
  have only := enqueueDue_only i (s.modPoint i (fun e => { e with state := .due, delayTimer := none }))
  refine ⟨?_, fun j => ?_, ?_, fun q => ?_⟩
  · unfold madeDue
    generalize enqueueDue i _ = u at only ⊢
    rw [only]
    rfl
  · have points : (madeDue i s).point j = (s.modPoint i (fun e => { e with state := .due, delayTimer := none })).point j := by
      unfold madeDue
      generalize enqueueDue i _ = u at only ⊢
      rw [only]
      rfl
    rw [points, State.modPoint, point_setPoint_eq]
  · have urgent := urgentOf_setPoint (e := { s.point i with state := .due, delayTimer := none }) rfl
    exact (urgentQueue_enqueueDue ..).trans (congrArg (s.urgentQueue ++ ·) urgent)
  · have pending := pendingOf_setPoint (e := { s.point i with state := .due, delayTimer := none }) q rfl rfl
    exact (fifo_enqueueDue ..).trans (congrArg (s.fifo q ++ ·) pending)

theorem setPoint_enqueued (i : PointIdx) (e : PointEntry) (s : State) : Enqueued i e false s (s.setPoint i e) :=
  ⟨rfl, fun j => point_setPoint_eq s i j e, (List.append_nil _).symm, fun _ => (List.append_nil _).symm⟩

theorem goesDue_iff (e : PointEntry) : goesDue e = true ↔ e.state = .armed ∧ e.key.delay = 0 := by
  simp [goesDue]

theorem triggeredAt_enqueued (i : PointIdx) (s : State) :
    Enqueued i (triggered (s.point i)) (goesDue (s.point i)) s (triggeredAt i s) := by
  unfold triggeredAt
  cases due : goesDue (s.point i) with
  | false => exact setPoint_enqueued i _ s
  | true =>
    obtain ⟨armed, immediate⟩ := (goesDue_iff _).mp due
    have entry : triggered (s.point i) = { s.point i with state := .due, delayTimer := none } := by
      simp only [triggered, armed, immediate, if_true]
    rw [entry]
    exact madeDue_enqueued i s

/-- The four states in which a trigger is lost (R41). -/
abbrev Busy (e : PointEntry) : Prop :=
  e.state = .delaying ∨ e.state = .due ∨ e.state = .converting ∨ e.state = .suspended

theorem triggered_busy {e : PointEntry} (busy : Busy e) : triggered e = { e with missed := min (e.missed + 1) 255 } := by
  cases e
  dsimp only [Busy] at busy
  rcases busy with rfl | rfl | rfl | rfl
  · rfl
  · rfl
  · rfl
  · rfl

/-- A trigger in full: what it does to its entry, and the decision that follows the enqueue it brings (R35, R41). -/
theorem triggerPoint_eq (i : PointIdx) (s : State) :
    triggerPoint i s = if goesDue (s.point i) then enqueuedThen s (triggeredAt i s) else triggeredAt i s := by
  unfold triggeredAt
  cases due : goesDue (s.point i) with
  | true =>
    obtain ⟨armed, immediate⟩ := (goesDue_iff _).mp due
    simp only [triggerPoint, armed, takeTrigger, immediate, if_true, becomeDue_eq]
  | false =>
    simp only [Bool.false_eq_true, if_false]
    have lost (busy : Busy (s.point i)) (loses : triggerPoint i s = loseTrigger i s) :
        triggerPoint i s = s.setPoint i (triggered (s.point i)) :=
      loses.trans (congrArg (s.setPoint i) (triggered_busy busy).symm)
    cases state : (s.point i).state with
    | armed =>
      have delayed : (s.point i).key.delay ≠ 0 := fun immediate => by simp [goesDue, state, immediate] at due
      have entry : triggered (s.point i) = { s.point i with state := .delaying, delayTimer := some (s.point i).key.delay } := by
        simp only [triggered, state, if_neg delayed]
      simp only [triggerPoint, state, takeTrigger, if_neg delayed, entry]
      rfl
    | free => simp only [triggerPoint, triggered, state, setPoint_point]
    | retiring => simp only [triggerPoint, triggered, state, setPoint_point]
    | delaying => exact lost (.inl state) (by simp only [triggerPoint, state])
    | due => exact lost (.inr (.inl state)) (by simp only [triggerPoint, state])
    | converting => exact lost (.inr (.inr (.inl state))) (by simp only [triggerPoint, state])
    | suspended => exact lost (.inr (.inr (.inr state))) (by simp only [triggerPoint, state])

/-- A change of the countdown before a trigger. -/
theorem goesDue_countdown (e : PointEntry) (n : Option Nat) : goesDue { e with countdown := n } = goesDue e := rfl

/-- Where a point enters is a matter of its entry before and after, so a reload of its countdown may come first. -/
theorem Enqueued.of_setPoint {i : PointIdx} {e e' : PointEntry} {due : Bool} {s u : State}
    (urgent : e'.key.urgent = (s.point i).key.urgent) (subscribers : e'.subscribers = (s.point i).subscribers)
    (h : Enqueued i e due (s.setPoint i e') u) : Enqueued i e due s u := by
  obtain ⟨frame, points, urgentQueue, fifos⟩ := h
  refine ⟨frame, fun j => ?_, ?_, fun q => ?_⟩
  · rw [points, point_setPoint_eq]
    split <;> rfl
  · rw [urgentQueue, urgentOf_setPoint urgent]; rfl
  · rw [fifos, pendingOf_setPoint q urgent subscribers]; rfl

/-! ### Expiries (R36, R38) -/

section Expiries

variable {i : PointIdx} {s : State} {period : Nat}

theorem expired_iff (timer : Option Nat) : expired timer = true ↔ timer = some 0 := by simp [expired]

theorem periodicExpires_eq (kind : (s.point i).key.trigger = .periodic period) (alive : live (s.point i) = true)
    (zero : (s.point i).countdown = some 0) :
    periodicExpires i s =
      let u := triggeredAt i (s.setPoint i { s.point i with countdown := some (8 * period) })
      if goesDue (s.point i) then enqueuedThen s u else u := by
  have due : (live (s.point i) && expired (s.point i).countdown) = true := by simp [alive, (expired_iff _).mpr zero]
  simp only [periodicExpires, kind, due, if_true, triggerPoint_eq, State.modPoint, point_setPoint, goesDue_countdown,
    enqueuedThen_congr _ (converter_setPoint s i _)]

theorem periodicExpires_none
    (no : (∀ period, (s.point i).key.trigger ≠ .periodic period) ∨ live (s.point i) = false ∨
      (s.point i).countdown ≠ some 0) : periodicExpires i s = s := by
  unfold periodicExpires
  split
  · next period kind =>
    refine if_neg fun due => ?_
    rw [Bool.and_eq_true, expired_iff] at due
    obtain ⟨alive, zero⟩ := due
    rcases no with other | dead | running
    · exact other period kind
    · exact Bool.false_ne_true (dead.symm.trans alive)
    · exact running zero
  · rfl
  · rfl

theorem delayExpires_eq (delaying : (s.point i).state = .delaying) (zero : (s.point i).delayTimer = some 0) :
    delayExpires i s = enqueuedThen s (madeDue i s) := by
  rw [← becomeDue_eq]
  exact if_pos ⟨delaying, (expired_iff _).mpr zero⟩

theorem delayExpires_none (no : (s.point i).state ≠ .delaying ∨ (s.point i).delayTimer ≠ some 0) :
    delayExpires i s = s :=
  if_neg fun due => no.elim (fun other => other due.1) (fun running => running ((expired_iff _).mp due.2))

theorem exec_periodicExpiry (released : s.resetLow = false) :
    exec (.periodicExpiry i) s = .next (periodicExpires i s) := LinkCommands.whenReleased_released _ released

theorem exec_delayExpiry (released : s.resetLow = false) :
    exec (.delayExpiry i) s = .next (delayExpires i s) := LinkCommands.whenReleased_released _ released

end Expiries

/-- Settles O29: an expiry that occurs is a trigger or makes its point DUE, and any other has no effect. -/
theorem expiriesTriggerAndEnqueue : Obligations.ExpiriesTriggerAndEnqueue := by
  intro i s released e
  refine ⟨fun period kind alive zero => ?_, fun no => ?_, fun delaying zero => ?_, fun no => ?_⟩
  · refine ⟨triggeredAt i (s.setPoint i { e with countdown := some (8 * period) }), ?_, ?_⟩
    · rw [exec_periodicExpiry released, periodicExpires_eq kind alive zero]
    · have entered := triggeredAt_enqueued i (s.setPoint i { e with countdown := some (8 * period) })
      rw [point_setPoint] at entered
      exact Enqueued.of_setPoint (e' := { e with countdown := some (8 * period) }) rfl rfl entered
  · rw [exec_periodicExpiry released, periodicExpires_none no]
  · refine ⟨madeDue i s, ?_, madeDue_enqueued i s⟩
    rw [exec_delayExpiry released, delayExpires_eq delaying zero]
  · rw [exec_delayExpiry released, delayExpires_none no]

/-! ### The grant decision and the point table (R53, R55, R59) -/

theorem point_grantUrgent (i j : PointIdx) (rest : List PointIdx) (s : State) :
    (grantUrgent i rest s).point j = if j = i then { clearBurst (s.point i) with state := .converting } else s.point j := by
  obtain ⟨grants, starts, -⟩ := GrantDecision.grantUrgent_bills i rest s
  rw [starts, GrantDecision.point_startBurst]
  simp only [Subject.point.injEq, eq_comm (a := j)]
  split
  · next same => subst same; rfl
  · rfl

/-- A grant decision changes of an entry its state and its burst accumulator alone. -/
theorem missed_grantDecision (i : PointIdx) (s : State) : ((grantDecision s).point i).missed = (s.point i).missed := by
  have pending (p : Port) (t : State) : ((grantPending p t).point i).missed = (t.point i).missed := by
    cases waiting : t.fifo p with
    | nil => simp only [grantPending, waiting]
    | cons subject rest =>
      obtain ⟨⟨-, -, -, -, points, -⟩, -⟩ := GrantDecision.grantPending_granted waiting
      rw [points]; split <;> rfl
  unfold grantDecision
  split
  · rw [point_grantUrgent]
    split
    · next same => rw [same]; rfl
    · rfl
  · split
    · rw [GrantDecision.point_resumeBurst]; split <;> rfl
    · split
      · exact pending _ _
      · split
        · exact pending _ _
        · rfl

theorem missed_enqueuedThen (i : PointIdx) (s u : State) : ((enqueuedThen s u).point i).missed = (u.point i).missed := by
  unfold enqueuedThen
  split
  · exact missed_grantDecision i _
  · rfl

/-! ### SAMPLE NOW (R39) -/

section SampleNow

variable {p : Port} {tag index : Byte} {s t : State} {i : PointIdx}

theorem serveSampleNow_refused {e : Status} (checks : subscribedPoint p [index] s = .error e) :
    serveSampleNow p [index] s = (s, refusal e) := by
  simp only [serveSampleNow, checks]

theorem serveSampleNow_notDemand (checks : subscribedPoint p [index] s = .ok i)
    (other : (s.point i).key.trigger ≠ .demand) : serveSampleNow p [index] s = (s, refusal .notDemand) := by
  simp only [serveSampleNow, checks, if_neg other]

theorem serveSampleNow_triggers (checks : subscribedPoint p [index] s = .ok i)
    (demand : (s.point i).key.trigger = .demand) :
    serveSampleNow p [index] s =
      (triggerPoint i s,
       { status := if (s.point i).state = .armed then .ok else .triggerLost,
         body := [stateByte ((triggerPoint i s).point i).state, BitVec.ofNat 8 (triggered (s.point i)).missed] }) := by
  have missed : ((triggerPoint i s).point i).missed = (triggered (s.point i)).missed := by
    have entry : (triggeredAt i s).point i = triggered (s.point i) := by
      rw [(triggeredAt_enqueued i s).2.1, if_pos rfl]
    rw [triggerPoint_eq]
    split
    · rw [missed_enqueuedThen, entry]
    · rw [entry]
  simp only [serveSampleNow, checks, if_pos demand, sampleBody, pointStateCode_eq, missed, byteOf]

theorem exec_sampleNow {a : Answer} (asks : Asks p tag 0x17 [index] s)
    (served : serveSampleNow p [index] (atOwner p s) = (t, a)) :
    exec (.sampleNow p tag [index]) s = .next (answered p tag 0x17 [index] a t) :=
  ResultRing.frameRow_served .sampleNow asks rfl served

end SampleNow

/-- Settles O27: the checks in their order, and then one trigger. -/
theorem sampleNowTriggersADemandPoint : Obligations.SampleNowTriggersADemandPoint := by
  intro p tag index s asks c
  refine ⟨fun outOfRange => ?_, fun i named => ?_⟩
  · exact exec_sampleNow asks (serveSampleNow_refused (SubscriberRequests.subscribedPoint_badField outOfRange))
  · intro e
    have namedHere : byteAt [index] 0 = i.val := named
    split
    · next dead =>
      have checks := SubscriberRequests.subscribedPoint_noSuchPoint (p := p) (s := atOwner p s) namedHere dead
      exact exec_sampleNow asks (serveSampleNow_refused checks)
    · next alive =>
      have live : live ((atOwner p s).point i) = true :=
        SubscriberRequests.live_of_state (fun free => alive (.inl free)) (fun retiring => alive (.inr retiring))
      split
      · next other =>
        have checks := SubscriberRequests.subscribedPoint_notSubscribed (s := atOwner p s) namedHere live other
        exact exec_sampleNow asks (serveSampleNow_refused checks)
      · next subscribed =>
        have checks := SubscriberRequests.subscribedPoint_ok namedHere live (not_not.mp subscribed)
        split
        · next other => exact exec_sampleNow asks (serveSampleNow_notDemand checks other)
        · next demand =>
          have served := serveSampleNow_triggers checks (not_not.mp demand)
          rw [triggerPoint_eq, enqueuedThen_congr _ (converter_atOwner p s), point_atOwner] at served
          exact ⟨triggeredAt i (atOwner p s), exec_sampleNow asks served, triggeredAt_enqueued i (atOwner p s)⟩

/-! ### CALIBRATE (R77) -/

section Calibrate

variable {p : Port} {tag code : Byte} {s t : State} {g : Gain}

theorem gainOf_index (named : code.toNat = (gainIndex g).val) : gainOf (byteAt [code] 0) = some g := by
  have read : gainOf (gainIndex g).val = some g := by cases g <;> rfl
  rw [← read, ← named]
  rfl

theorem serveCalibrate_badField (outOfRange : 3 < code.toNat) : serveCalibrate p [code] s = (s, refusal .badField) := by
  have noGain : gainOf (byteAt [code] 0) = none := (DefinePoint.gainOf_eq_none _).mpr outOfRange
  simp only [serveCalibrate, noGain]

theorem serveCalibrate_busy (named : code.toNat = (gainIndex g).val) (busy : (s.job g).state ≠ .none) :
    serveCalibrate p [code] s = (s, refusal .calBusy) := by
  simp only [serveCalibrate, gainOf_index named, if_neg busy]

/-- The job of the gain QUEUED for port `p`, before any decision. -/
def jobQueued (p : Port) (g : Gain) (s : State) : State :=
  (s.setJob g { s.job g with state := .queued, requester := some p }).setFifo p (s.fifo p ++ [.job g])

theorem serveCalibrate_queues (named : code.toNat = (gainIndex g).val) (calm : (s.job g).state = .none) :
    serveCalibrate p [code] s = (enqueuedThen s (jobQueued p g s), okAnswer []) := by
  have queues : queueJob p g s = enqueuedThen s (jobQueued p g s) := decideIfIdle_eq (s := s) rfl
  simp only [serveCalibrate, gainOf_index named, if_pos calm, queues]

theorem exec_calibrate {a : Answer} (asks : Asks p tag 0x20 [code] s)
    (served : serveCalibrate p [code] (atOwner p s) = (t, a)) :
    exec (.calibrate p tag [code]) s = .next (answered p tag 0x20 [code] a t) :=
  ResultRing.frameRow_served .calibrate asks rfl served

theorem exec_calibrate_queues (asks : Asks p tag 0x20 [code] s) (named : code.toNat = (gainIndex g).val)
    (calm : (s.job g).state = .none) :
    exec (.calibrate p tag [code]) s =
      .next (answered p tag 0x20 [code] (okAnswer []) (enqueuedThen s (jobQueued p g (atOwner p s)))) := by
  have served := serveCalibrate_queues (p := p) (s := atOwner p s) named calm
  rw [enqueuedThen_congr _ (converter_atOwner p s)] at served
  exact exec_calibrate asks served

end Calibrate

/-- Settles O32: the gain code and the job's state decide. -/
theorem calibrateQueuesAJob : Obligations.CalibrateQueuesAJob := by
  intro p tag code s asks c
  refine ⟨fun outOfRange => exec_calibrate asks (serveCalibrate_badField outOfRange), fun g _ named =>
    ⟨fun busy => ?_, fun calm => exec_calibrate_queues asks named calm⟩⟩
  exact exec_calibrate asks (serveCalibrate_busy (s := atOwner p s) named busy)

/-! ### An enqueue that finds the converter IDLE and nothing waiting (R52 to R56) -/

theorem fifos_ext {s t : State} (h : ∀ q : Port, t.fifo q = s.fifo q) : t.fifos = s.fifos :=
  Vector.ext fun k lt => h ⟨k, lt⟩

theorem jobs_ext {s t : State} (h : ∀ g ∈ allGains, t.job g = s.job g) : t.jobs = s.jobs := by
  refine Vector.ext fun k lt => ?_
  have entry := h (gainOfIndex ⟨k, lt⟩) (by simp [allGains]; cases gainOfIndex ⟨k, lt⟩ <;> simp)
  simpa only [State.job, gainIndex_gainOfIndex, Fin.getElem_fin] using entry

/-- What the scheduler changes at a grant, beside the waiting places. -/
abbrev Scheduled (u t : State) : Prop :=
  t = { u with points := t.points, jobs := t.jobs, urgentGrants := t.urgentGrants, wheelGrants := t.wheelGrants,
               wheelPosition := t.wheelPosition, converter := t.converter, conversion := t.conversion,
               lastGain := t.lastGain }

theorem find_port (p : Port) : [0, 1, 2, 3].find? (fun q : Port => some p == some q) = some p := by revert p; decide

/-- The only entry of the pending FIFOs is granted by the scans, with the urgent queue and the suspended-burst slot empty. -/
theorem grantDecision_sole {p : Port} {subject : Subject} {s : State} (noUrgent : s.urgentQueue = [])
    (noSuspended : s.suspended = none) (fifos : ∀ q : Port, s.fifo q = if q = p then [subject] else []) :
    GrantedPending p subject [] s (grantDecision s) ∧ (grantDecision s).wheelPosition = positionAfter (some p) s := by
  have order := GrantDecision.grantDecisionOrder s
  have waits (q : Port) : (!(s.fifo q).isEmpty) = (some p == some q) := by
    rw [fifos]
    by_cases own : q = p
    · simp [own]
    · simp [own, Ne.symm own]
  have own : s.fifo p = [subject] := (fifos p).trans (if_pos rfl)
  simp only [noUrgent, noSuspended, waits] at order
  split at order
  · next k found =>
    have here : p = onWheel s.share k := by simpa using List.find?_some found
    obtain ⟨granted, position⟩ := order subject [] (here ▸ own)
    have after : positionAfter (some p) s = k := by rw [positionAfter, found]; rfl
    exact ⟨here ▸ granted, position.trans after.symm⟩
  · next none =>
    simp only [find_port p] at order
    obtain ⟨granted, position⟩ := order subject [] own
    have after : positionAfter (some p) s = s.wheelPosition := by rw [positionAfter, none]; rfl
    exact ⟨granted, position.trans after.symm⟩

theorem point_undue (s : State) (j : PointIdx) : { s with decisionDue := false }.point j = s.point j := rfl

theorem urgentGrant_undue (s : State) (q : Port) : { s with decisionDue := false }.urgentGrant q = s.urgentGrant q := rfl

theorem wheelGrant_undue (s : State) (q : Port) : { s with decisionDue := false }.wheelGrant q = s.wheelGrant q := rfl

theorem grantDecision_urgent {i : PointIdx} {rest : List PointIdx} {s : State} (waiting : s.urgentQueue = i :: rest) :
    let t := grantDecision s
    Begins { subject := .point i, burstClass := .urgent, length := oversampleCount (s.point i).key.oversample }
      (firstConversion (s.point i) s) t ∧
    t = { s with points := t.points, urgentQueue := rest, urgentGrants := t.urgentGrants, converter := t.converter,
                 conversion := t.conversion, lastGain := t.lastGain } ∧
    (∀ q : Port, t.urgentGrant q =
      if (s.point i).subscribers.head? = some q then s.urgentGrant q + 1 else s.urgentGrant q) ∧
    (∀ j : PointIdx, t.point j = if j = i then
      { s.point i with state := .converting, accumulator := 0, done := 0, stamp := none, satSoFar := false,
                       resumedSoFar := false } else s.point j) := by
  have order := GrantDecision.grantDecisionOrder s
  simp only [waiting] at order
  exact order

section Alone

variable {i : PointIdx} {e : PointEntry} {s u : State}

/-- What a grant leaves of a point that alone waits: the scheduler's own registers, and the entry granted. -/
abbrev PointGranted (i : PointIdx) (e : PointEntry) (s t : State) : Prop :=
  Scheduled s t ∧ t.jobs = s.jobs ∧ GrantedAlone i s t ∧
  (∀ j : PointIdx, t.point j = if j = i then granted e else s.point j)

theorem pendingOf_singleton (q : Port) :
    pendingOf s q [i] =
      if (s.point i).key.urgent = false ∧ (s.point i).subscribers.head? = some q then [.point i] else [] := by
  by_cases joins : (s.point i).key.urgent = false ∧ (s.point i).subscribers.head? = some q
  · simp [pendingOf, joins]
  · have drop : (!(s.point i).key.urgent && (s.point i).subscribers.head? == some q) = false := by simpa using joins
    simp [pendingOf, drop, joins]

theorem pointGranted_urgent (nothing : NothingWaits s) (urgent : (s.point i).key.urgent = true)
    (key : e.key = (s.point i).key) (subscribers : e.subscribers = (s.point i).subscribers)
    (entered : Enqueued i { e with state := .due, delayTimer := none } true s u) :
    PointGranted i e s (enqueuedThen s u) := by
  obtain ⟨idle, undue, noUrgent, noSuspended, noPending⟩ := nothing
  obtain ⟨frame, points, urgentQueue, fifos⟩ := entered
  have queue : u.urgentQueue = [i] := by rw [urgentQueue, noUrgent]; simp [urgentOf, urgent]
  have sameFifos : u.fifos = s.fifos := fifos_ext fun q => by rw [fifos, pendingOf_singleton]; simp [urgent]
  have order := grantDecision_urgent (s := { u with decisionDue := false }) queue
  have run : enqueuedThen s u = grantDecision { u with decisionDue := false } := if_pos idle
  rw [run]
  generalize grantDecision { u with decisionDue := false } = t at order ⊢
  obtain ⟨begins, only, billed, granted⟩ := order
  have own : u.point i = { e with state := .due, delayTimer := none } := by rw [points, if_pos rfl]
  have conversion : firstConversion (u.point i) { u with decisionDue := false } = firstConversion (s.point i) s := by
    rw [own, frame]
    simp only [firstConversion, key]
  have ownKey : (u.point i).key = (s.point i).key := by rw [own]; exact key
  have ownList : (u.point i).subscribers = (s.point i).subscribers := by rw [own]; exact subscribers
  have jobs : t.jobs = s.jobs := by rw [only, frame]
  have wheelGrants : t.wheelGrants = s.wheelGrants := by rw [only, frame]
  have wheelPosition : t.wheelPosition = s.wheelPosition := by rw [only, frame]
  have urgentGrant (q : Port) : u.urgentGrant q = s.urgentGrant q := by rw [frame]; rfl
  refine ⟨?_, jobs, ⟨?_, fun q => ?_, fun q => ?_, ?_⟩, fun j => ?_⟩
  · refine Eq.trans only ?_
    rw [jobs, wheelGrants, wheelPosition, sameFifos, frame, noUrgent, undue]
  · rw [← conversion, ← ownKey, classOf, if_pos urgent]
    exact begins
  · have billed' := billed q
    rw [point_undue, ownList, urgentGrant_undue, urgentGrant] at billed'
    rw [billed']
    by_cases sponsor : (s.point i).subscribers.head? = some q
    · simp only [sponsor, urgent, and_self, if_true]
    · simp only [sponsor, and_false, if_false]
      exact (BitVec.add_zero _).symm
  · rw [State.wheelGrant, wheelGrants]
    simp [urgent, State.wheelGrant]
  · rw [wheelPosition, if_pos urgent]
  · rw [granted, point_undue, point_undue, own, points]
    split <;> rfl

theorem pointGranted_pending (nothing : NothingWaits s) (background : (s.point i).key.urgent = false)
    (subscribed : (s.point i).subscribers ≠ []) (key : e.key = (s.point i).key)
    (entered : Enqueued i { e with state := .due, delayTimer := none } true s u) :
    PointGranted i e s (enqueuedThen s u) := by
  obtain ⟨idle, undue, noUrgent, noSuspended, noPending⟩ := nothing
  obtain ⟨frame, points, urgentQueue, fifos⟩ := entered
  obtain ⟨p, sponsor⟩ : ∃ p, (s.point i).subscribers.head? = some p := by
    obtain ⟨p, ps, list⟩ := List.exists_cons_of_ne_nil subscribed
    exact ⟨p, by rw [list]; rfl⟩
  have queue : u.urgentQueue = [] := by rw [urgentQueue, noUrgent]; simp [urgentOf, background]
  have slot : u.suspended = none := by rw [frame]; exact noSuspended
  have waiting (q : Port) : u.fifo q = if q = p then [.point i] else [] := by
    rw [fifos, noPending, pendingOf_singleton]
    simp [background, sponsor, eq_comm (a := p)]
  obtain ⟨granted, position⟩ := grantDecision_sole (s := { u with decisionDue := false }) queue slot waiting
  have run : enqueuedThen s u = grantDecision { u with decisionDue := false } := if_pos idle
  rw [run]
  generalize grantDecision { u with decisionDue := false } = t at granted position ⊢
  obtain ⟨begins, only, left, billed, taken, sameJobs⟩ := granted
  have own : u.point i = { e with state := .due, delayTimer := none } := by rw [points, if_pos rfl]
  have conversion : conversionOf (.point i) { u with decisionDue := false } = firstConversion (s.point i) s := by
    change firstConversion (u.point i) { u with decisionDue := false } = _
    rw [own, frame]
    simp only [firstConversion, key]
  have ownKey : (u.point i).key = (s.point i).key := by rw [own]; exact key
  have jobs : t.jobs = s.jobs := by
    have same : t.jobs = u.jobs := jobs_ext fun g among => sameJobs g among
    rw [same, frame]
  have fifos' : t.fifos = s.fifos := fifos_ext fun q => by
    rw [left q, noPending]
    split
    · rfl
    · next other => exact (waiting q).trans (if_neg other)
  have urgentGrants : t.urgentGrants = s.urgentGrants := by rw [only, frame]
  have wheelGrant (q : Port) : u.wheelGrant q = s.wheelGrant q := by rw [frame]; rfl
  refine ⟨?_, jobs, ⟨?_, fun q => ?_, fun q => ?_, ?_⟩, fun j => ?_⟩
  · refine Eq.trans only ?_
    rw [jobs, fifos', urgentGrants, queue, frame, noUrgent, undue]
  · rw [← conversion, ← ownKey, classOf, if_neg (by rw [background]; exact Bool.false_ne_true)]
    exact begins
  · rw [State.urgentGrant, urgentGrants]
    simp [background, State.urgentGrant]
  · have billed' := billed q
    rw [wheelGrant_undue, wheelGrant] at billed'
    rw [billed']
    simp only [sponsor, Option.some.injEq, eq_comm (a := p)]
    by_cases own : q = p
    · simp only [own, background, and_self, if_true]
    · simp only [own, and_false, if_false]
      exact (BitVec.add_zero _).symm
  · rw [position, if_neg (by rw [background]; exact Bool.false_ne_true), sponsor]
    unfold positionAfter
    rw [frame]
  · have entry := (taken j).trans (if_congr (Subject.point.injEq ..).to_iff rfl rfl)
    by_cases here : j = i
    · subst here
      rw [entry, if_pos rfl, if_pos rfl, point_undue, own]
      rfl
    · rw [entry, if_neg (Ne.symm here), if_neg here, point_undue, points, if_neg here]

/-- A point that alone waits is granted at once. -/
theorem pointGranted (nothing : NothingWaits s) (subscribed : (s.point i).subscribers ≠ [])
    (key : e.key = (s.point i).key) (subscribers : e.subscribers = (s.point i).subscribers)
    (entered : Enqueued i { e with state := .due, delayTimer := none } true s u) :
    PointGranted i e s (enqueuedThen s u) := by
  cases urgent : (s.point i).key.urgent with
  | true => exact pointGranted_urgent nothing urgent key subscribers entered
  | false => exact pointGranted_pending nothing urgent subscribed key entered

end Alone

/-- A job that alone waits is granted at once. -/
theorem jobGranted {p : Port} {g : Gain} {s : State} (nothing : NothingWaits s) (calm : (s.job g).state = .none) :
    let t := enqueuedThen s (jobQueued p g s)
    Scheduled s t ∧ t.points = s.points ∧ t.urgentGrants = s.urgentGrants ∧
    Begins { subject := .job g, burstClass := .background, length := 16 } (conversionOf (.job g) s) t ∧
    (∀ h ∈ allGains, t.job h = if h = g then
      { state := .running, requester := some p, done := 0, partialSum := 0 } else s.job h) ∧
    (∀ q : Port, t.wheelGrant q = s.wheelGrant q + (if q = p then 1 else 0)) ∧
    t.wheelPosition = positionAfter (some p) s := by
  obtain ⟨idle, undue, noUrgent, noSuspended, noPending⟩ := nothing
  have waiting (q : Port) : (jobQueued p g s).fifo q = if q = p then [.job g] else [] := by
    rw [jobQueued, fifo_setFifo_eq, noPending]
    split
    · rfl
    · exact noPending q
  obtain ⟨granted, position⟩ :=
    grantDecision_sole (s := { jobQueued p g s with decisionDue := false }) noUrgent noSuspended waiting
  have run : enqueuedThen s (jobQueued p g s) = grantDecision { jobQueued p g s with decisionDue := false } := if_pos idle
  rw [run]
  generalize grantDecision { jobQueued p g s with decisionDue := false } = t at granted position ⊢
  obtain ⟨begins, only, left, billed, taken, jobs⟩ := granted
  have points : t.points = s.points := Vector.ext fun k lt => by
    have entry := taken ⟨k, lt⟩
    rw [if_neg (by simp)] at entry
    exact entry
  have fifos : t.fifos = s.fifos := fifos_ext fun q => by
    rw [left q, noPending]
    split
    · rfl
    · next other => exact (waiting q).trans (if_neg other)
  have urgentGrants : t.urgentGrants = s.urgentGrants := by rw [only]; rfl
  refine ⟨?_, points, urgentGrants, begins, fun h among => ?_, fun q => ?_, position⟩
  · refine Eq.trans only ?_
    rw [fifos, points, urgentGrants, undue]
    rfl
  · have queued : (jobQueued p g s).job h = if h = g then { s.job g with state := .queued, requester := some p } else s.job h :=
      job_setJob_eq ..
    have entry := (jobs h among).trans (if_congr (Subject.job.injEq ..).to_iff rfl rfl)
    by_cases here : h = g
    · subst here
      rw [entry, if_pos rfl, if_pos rfl]
      change { (jobQueued p h s).job h with state := .running, done := 0, partialSum := 0 } = _
      rw [queued, if_pos rfl]
    · rw [entry, if_neg (Ne.symm here), if_neg here]
      exact queued.trans (if_neg here)
  · refine (billed q).trans ?_
    by_cases own : q = p
    · simp only [own, if_true]
      rfl
    · simp only [own, if_false]
      exact (BitVec.add_zero _).symm


/-- Settles O31: each of the four commands enqueues its point or job, which the decision that follows grants. -/
theorem enqueueIntoIdleConverterIsGranted : Obligations.EnqueueIntoIdleConverterIsGranted := by
  intro s nothing scheduled
  refine ⟨fun i subscribed => ?_, fun p tag g asks calm => ?_⟩
  · intro e holds
    refine ⟨fun released delaying zero => ?_, fun period released armed kind immediate zero => ?_,
      fun p tag asks armed demand immediate among => ?_⟩
    · refine ⟨enqueuedThen s (madeDue i s), ?_, pointGranted nothing subscribed rfl rfl (madeDue_enqueued i s)⟩
      rw [exec_delayExpiry released, delayExpires_eq delaying zero]
    · have due : goesDue e = true := (goesDue_iff e).mpr ⟨armed, immediate⟩
      have alive : live e = true := SubscriberRequests.live_of_state (by rw [armed]; decide) (by rw [armed]; decide)
      let u := s.setPoint i { e with countdown := some (8 * period) }
      have run : exec (.periodicExpiry i) s = .next (enqueuedThen s (triggeredAt i u)) := by
        rw [exec_periodicExpiry released, periodicExpires_eq kind alive zero]
        exact congrArg Host.Outcome.next (if_pos due)
      have entered : Enqueued i { e with countdown := some (8 * period), state := .due, delayTimer := none } true s
          (triggeredAt i u) := by
        have made := madeDue_enqueued i u
        have same : triggeredAt i u = madeDue i u := by
          rw [triggeredAt, point_setPoint, goesDue_countdown, due, if_pos rfl]
        rw [← same, point_setPoint] at made
        exact Enqueued.of_setPoint (e' := { e with countdown := some (8 * period) }) rfl rfl made
      exact ⟨_, run, pointGranted nothing subscribed rfl rfl entered⟩
    · have due : goesDue e = true := (goesDue_iff e).mpr ⟨armed, immediate⟩
      have named : byteAt [BitVec.ofNat 8 i.val] 0 = i.val := RequestBodies.toNat_byte (by omega)
      have alive : live ((atOwner p s).point i) = true :=
        SubscriberRequests.live_of_state (by rw [point_atOwner, armed]; decide) (by rw [point_atOwner, armed]; decide)
      have served := serveSampleNow_triggers (SubscriberRequests.subscribedPoint_ok named alive among) demand
      have same : triggeredAt i (atOwner p s) = madeDue i (atOwner p s) := by
        rw [triggeredAt, point_atOwner, due, if_pos rfl]
      rw [triggerPoint_eq, point_atOwner, due, if_pos rfl, same] at served
      have nothingHere : NothingWaits (atOwner p s) := nothing
      have granted := pointGranted nothingHere subscribed rfl rfl (madeDue_enqueued i (atOwner p s))
      have missed : (triggered e).missed = e.missed := by simp only [triggered, armed, immediate, if_true]
      have state : ((enqueuedThen (atOwner p s) (madeDue i (atOwner p s))).point i).state = .converting := by
        rw [granted.2.2.2 i, if_pos rfl]
        rfl
      rw [state, if_pos armed, missed] at served
      exact ⟨_, exec_sampleNow asks served, granted⟩
  · have named : (BitVec.ofNat 8 (gainIndex g).val).toNat = (gainIndex g).val := RequestBodies.toNat_byte (by omega)
    have nothingHere : NothingWaits (atOwner p s) := nothing
    have granted := jobGranted (p := p) nothingHere calm
    rw [enqueuedThen_congr _ (converter_atOwner p s)] at granted
    exact ⟨_, exec_calibrate_queues asks named calm, granted⟩

end Sys2Proof.Triggers
end

section
/-!
PROOFS. One CLK period: what it does to each clocked part (R31 to R33, R70, R162, R173), and the line of commands that comes
of it (R32, R175, R206).
-/

namespace Sys2Proof.ClkPeriod

open Sys2Proof.Machine Sys2Proof.Statement

/-! ### The parts of a period in the words of the statements -/

section Parts

variable {s : State}

theorem ticks_eq (phase : s.clkPhase ≤ 47) : ticks s = decide (s.clkPhase = 47) := by
  unfold ticks
  by_cases last : s.clkPhase = 47
  · simp [last]
  · have more : s.clkPhase + 1 < 48 := by omega
    simp [last, more]

theorem timerTick_eq (timer : Option Nat) : timerTick timer = timer.map (· - 1) := by
  rcases timer with _ | _ | n
  · rfl
  · rfl
  · rfl

theorem cclkPeriods_eq (cdiv : StrapCode) : cclkPeriods cdiv = 2 ^ (cdiv.val + 1) := by revert cdiv; decide

theorem settleTime_eq (cdiv : StrapCode) (c : Conversion) : settleTime c * cclkPeriods cdiv = settledAt cdiv c := by
  rw [cclkPeriods_eq]; rfl

theorem conversionTime_eq (cdiv : StrapCode) (c : Conversion) : conversionTime c * cclkPeriods cdiv = completedAt cdiv c := by
  rw [conversionTime, Nat.add_mul, settleTime_eq, cclkPeriods_eq]; rfl

theorem presented_eq (s : State) (c : Conversion) : presented s c = inputOf s c := by
  have gain : gainIndex c.gain = (match c.gain with | .g1 => 0 | .g2 => 1 | .g4 => 2 | .g8 => 3) := by
    cases c.gain <;> rfl
  rw [presented, gain]
  rfl

theorem conversionClk_eq (cdiv : StrapCode) (now : TimeReading) (input : Level) (c : Conversion) :
    conversionClk cdiv now input c = converted cdiv now input c := by
  have order : settledAt cdiv c < completedAt cdiv c := Nat.lt_add_of_pos_right (by positivity)
  simp only [conversionClk, converted, settleTime_eq, conversionTime_eq, amplifiedLevel_eq]
  by_cases instant : c.elapsed + 1 = settledAt cdiv c
  · have running : c.elapsed < completedAt cdiv c := by omega
    simp only [if_pos instant, if_pos running]
  · simp only [if_neg instant]

theorem outputNow_eq (s : State) (k : TripIdx) : outputNow k s = sampleOf s k := by
  simp only [outputNow, outputOf, sampleOf, sampleOutput_eq]

theorem firesNow_eq (s : State) (k : TripIdx) : firesNow k s = firesAt s k := by
  simp only [firesNow, runCompletes, firesAt, outputNow_eq, filterSamples_eq, Bool.and_right_comm]

theorem sampled_eq (output : Bool) (c : Comparator) : sampled output c = counted output c := by
  cases state : c.state with
  | watching => simp only [sampled, counted, state, if_true]
  | off => simp [sampled, counted, state]
  | fired => simp [sampled, counted, state]

end Parts

/-! ### TXDn (R173) -/

/-- Bit j of the n-th byte stands at place 10 n + j of the bits of a response. -/
theorem getElem?_lineBits {bytes : List Byte} {n j : Nat} {b : Byte} (at_n : bytes[n]? = some b) (bit : j < 10) :
    (bytes.flatMap lineBits)[10 * n + j]? = (lineBits b)[j]? := by
  induction bytes generalizing n with
  | nil => cases at_n
  | cons x xs ih =>
    have size : (lineBits x).length = 10 := lineBits_length x
    rw [List.flatMap_cons]
    cases n with
    | zero =>
      cases at_n
      rw [Nat.mul_zero, Nat.zero_add, List.getElem?_append_left (by omega)]
    | succ n =>
      rw [List.getElem?_append_right (by omega), size, show 10 * (n + 1) + j - 10 = 10 * n + j by omega]
      exact ih at_n

theorem getElem?_bit (b : Byte) {j : Nat} (bit : j < 10) :
    (lineBits b)[j]? = some (if j = 0 then false else if j = 9 then true else b.getLsbD (j - 1)) := by
  interval_cases j <;> rfl

theorem txdHigh_sending {s : State} {p : Port} {x : Transmission} {n j : Nat} {b : Byte}
    (sending : (s.port p).sending = some x) (at_n : x.bytes[n]? = some b) (bit : j < 10)
    (now : x.elapsed * rate s.baud / 48000000 = 10 * n + j) :
    s.txdHigh p = if j = 0 then false else if j = 9 then true else b.getLsbD (j - 1) := by
  have place : x.elapsed * baudRate s.baud / Config.clkRate = 10 * n + j := by rw [baudRate_eq]; exact now
  simp only [State.txdHigh, sending, place, List.getD_eq_getElem?_getD, getElem?_lineBits at_n bit, getElem?_bit b bit,
    Option.getD_some]

/-! ### What a period leaves -/

section Advance

variable {s : State}

theorem points_clkLinks (s : State) : (clkLinks s).points = s.points := by rw [clkLinks_only]

theorem comparators_clkLinks (s : State) : (clkLinks s).comparators = s.comparators := by rw [clkLinks_only]

theorem points_sampleComparators (s : State) : (sampleComparators s).points = s.points := by rw [sampleComparators_only]

theorem ports_sampleComparators (s : State) : (sampleComparators s).ports = s.ports := by rw [sampleComparators_only]

theorem points_tickPorts (s : State) : (tickPorts s).points = s.points := by rw [tickPorts_only]

theorem ports_tickPoints (s : State) : (tickPoints s).ports = s.ports := by rw [tickPoints_only]

theorem point_timebaseTick (s : State) (i : PointIdx) : (timebaseTick s).point i = pointTick (s.point i) := by
  have points : (timebaseTick s).points = (tickPoints s).points := by simp only [timebaseTick, points_tickPorts]
  rw [← point_tickPoints]
  simp only [State.point, points]

theorem port_timebaseTick (s : State) (p : Port) : (timebaseTick s).port p = portTick (s.port p) := by
  have ports : (timebaseTick s).ports = (tickPorts (tickPoints s)).ports := by simp only [timebaseTick]
  have ticked : (timebaseTick s).port p = portTick ((tickPoints s).port p) := by
    rw [← port_tickPorts]
    simp only [State.port, ports]
  rw [ticked]
  simp only [State.port, ports_tickPoints]

theorem point_clkTimebase (phase : s.clkPhase ≤ 47) (i : PointIdx) :
    (clkTimebase s).point i =
      { s.point i with countdown := timed s (s.point i).countdown, delayTimer := timed s (s.point i).delayTimer } := by
  unfold clkTimebase
  rw [ticks_eq phase]
  by_cases last : s.clkPhase = 47
  · simp only [last, decide_true, if_true, point_timebaseTick, pointTick, timed, timerTick_eq]
  · simp only [last, decide_false, Bool.false_eq_true, if_false, timed]
    rfl

theorem port_clkTimebase (phase : s.clkPhase ≤ 47) (p : Port) :
    (clkTimebase s).port p =
      { s.port p with interByte := timed s (s.port p).interByte, supervision := timed s (s.port p).supervision } := by
  unfold clkTimebase
  rw [ticks_eq phase]
  by_cases last : s.clkPhase = 47
  · simp only [last, decide_true, if_true, port_timebaseTick, portTick, timed, timerTick_eq]
  · simp only [last, decide_false, Bool.false_eq_true, if_false, timed]
    rfl

theorem clkPhase_clkTimebase (phase : s.clkPhase ≤ 47) :
    (clkTimebase s).clkPhase = if s.clkPhase = 47 then 0 else s.clkPhase + 1 := by
  unfold clkTimebase
  rw [ticks_eq phase]
  by_cases last : s.clkPhase = 47
  · simp only [last, decide_true, if_true, timebaseTick]
  · simp only [last, decide_false, Bool.false_eq_true, if_false]

theorem timebase_clkTimebase (phase : s.clkPhase ≤ 47) :
    (clkTimebase s).timebase = if s.clkPhase = 47 then s.timebase + 1 else s.timebase := by
  unfold clkTimebase
  rw [ticks_eq phase]
  by_cases last : s.clkPhase = 47
  · simp only [last, decide_true, if_true, timebaseTick]
  · simp only [last, decide_false, Bool.false_eq_true, if_false]

theorem firesNow_clkTimebase (k : TripIdx) : firesNow k (clkTimebase s) = firesAt s k := by
  rw [clkTimebase_only, ← firesNow_eq]
  rfl

theorem outputNow_clkTimebase (k : TripIdx) : outputNow k (clkTimebase s) = sampleOf s k := by
  rw [clkTimebase_only, ← outputNow_eq]
  rfl

theorem comparator_clkAdvance (k : TripIdx) :
    (clkAdvance s).comparator k =
      if firesAt s k then s.comparator k else counted (sampleOf s k) (s.comparator k) := by
  have lines : (clkAdvance s).comparator k = (sampleComparators (clkTimebase s)).comparator k := by
    have comparators : (clkAdvance s).comparators = (sampleComparators (clkTimebase s)).comparators := by
      simp only [clkAdvance, comparators_clkLinks]
    simp only [State.comparator, comparators]
  have same : (clkTimebase s).comparator k = s.comparator k := by rw [clkTimebase_only]; rfl
  rw [lines, comparator_sampleComparators, firesNow_clkTimebase, outputNow_clkTimebase, sampled_eq, same]

theorem point_clkAdvance (phase : s.clkPhase ≤ 47) (i : PointIdx) :
    (clkAdvance s).point i =
      { s.point i with countdown := timed s (s.point i).countdown, delayTimer := timed s (s.point i).delayTimer } := by
  rw [← point_clkTimebase phase]
  have points : (clkAdvance s).points = (clkTimebase s).points := by
    simp only [clkAdvance, points_clkLinks, points_sampleComparators]
  simp only [State.point, points]

theorem port_clkAdvance (phase : s.clkPhase ≤ 47) (p : Port) :
    (clkAdvance s).port p =
      { s.port p with interByte := timed s (s.port p).interByte, supervision := timed s (s.port p).supervision,
                      rxByte := received s.baud s.pins.rxd[p] (s.port p).rxByte,
                      sending := (s.port p).sending.map (transmitted s.baud) } := by
  have ports : (clkAdvance s).ports = (clkLinks (sampleComparators (clkTimebase s))).ports := by simp only [clkAdvance]
  have links : (clkAdvance s).port p = (clkLinks (sampleComparators (clkTimebase s))).port p := by
    simp only [State.port, ports]
  have port : (sampleComparators (clkTimebase s)).port p = (clkTimebase s).port p := by
    simp only [State.port, ports_sampleComparators]
  have baud : (sampleComparators (clkTimebase s)).baud = s.baud := by rw [sampleComparators_only, clkTimebase_only]
  have pins : (sampleComparators (clkTimebase s)).pins = s.pins := by rw [sampleComparators_only, clkTimebase_only]
  rw [links, port_clkLinks]
  simp only [linesClk, port, baud, pins, port_clkTimebase phase, lineClk_eq, funext (sendingClk_eq s.baud)]

theorem step_clkPeriod (released : s.resetLow = false) (empty : s.pending = []) (undue : s.decisionDue = false) :
    step s = .next { clkAdvance s with draws := s.draws + 1, pending := clkEvents s } := by
  rw [step_noCommand empty released]
  simp [undue, clkPeriod, released, empty]

theorem step_decisionDue (released : s.resetLow = false) (empty : s.pending = []) (due : s.decisionDue = true) :
    step s = .next (grantDecision { s with decisionDue := false }) := by
  rw [step_noCommand empty released, due]
  rfl

end Advance

/-- Settles O5: each clocked part on its own. -/
theorem clkPeriodAdvancesTheClockedParts : Obligations.ClkPeriodAdvancesTheClockedParts := by
  refine ⟨fun s released empty due => step_decisionDue released empty due, fun s released empty undue phase => ?_⟩
  have only := clkAdvance_only s
  rw [clkPhase_clkTimebase phase, timebase_clkTimebase phase] at only
  simp only [presented_eq, conversionClk_eq] at only
  have points := point_clkAdvance phase
  have comparators := comparator_clkAdvance (s := s)
  have ports := port_clkAdvance phase
  rw [step_clkPeriod released empty undue]
  generalize clkAdvance s = u at only points comparators ports ⊢
  have timebase : u.timebase = if s.clkPhase = 47 then s.timebase + 1 else s.timebase := by rw [only]
  refine ⟨_, rfl, ?_, points, comparators, ports, fun p quiet => ?_, fun p x sending n j b at_n bit now =>
    txdHigh_sending sending at_n bit now⟩
  · rw [timebase, only]
  · simp only [State.txdHigh, quiet]

/-! ### What comes about in a period (R32, R33, R70, R163, R173, R175, R177) -/

section Events

variable {s : State} {c : Instr}

/-- The expiries of one point. -/
def expiriesOf (s : State) (i : PointIdx) : List Instr :=
  (if timerExpires (s.point i).countdown then [Instr.periodicExpiry i] else []) ++
    (if timerExpires (s.point i).delayTimer then [Instr.delayExpiry i] else [])

theorem timerExpires_iff (timer : Option Nat) : timerExpires timer = true ↔ timer = some 1 := by simp [timerExpires]

theorem mem_expiriesOf (i : PointIdx) :
    c ∈ expiriesOf s i ↔
      (c = .periodicExpiry i ∧ (s.point i).countdown = some 1) ∨ (c = .delayExpiry i ∧ (s.point i).delayTimer = some 1) := by
  rw [expiriesOf, List.mem_append, List.mem_ite_nil_right, List.mem_ite_nil_right, List.mem_singleton, List.mem_singleton,
    timerExpires_iff, timerExpires_iff, and_comm, and_comm (a := (s.point i).delayTimer = some 1)]

theorem nodup_expiriesOf (i : PointIdx) : (expiriesOf s i).Nodup := by
  unfold expiriesOf
  split
  · split
    · simp
    · simp
  · split
    · simp
    · simp

/-- The line ends a byte exactly where its stop bit is sampled. -/
theorem stopSampled_iff (x : LineByte) : stopSampled s.baud x = true ↔ x.bits.length = 9 ∧ middle s.baud x = true := by
  simp [stopSampled, Config.byteBits, bitSampled_eq]

theorem dataBits_byteOfBits {bits : List Bool} (size : bits.length = 8) : dataBits (byteOfBits bits) = bits := by
  match bits, size with
  | [b0, b1, b2, b3, b4, b5, b6, b7], _ =>
    revert b0 b1 b2 b3 b4 b5 b6 b7
    decide

/-- Eight bits stand for the byte that has them. -/
theorem eq_byteOfBits_iff {bits : List Bool} (size : bits.length = 9) (b : Byte) :
    b = byteOfBits (bits.drop 1) ↔ ∀ k < 8, bits[k + 1]? = some (b.getLsbD k) := by
  have size8 : (bits.drop 1).length = 8 := by rw [List.length_drop, size]
  have data : (∀ k < 8, bits[k + 1]? = some (b.getLsbD k)) ↔ bits.drop 1 = dataBits b := by
    constructor
    · intro same
      refine List.ext_getElem? fun k => ?_
      by_cases bit : k < 8
      · rw [List.getElem?_drop, Nat.add_comm, same k bit]
        simp [dataBits, bit]
      · rw [List.getElem?_eq_none (by omega), List.getElem?_eq_none (by simp [dataBits]; omega)]
    · intro same k bit
      rw [Nat.add_comm, ← List.getElem?_drop, same]
      simp [dataBits, bit]
  rw [data]
  constructor
  · rintro rfl
    exact (dataBits_byteOfBits size8).symm
  · intro same
    rw [same, byteOfBits_dataBits]

/-- What the line of port p delivers. -/
abbrev Delivers (p : Port) (s : State) (c : Instr) : Prop :=
  (∃ x b, c = .byteTaken p b ∧ StopBitNow p x s ∧ s.pins.rxd[p] = true ∧ ∀ k < 8, x.bits[k + 1]? = some (b.getLsbD k)) ∨
  (∃ x, c = .framingError p .byteError ∧ StopBitNow p x s ∧ s.pins.rxd[p] = false)

theorem lineDelivers_of_stopBit {p : Port} {x : LineByte} (stop : StopBitNow p x s) :
    lineDelivers p s =
      if s.pins.rxd[p] then [.byteTaken p (byteOfBits (x.bits.drop 1))] else [.framingError p .byteError] := by
  obtain ⟨here, size, mid⟩ := stop
  have sampled : stopSampled s.baud x = true := (stopSampled_iff x).mpr ⟨size, mid⟩
  simp only [lineDelivers, here, sampled, if_true]

theorem lineDelivers_quiet {p : Port} (quiet : ¬∃ x, StopBitNow p x s) : lineDelivers p s = [] := by
  unfold lineDelivers
  split
  · rfl
  · next x here => exact if_neg fun sampled => quiet ⟨x, here, (stopSampled_iff x).mp sampled⟩

theorem lineDelivers_isEmpty (p : Port) : (lineDelivers p s).isEmpty = false ↔ ∃ x, StopBitNow p x s := by
  by_cases stop : ∃ x, StopBitNow p x s
  · obtain ⟨x, here⟩ := stop
    refine iff_of_true ?_ ⟨x, here⟩
    rw [lineDelivers_of_stopBit here]
    split <;> rfl
  · simp [lineDelivers_quiet stop, stop]

theorem mem_lineDelivers (p : Port) : c ∈ lineDelivers p s ↔ Delivers p s c := by
  by_cases stop : ∃ x, StopBitNow p x s
  · obtain ⟨x, here⟩ := stop
    have sole : ∀ y, StopBitNow p y s → y = x := fun y there => Option.some.inj (there.1.symm.trans here.1)
    rw [lineDelivers_of_stopBit here]
    cases high : s.pins.rxd[p] with
    | true =>
      rw [if_pos rfl, List.mem_singleton]
      constructor
      · rintro rfl
        exact .inl ⟨x, _, rfl, here, high, (eq_byteOfBits_iff here.2.1 _).mp rfl⟩
      · rintro (⟨y, b, rfl, there, -, bits⟩ | ⟨y, -, -, low⟩)
        · cases sole y there
          rw [(eq_byteOfBits_iff here.2.1 b).mpr bits]
        · exact absurd (high.symm.trans low) (by decide)
    | false =>
      rw [if_neg Bool.false_ne_true, List.mem_singleton]
      constructor
      · rintro rfl
        exact .inr ⟨x, rfl, here, high⟩
      · rintro (⟨y, b, -, -, up, -⟩ | ⟨y, rfl, -⟩)
        · exact absurd (high.symm.trans up) (by decide)
        · rfl
  · rw [lineDelivers_quiet stop]
    constructor
    · exact fun absent => nomatch absent
    · rintro (⟨x, b, -, here, -⟩ | ⟨x, -, here, -⟩)
      · exact absurd ⟨x, here⟩ stop
      · exact absurd ⟨x, here⟩ stop

theorem nodup_lineDelivers (p : Port) : (lineDelivers p s).Nodup := by
  unfold lineDelivers
  split
  · exact List.nodup_nil
  · split
    · split
      · simp
      · simp
    · exact List.nodup_nil

/-- The inter-byte timer of port p expires, and no byte is taken first. -/
abbrev InterByteExpires (p : Port) (s : State) : Prop :=
  ticks s = true ∧ (s.port p).interByte = some 1 ∧ ¬TakenBeforeExpiry p s

theorem receiverEvents_eq (p : Port) :
    receiverEvents p s =
      if InterByteExpires p s then .interByteTimeout p :: lineDelivers p s else lineDelivers p s := by
  have first : (!(lineDelivers p s).isEmpty && Config.byteFirst s.draws p) = true ↔ TakenBeforeExpiry p s := by
    rw [Bool.and_eq_true, Bool.not_eq_true', lineDelivers_isEmpty]
  unfold receiverEvents InterByteExpires
  by_cases due : ticks s = true ∧ (s.port p).interByte = some 1
  · rw [if_pos (by rw [Bool.and_eq_true, timerExpires_iff]; exact due)]
    by_cases taken : TakenBeforeExpiry p s
    · rw [if_pos (first.mpr taken), if_neg fun h => h.2.2 taken]
    · rw [if_neg (mt first.mp taken), if_pos ⟨due.1, due.2, taken⟩]
  · rw [if_neg (by rw [Bool.and_eq_true, timerExpires_iff]; exact due), if_neg fun h => due ⟨h.1, h.2.1⟩]

theorem mem_receiverEvents (p : Port) :
    c ∈ receiverEvents p s ↔ (c = .interByteTimeout p ∧ InterByteExpires p s) ∨ Delivers p s c := by
  rw [receiverEvents_eq, ← mem_lineDelivers]
  split
  · next due => rw [List.mem_cons, and_iff_left due]
  · next no => exact (or_iff_right fun h => no h.2).symm

theorem interByteTimeout_not_delivered (p q : Port) : ¬Delivers p s (.interByteTimeout q) := by
  rintro (⟨x, b, wrong, -⟩ | ⟨x, wrong, -⟩)
  · cases wrong
  · cases wrong

theorem nodup_receiverEvents (p : Port) : (receiverEvents p s).Nodup := by
  rw [receiverEvents_eq]
  split
  · exact List.nodup_cons.mpr ⟨fun among => interByteTimeout_not_delivered p p ((mem_lineDelivers p).mp among),
      nodup_lineDelivers p⟩
  · exact nodup_lineDelivers p

theorem mem_supervisionEvents (p : Port) :
    c ∈ supervisionEvents p s ↔ c = .supervisionExpiry p ∧ ticks s = true ∧ (s.port p).supervision = some 1 := by
  rw [supervisionEvents, List.mem_ite_nil_right, List.mem_singleton, Bool.and_eq_true, timerExpires_iff, and_comm]

theorem mem_responseEndsNow (p : Port) :
    c ∈ responseEndsNow p s ↔ ∃ x ∈ (s.port p).sending, c = .responseSent p ∧
      x.elapsed * rate s.baud < 10 * x.bytes.length * 48000000 ∧
      10 * x.bytes.length * 48000000 ≤ (x.elapsed + 1) * rate s.baud := by
  unfold responseEndsNow
  cases (s.port p).sending with
  | none => simp
  | some x =>
    simp only [List.mem_ite_nil_right, List.mem_singleton, Option.mem_def, Option.some.injEq, exists_eq_left',
      allSent_eq, sendingClk_eq, transmitted, Bool.and_eq_true, Bool.not_not, Bool.not_eq_true', decide_eq_true_eq,
      decide_eq_false_iff_not]
    rw [and_comm]
    refine and_congr_right fun _ => and_congr_right fun sending => ?_
    rw [if_pos sending]
    exact Nat.not_lt

theorem mem_edgeEvents (n : TrgIdx) :
    c ∈ edgeEvents n s ↔ c = .trgEdge n (if s.pins.trg[n] then .rising else .falling) ∧
      s.pins.trg[n] = s.trgSamples[n] ∧ s.pins.trg[n] ≠ s.trgLevels[n] := by
  unfold edgeEvents edgeSampled
  split
  · next accepted =>
    rw [and_iff_left accepted, Option.map_some, Option.toList_some, List.mem_singleton]
    rfl
  · next no => simp only [Option.map_none, Option.toList_none, List.not_mem_nil, no, and_false]

theorem mem_firingEvents (k : TripIdx) : c ∈ firingEvents k s ↔ c = .tripFiring k ∧ firesAt s k = true := by
  rw [firingEvents, List.mem_ite_nil_right, List.mem_singleton, firesNow_eq, and_comm]

theorem mem_completionEvents :
    c ∈ completionEvents s ↔
      ∃ x ∈ s.conversion, c = .conversionCompletion (inputOf s x) ∧ x.elapsed + 1 = completedAt s.cdiv x := by
  unfold completionEvents
  cases s.conversion with
  | none => simp
  | some x =>
    simp only [List.mem_ite_nil_right, List.mem_singleton, Option.mem_def, Option.some.injEq, exists_eq_left',
      conversionTime_eq, presented_eq]
    exact and_comm

end Events

/-! ### The groups, each at its own place -/

/-- Where a command that the clock brings about comes from: a timer, a line, a detector or the converter. -/
def source : Instr → Nat × Nat
  | .interByteTimeout p | .byteTaken p _ | .framingError p _ => (0, p.val)
  | .supervisionExpiry p => (1, p.val)
  | .responseSent p => (2, p.val)
  | .trgEdge n _ => (3, n.val)
  | .tripFiring k => (4, k.val)
  | .conversionCompletion _ => (5, 0)
  | .periodicExpiry i | .delayExpiry i => (6, i.val)
  | _ => (7, 0)

/-- The sources of the groups of a CLK period, and of the points. -/
def sources : List (Nat × Nat) :=
  allPorts.map (fun p => (0, p.val)) ++ allPorts.map (fun p => (1, p.val)) ++ allPorts.map (fun p => (2, p.val)) ++
    allTriggers.map (fun n => (3, n.val)) ++ allComparators.map (fun k => (4, k.val)) ++ [(5, 0)]

/-- A group holds each command once, all of one source. -/
def FromSource (x : Nat × Nat) (g : List Instr) : Prop := g.Nodup ∧ ∀ c ∈ g, source c = x

theorem forall₂_map_source {α : Type} (f : α → Nat × Nat) (g : α → List Instr) (h : ∀ a, FromSource (f a) (g a)) (xs : List α) :
    List.Forall₂ FromSource (xs.map f) (xs.map g) := by
  induction xs with
  | nil => exact .nil
  | cons x xs ih => exact .cons (h x) ih

/-- Groups of different sources share no command. -/
theorem nodup_flatten_of_sources {xs : List (Nat × Nat)} {gs : List (List Instr)} (own : List.Forall₂ FromSource xs gs)
    (distinct : xs.Nodup) : gs.flatten.Nodup ∧ ∀ c ∈ gs.flatten, source c ∈ xs := by
  induction own with
  | nil => exact ⟨List.nodup_nil, fun _ absent => nomatch absent⟩
  | @cons x g xs gs here _ ih =>
    obtain ⟨fresh, distinct⟩ := List.nodup_cons.mp distinct
    obtain ⟨nodup, among⟩ := ih distinct
    rw [List.flatten_cons]
    refine ⟨List.nodup_append'.mpr ⟨here.1, nodup, fun c ing inrest => fresh (here.2 c ing ▸ among c inrest)⟩, fun c inside => ?_⟩
    rcases List.mem_append.mp inside with ing | inrest
    · rw [here.2 c ing]; exact List.mem_cons_self
    · exact List.mem_cons_of_mem _ (among c inrest)

section Sources

variable (s : State)

theorem fromSource_receiverEvents (p : Port) : FromSource (0, p.val) (receiverEvents p s) := by
  refine ⟨nodup_receiverEvents p, fun c among => ?_⟩
  rcases (mem_receiverEvents p).mp among with ⟨rfl, -⟩ | ⟨x, b, rfl, -⟩ | ⟨x, rfl, -⟩
  · rfl
  · rfl
  · rfl

theorem fromSource_supervisionEvents (p : Port) : FromSource (1, p.val) (supervisionEvents p s) := by
  refine ⟨by unfold supervisionEvents; split <;> simp, fun c among => ?_⟩
  rw [((mem_supervisionEvents p).mp among).1]; rfl

theorem fromSource_responseEndsNow (p : Port) : FromSource (2, p.val) (responseEndsNow p s) := by
  refine ⟨?_, fun c among => ?_⟩
  · unfold responseEndsNow
    split
    · exact List.nodup_nil
    · split <;> simp
  · obtain ⟨x, -, rfl, -⟩ := (mem_responseEndsNow p).mp among
    rfl

theorem fromSource_edgeEvents (n : TrgIdx) : FromSource (3, n.val) (edgeEvents n s) := by
  refine ⟨?_, fun c among => ?_⟩
  · unfold edgeEvents
    cases (edgeSampled s n).map (Instr.trgEdge n) <;> simp
  · rw [((mem_edgeEvents n).mp among).1]; rfl

theorem fromSource_firingEvents (k : TripIdx) : FromSource (4, k.val) (firingEvents k s) := by
  refine ⟨by unfold firingEvents; split <;> simp, fun c among => ?_⟩
  rw [((mem_firingEvents k).mp among).1]; rfl

theorem fromSource_completionEvents : FromSource (5, 0) (completionEvents s) := by
  refine ⟨?_, fun c among => ?_⟩
  · unfold completionEvents
    split
    · exact List.nodup_nil
    · split <;> simp
  · obtain ⟨x, -, rfl, -⟩ := mem_completionEvents.mp among
    rfl

theorem fromSource_expiriesOf (i : PointIdx) : FromSource (6, i.val) (expiriesOf s i) := by
  refine ⟨nodup_expiriesOf i, fun c among => ?_⟩
  rcases (mem_expiriesOf i).mp among with ⟨rfl, -⟩ | ⟨rfl, -⟩
  · rfl
  · rfl

theorem clkGroups_sources : List.Forall₂ FromSource sources (clkGroups s) := by
  unfold sources clkGroups
  refine List.rel_append (List.rel_append (List.rel_append (List.rel_append (List.rel_append ?_ ?_) ?_) ?_) ?_) ?_
  · exact forall₂_map_source _ _ (fromSource_receiverEvents s) _
  · exact forall₂_map_source _ _ (fromSource_supervisionEvents s) _
  · exact forall₂_map_source _ _ (fromSource_responseEndsNow s) _
  · exact forall₂_map_source _ _ (fromSource_edgeEvents s) _
  · exact forall₂_map_source _ _ (fromSource_firingEvents s) _
  · exact .cons (fromSource_completionEvents s) .nil

end Sources

/-! ### The line of commands (R32, R206) -/

/-- The expiries of the points, where this period is a tick. -/
def pointLine (s : State) : List Instr := if ticks s then pointExpiries s else []

theorem pointExpiries_eq (s : State) : pointExpiries s = (allPoints.map (expiriesOf s)).flatten := List.flatMap_def ..

theorem pointLine_sources (s : State) : (pointLine s).Nodup ∧ ∀ c ∈ pointLine s, (source c).1 = 6 := by
  unfold pointLine
  split
  · rw [pointExpiries_eq]
    have own := forall₂_map_source _ _ (fromSource_expiriesOf s) allPoints
    obtain ⟨nodup, among⟩ := nodup_flatten_of_sources own (by decide +kernel)
    refine ⟨nodup, fun c inside => ?_⟩
    obtain ⟨i, -, here⟩ := List.mem_map.mp (among c inside)
    rw [← here]
  · exact ⟨List.nodup_nil, fun _ absent => nomatch absent⟩

theorem group_sources (s : State) : (clkGroups s).flatten.Nodup ∧ ∀ c ∈ (clkGroups s).flatten, (source c).1 ≤ 5 := by
  obtain ⟨nodup, among⟩ := nodup_flatten_of_sources (clkGroups_sources s) (by decide +kernel)
  have small : ∀ x ∈ sources, x.1 ≤ 5 := by decide +kernel
  exact ⟨nodup, fun c inside => small _ (among c inside)⟩

theorem clkEvents_perm (s : State) : (clkEvents s).Perm ((clkGroups s).flatten ++ pointLine s) := joinGroups_perm ..

theorem nodup_clkEvents (s : State) : (clkEvents s).Nodup := by
  obtain ⟨groups, low⟩ := group_sources s
  obtain ⟨line, high⟩ := pointLine_sources s
  refine (clkEvents_perm s).nodup_iff.mpr (List.nodup_append'.mpr ⟨groups, line, fun c ing inline => ?_⟩)
  have := low c ing
  have := high c inline
  omega

/-- What a group holds beside the expiries of points has no part in their order. -/
theorem filterMap_insertAt {f : Instr → Option PointIdx} {g : List Instr} (other : ∀ c ∈ g, f c = none)
    (line : List Instr) (k : Nat) : (insertAt g line k).filterMap f = line.filterMap f := by
  have nothing : g.filterMap f = [] := List.filterMap_eq_nil_iff.mpr other
  induction line generalizing k with
  | nil => exact nothing
  | cons x xs ih =>
    cases k with
    | zero => rw [insertAt, List.filterMap_append, nothing, List.nil_append]
    | succ k =>
      have head : x :: insertAt g xs k = [x] ++ insertAt g xs k := rfl
      rw [insertAt, head, List.filterMap_append, ih, ← List.filterMap_append]
      rfl

theorem filterMap_joinGroups {f : Instr → Option PointIdx} {gs : List (List Instr)} (other : ∀ c ∈ gs.flatten, f c = none)
    (draw j : Nat) (line : List Instr) : (joinGroups draw j gs line).filterMap f = line.filterMap f := by
  induction gs generalizing j line with
  | nil => rfl
  | cons g gs ih =>
    have here : ∀ c ∈ g, f c = none := fun c ing => other c (by rw [List.flatten_cons]; exact List.mem_append_left _ ing)
    have later : ∀ c ∈ gs.flatten, f c = none := fun c ings =>
      other c (by rw [List.flatten_cons]; exact List.mem_append_right _ ings)
    cases g with
    | nil => exact ih later (j + 1) line
    | cons x g => exact (ih later (j + 1) _).trans (filterMap_insertAt here line _)

theorem expiryPoint_eq_none {c : Instr} (low : (source c).1 ≤ 5) : expiryPoint c = none := by
  cases c with
  | periodicExpiry i => exact absurd low (by simp [source])
  | delayExpiry i => exact absurd low (by simp [source])
  | _ => rfl

theorem expiryPoint_expiriesOf (s : State) (i : PointIdx) : ∀ j ∈ (expiriesOf s i).filterMap expiryPoint, j = i := by
  intro j among
  obtain ⟨c, inside, point⟩ := List.mem_filterMap.mp among
  rcases (mem_expiriesOf i).mp inside with ⟨rfl, -⟩ | ⟨rfl, -⟩
  · exact (Option.some.inj point).symm
  · exact (Option.some.inj point).symm

/-- The expiries of points stand in ascending index. -/
theorem pairwise_pointLine (s : State) : ((pointLine s).filterMap expiryPoint).Pairwise (· ≤ ·) := by
  unfold pointLine
  split
  · rw [pointExpiries, List.filterMap_flatMap, List.pairwise_flatMap]
    constructor
    · intro i _
      refine List.Pairwise.imp_of_mem (R := fun _ _ => True) (fun ha hb _ => ?_) (List.pairwise_of_forall fun _ _ => trivial)
      rw [expiryPoint_expiriesOf s i _ ha, expiryPoint_expiriesOf s i _ hb]
    · refine (List.pairwise_lt_finRange 32).imp fun {i j} below a ha b hb => ?_
      rw [expiryPoint_expiriesOf s i a ha, expiryPoint_expiriesOf s j b hb]
      exact Nat.le_of_lt below
  · exact List.Pairwise.nil

theorem pairwise_clkEvents (s : State) : ((clkEvents s).filterMap expiryPoint).Pairwise (· ≤ ·) := by
  have joined : (clkEvents s).filterMap expiryPoint = (pointLine s).filterMap expiryPoint :=
    filterMap_joinGroups (fun c inside => expiryPoint_eq_none ((group_sources s).2 c inside)) s.draws 0 (pointLine s)
  rw [joined]
  exact pairwise_pointLine s

theorem receiverEvents_mem_groups (s : State) (p : Port) : receiverEvents p s ∈ clkGroups s := by
  have here : receiverEvents p s ∈ allPorts.map (receiverEvents · s) := List.mem_map_of_mem (List.mem_finRange p)
  simp only [clkGroups, List.append_assoc]
  exact List.mem_append_left _ here

theorem mem_clkGroups (s : State) (c : Instr) :
    c ∈ (clkGroups s).flatten ↔
      (∃ p, c ∈ receiverEvents p s) ∨ (∃ p, c ∈ supervisionEvents p s) ∨ (∃ p, c ∈ responseEndsNow p s) ∨
      (∃ n, c ∈ edgeEvents n s) ∨ (∃ k, c ∈ firingEvents k s) ∨ c ∈ completionEvents s := by
  simp only [clkGroups, List.flatten_append, List.mem_append, ← List.flatMap_def, List.mem_flatMap, allPorts, allTriggers,
    allComparators, List.mem_finRange, true_and, List.flatten_singleton, or_assoc]

theorem mem_pointLine (s : State) (c : Instr) :
    c ∈ pointLine s ↔ ticks s = true ∧ ((∃ i : PointIdx, c = .periodicExpiry i ∧ (s.point i).countdown = some 1) ∨
      (∃ i : PointIdx, c = .delayExpiry i ∧ (s.point i).delayTimer = some 1)) := by
  simp only [pointLine, List.mem_ite_nil_right, pointExpiries_eq, ← List.flatMap_def, List.mem_flatMap, allPoints,
    List.mem_finRange, true_and, mem_expiriesOf, exists_or]

/-- An inter-byte expiry stands before the byte that ends in the same period. -/
theorem interByteTimeout_before {s : State} {p : Port} {c : Instr} (arrives : Delivers p s c)
    (expires : .interByteTimeout p ∈ clkEvents s) : [.interByteTimeout p, c].Sublist (clkEvents s) := by
  have group := group_sublist_joinGroups s.draws 0 (clkGroups s) (pointLine s) (receiverEvents_mem_groups s p)
  have due : InterByteExpires p s := by
    rcases List.mem_append.mp ((clkEvents_perm s).mem_iff.mp expires) with inGroup | inLine
    · rcases (mem_clkGroups s _).mp inGroup with ⟨q, h⟩ | ⟨q, h⟩ | ⟨q, h⟩ | ⟨n, h⟩ | ⟨k, h⟩ | h
      · rcases (mem_receiverEvents q).mp h with ⟨same, due⟩ | wrong
        · cases same; exact due
        · exact absurd wrong (interByteTimeout_not_delivered q p)
      · cases ((mem_supervisionEvents q).mp h).1
      · obtain ⟨x, -, wrong, -⟩ := (mem_responseEndsNow q).mp h
        cases wrong
      · cases ((mem_edgeEvents n).mp h).1
      · cases ((mem_firingEvents k).mp h).1
      · obtain ⟨x, -, wrong, -⟩ := mem_completionEvents.mp h
        cases wrong
    · rcases ((mem_pointLine s _).mp inLine).2 with ⟨i, wrong, -⟩ | ⟨i, wrong, -⟩
      · cases wrong
      · cases wrong
  refine List.Sublist.trans ?_ group
  rw [receiverEvents_eq, if_pos due]
  exact (List.singleton_sublist.mpr ((mem_lineDelivers p).mpr arrives)).cons_cons _

/-- A command that the line of port p gives is delivered in this period. -/
theorem delivers_of_mem {s : State} {p : Port} {c : Instr} (kind : (∃ b, c = .byteTaken p b) ∨ c = .framingError p .byteError)
    (waiting : c ∈ clkEvents s) : Delivers p s c := by
  have place : source c = (0, p.val) := by
    rcases kind with ⟨b, rfl⟩ | rfl
    · rfl
    · rfl
  have other (q : Port) (same : source c = (0, q.val)) : q = p :=
    Fin.ext (Prod.ext_iff.mp (same.symm.trans place)).2
  have elsewhere {x : Nat × Nat} (there : source c = x) : x.1 = 0 := by rw [← there, place]
  rcases List.mem_append.mp ((clkEvents_perm s).mem_iff.mp waiting) with inGroup | inLine
  · rcases (mem_clkGroups s c).mp inGroup with ⟨q, h⟩ | ⟨q, h⟩ | ⟨q, h⟩ | ⟨n, h⟩ | ⟨k, h⟩ | h
    · have same := other q ((fromSource_receiverEvents s q).2 c h)
      subst same
      rcases (mem_receiverEvents q).mp h with ⟨rfl, -⟩ | delivered
      · rcases kind with ⟨b, wrong⟩ | wrong
        · cases wrong
        · cases wrong
      · exact delivered
    · cases elsewhere ((fromSource_supervisionEvents s q).2 c h)
    · cases elsewhere ((fromSource_responseEndsNow s q).2 c h)
    · cases elsewhere ((fromSource_edgeEvents s n).2 c h)
    · cases elsewhere ((fromSource_firingEvents s k).2 c h)
    · cases elsewhere ((fromSource_completionEvents s).2 c h)
  · have high := (pointLine_sources s).2 c inLine
    rw [place] at high
    cases high

/-- Settles O6: what stands in the line of commands is what its groups hold, each group at a place of its own. -/
theorem clkPeriodQueuesWhatComesAbout : Obligations.ClkPeriodQueuesWhatComesAbout := by
  intro s released empty undue phase
  refine ⟨_, step_clkPeriod released empty undue, nodup_clkEvents s, pairwise_clkEvents s,
    fun p c kind waiting expires => interByteTimeout_before (delivers_of_mem kind waiting) expires, fun c => ?_⟩
  have tick : ticks s = true ↔ s.clkPhase = 47 := by rw [ticks_eq phase, decide_eq_true_eq]
  change c ∈ clkEvents s ↔ _
  rw [(clkEvents_perm s).mem_iff, List.mem_append, mem_clkGroups, mem_pointLine, tick]
  simp only [mem_receiverEvents, mem_supervisionEvents, mem_responseEndsNow, mem_edgeEvents, mem_firingEvents,
    mem_completionEvents, InterByteExpires, tick]
  constructor
  · rintro ((⟨p, ⟨rfl, at47, due, later⟩ | delivered⟩ | ⟨p, rfl, at47, due⟩ | ⟨p, h⟩ | ⟨n, h⟩ | ⟨k, h⟩ | h) | ⟨at47, h | h⟩)
    · exact .inl ⟨at47, .inr (.inr (.inl ⟨p, rfl, due, later⟩))⟩
    · rcases delivered with ⟨x, b, h⟩ | ⟨x, h⟩
      · exact .inr (.inr (.inr (.inr (.inl ⟨p, x, b, h⟩))))
      · exact .inr (.inr (.inr (.inr (.inr (.inl ⟨p, x, h⟩)))))
    · exact .inl ⟨at47, .inr (.inr (.inr ⟨p, rfl, due⟩))⟩
    · exact .inr (.inr (.inr (.inr (.inr (.inr ⟨p, h⟩)))))
    · exact .inr (.inl ⟨n, h⟩)
    · exact .inr (.inr (.inl ⟨k, h⟩))
    · exact .inr (.inr (.inr (.inl h)))
    · exact .inl ⟨at47, .inl h⟩
    · exact .inl ⟨at47, .inr (.inl h)⟩
  · rintro (⟨at47, h | h | ⟨p, rfl, due, later⟩ | ⟨p, rfl, due⟩⟩ | ⟨n, h⟩ | ⟨k, h⟩ | h | ⟨p, x, b, h⟩ | ⟨p, x, h⟩ | ⟨p, h⟩)
    · exact .inr ⟨at47, .inl h⟩
    · exact .inr ⟨at47, .inr h⟩
    · exact .inl (.inl ⟨p, .inl ⟨rfl, at47, due, later⟩⟩)
    · exact .inl (.inr (.inl ⟨p, rfl, at47, due⟩))
    · exact .inl (.inr (.inr (.inr (.inl ⟨n, h⟩))))
    · exact .inl (.inr (.inr (.inr (.inr (.inl ⟨k, h⟩)))))
    · exact .inl (.inr (.inr (.inr (.inr (.inr h)))))
    · exact .inl (.inl ⟨p, .inr (.inl ⟨x, b, h⟩)⟩)
    · exact .inl (.inl ⟨p, .inr (.inr ⟨x, h⟩)⟩)
    · exact .inl (.inr (.inr (.inl ⟨p, h⟩)))

end Sys2Proof.ClkPeriod
end

section
/-!
PROOFS. Conversion completions (R57, R58, R80): the code that is taken, and what becomes of the burst.
-/

namespace Sys2Proof.Completions

open Sys2Proof.Machine Sys2Proof.Statement

/-! ### The completion of one conversion -/

section Completion

variable {b : Burst} {level : Level} {s : State}

theorem exec_conversionCompletion (released : s.resetLow = false) (holds : s.converter = some b) :
    exec (.conversionCompletion level) s = .next (completeConversion b (completionCode b level s) s) := by
  simp only [exec, execConversionCompletion]
  rw [LinkCommands.whenReleased_released _ released, holds]

theorem completionCode_point {i : PointIdx} (subject : b.subject = .point i) :
    completionCode b level s = codeAt (s.point i).key.channel (s.point i).key.gain level s := by
  simp only [completionCode, subject, subjectChannel, subjectGain, levelCode_eq, amplifiedLevel_eq, codeAt]

theorem completionCode_job {g : Gain} (subject : b.subject = .job g) : completionCode b level s = codeAt 16 g level s := by
  simp only [completionCode, subject, subjectChannel, subjectGain, levelCode_eq, amplifiedLevel_eq, codeAt]

/-- A point entry after one more code of its burst (R87). -/
def codeCounted (e : PointEntry) (code : ConverterCode) (s : State) : PointEntry :=
  { e with accumulator := e.accumulator + code.toNat, done := e.done + 1,
           stamp := some (e.stamp.getD (((s.conversion.bind (·.reading))).getD s.timebase)),
           satSoFar := e.satSoFar || code == 0 || code == 4095 }

theorem takeCode_point (i : PointIdx) (code : ConverterCode) :
    takeCode (.point i) code (sampleReading s) s = s.setPoint i (codeCounted (s.point i) code s) := by
  simp only [takeCode, State.modPoint, limitIndication, codeCounted, Bool.or_assoc]
  rfl

theorem completeConversion_retiring {i : PointIdx} {code : ConverterCode} (subject : b.subject = .point i)
    (retiring : (s.point i).state = .retiring) :
    completeConversion b code s = grantDecision (s.setPoint i .cleared) := by
  have dying : subjectRetiring b.subject s = true := by rw [subject]; simp [subjectRetiring, retiring]
  simp only [completeConversion, dying, if_true]
  rw [subject]
  rfl

/-- The completion of a conversion of a live subject, after its code has been taken. -/
theorem completeConversion_live {code : ConverterCode} (alive : subjectRetiring b.subject s = false) :
    completeConversion b code s =
      let t := takeCode b.subject code (sampleReading s) s
      if conversionsDone b.subject t = b.length then burstEnds b.subject t
      else if b.burstClass = .background ∧ t.urgentQueue ≠ [] then suspendBurst b t
      else beginConversionOf b.subject t := by
  simp only [completeConversion, alive, Bool.false_eq_true, if_false]

end Completion

/-! ### A point's burst short of its end -/

section Point

variable {b : Burst} {i : PointIdx} {code : ConverterCode} {s : State}

theorem subjectRetiring_point (subject : b.subject = .point i) (alive : (s.point i).state ≠ .retiring) :
    subjectRetiring b.subject s = false := by
  rw [subject]; simpa [subjectRetiring] using alive

theorem completeConversion_suspends (subject : b.subject = .point i) (alive : (s.point i).state ≠ .retiring)
    (short : (s.point i).done + 1 ≠ b.length) (waits : b.burstClass = .background ∧ s.urgentQueue ≠ []) :
    completeConversion b code s = grantDecision
      { s.setPoint i { codeCounted (s.point i) code s with state := .suspended, resumedSoFar := true } with
        suspended := some b } := by
  rw [completeConversion_live (subjectRetiring_point subject alive)]
  have more : (codeCounted (s.point i) code s).done ≠ b.length := short
  simp only [subject, takeCode_point, conversionsDone, point_setPoint, urgentQueue_setPoint, if_neg more, if_pos waits,
    suspendBurst, State.modPoint, setPoint_setPoint]

theorem completeConversion_goesOn (subject : b.subject = .point i) (alive : (s.point i).state ≠ .retiring)
    (short : (s.point i).done + 1 ≠ b.length) (noUrgent : b.burstClass = .urgent ∨ s.urgentQueue = []) :
    completeConversion b code s =
      { s.setPoint i (codeCounted (s.point i) code s) with
        conversion := some (firstConversion (s.point i) s), lastGain := (s.point i).key.gain } := by
  rw [completeConversion_live (subjectRetiring_point subject alive)]
  have more : (codeCounted (s.point i) code s).done ≠ b.length := short
  have stays : ¬(b.burstClass = .background ∧ s.urgentQueue ≠ []) := by
    rintro ⟨background, waiting⟩
    exact noUrgent.elim (fun urgent => by rw [background] at urgent; cases urgent) waiting
  simp only [subject, takeCode_point, conversionsDone, point_setPoint, urgentQueue_setPoint, if_neg more, if_neg stays,
    GrantDecision.beginConversionOf_eq, conversionOf, firstConversion, lastGain_setPoint]
  rfl

end Point

/-- Settles O33: by the state of the point, the conversions that remain and the urgent queue. -/
theorem completionFreesSuspendsOrContinues : Obligations.CompletionFreesSuspendsOrContinues := by
  intro level b i s released holds subject e code stamp counted
  have run := exec_conversionCompletion (level := level) released holds
  rw [completionCode_point subject] at run
  refine ⟨fun retiring => ?_, fun alive short => ⟨fun waits => ?_, fun noUrgent => ?_⟩⟩
  · rw [run, completeConversion_retiring subject retiring]
  · rw [run, completeConversion_suspends subject alive short waits]
    rfl
  · rw [run, completeConversion_goesOn subject alive short noUrgent]
    rfl

/-! ### A calibration burst -/

section Job

variable {b : Burst} {g : Gain} {code : ConverterCode} {s : State}

/-- A job after one more code of its burst (R76). -/
def sumCounted (j : CalibrationJob) (code : ConverterCode) : CalibrationJob :=
  { j with done := j.done + 1, partialSum := j.partialSum + code.toNat }

theorem completeConversion_job (subject : b.subject = .job g) :
    completeConversion b code s =
      let t := s.setJob g (sumCounted (s.job g) code)
      if (s.job g).done + 1 = b.length then grantDecision (completeCalibration g t)
      else if b.burstClass = .background ∧ s.urgentQueue ≠ [] then suspendBurst b t
      else beginConversionOf b.subject t := by
  have alive : subjectRetiring b.subject s = false := by rw [subject]; rfl
  rw [completeConversion_live alive]
  simp only [subject, takeCode, conversionsDone, job_setJob, burstEnds_job]
  rfl

theorem trimEntry_formEventForAll (kind : EventKind) (subject value : Nat) (s : State) (h : Gain) :
    (formEventForAll kind subject value s).trimEntry h = s.trimEntry h := by
  have only := formEventForAll_only kind subject value s
  generalize formEventForAll kind subject value s = t at only ⊢
  rw [only]
  rfl

theorem job_formEventForAll (kind : EventKind) (subject value : Nat) (s : State) (h : Gain) :
    (formEventForAll kind subject value s).job h = s.job h := by
  have only := formEventForAll_only kind subject value s
  generalize formEventForAll kind subject value s = t at only ⊢
  rw [only]
  rfl

theorem trimEntry_completeCalibration (h : Gain) :
    (completeCalibration g s).trimEntry h =
      if h = g then { state := .valid, trim := min (s.job g).partialSum 2047 } else s.trimEntry h := by
  unfold completeCalibration
  dsimp only
  rw [trimEntry_setJob, trimEntry_formEventForAll]
  exact trimEntry_setTrimEntry_eq ..

theorem job_completeCalibration (h : Gain) :
    (completeCalibration g s).job h = if h = g then .idle else s.job h := by
  unfold completeCalibration
  dsimp only
  rw [job_setJob_eq, job_formEventForAll]
  rfl

theorem queue_completeCalibration (q : Port) :
    (completeCalibration g s).queue q =
      offered s q [eventNow s .calDone (gainIndex g).val (min (s.job g).partialSum 2047)] := by
  unfold completeCalibration
  dsimp only
  rw [queue_setJob, queue_formEventForAll]
  rfl

end Job

/-- Settles O34: by the conversions that remain and the urgent queue. -/
theorem calibrationCountsAndCompletes : Obligations.CalibrationCountsAndCompletes := by
  intro level b g s released holds subject j code counted
  have run := exec_conversionCompletion (level := level) released holds
  rw [completionCode_job subject, completeConversion_job subject] at run
  refine ⟨fun short waits => ?_, fun short noUrgent => ?_, fun full => ?_⟩
  · rw [run, if_neg short, if_pos waits]
    simp only [suspendBurst, subject, job_setJob, setJob_setJob]
    rfl
  · have stays : ¬(b.burstClass = .background ∧ s.urgentQueue ≠ []) := by
      rintro ⟨background, waiting⟩
      exact noUrgent.elim (fun urgent => by rw [background] at urgent; cases urgent) waiting
    rw [run, if_neg short, if_neg stays, subject]
    rfl
  · refine ⟨completeCalibration g (s.setJob g counted), by rw [run, if_pos full]; rfl, ?_, fun h _ => ?_, fun h _ => ?_,
      fun q => ?_⟩
    · have only := completeCalibration_only g (s.setJob g counted)
      generalize completeCalibration g (s.setJob g counted) = t at only ⊢
      rw [only]
      rfl
    · rw [trimEntry_completeCalibration, job_setJob]
      rfl
    · rw [job_completeCalibration, job_setJob_eq]
      split
      · rfl
      · rfl
    · rw [queue_completeCalibration, job_setJob]
      rfl

end Sys2Proof.Completions
end

section
/-!
PROOFS. Departures: what the leaving of points does to monitors and claims (R141, R142), to the entry and to the waiting
places (R17, R18, R63), and from these LEAVE POINT and the end of a session.
-/

namespace Sys2Proof.Departures

open Sys2Proof.Machine Sys2Proof.Statement Sys2Proof.Safety

/-! ### Monitors of a port that leaves (R141, R142) -/

section Monitors

variable {p : Port} {s t u : State}

theorem any_or {α : Type} (f g : α → Bool) (xs : List α) : xs.any (fun x => f x || g x) = (xs.any f || xs.any g) := by
  rw [Bool.eq_iff_iff]
  simp only [List.any_eq_true, Bool.or_eq_true, and_or_left, exists_or]

/-- A monitor that is in use was created by port `p` on point `i`. -/
def createdOn (p : Port) (i : PointIdx) (m : Option Monitor) : Bool := m.any (fun m => m.creator == p && m.point == i)

/-- The claim of a selected monitor becomes a HOST claim on line `l`. -/
def converts (sel : MonitorIdx → Bool) (s : State) (l : LineIdx) : Bool :=
  allMonitors.any (fun k => sel k && (s.monitor k).any (fun m => heldLine m == some l))

/-- `t` is `s` but that the selected monitors, all of port `p`, are deleted without an event. -/
structure MonitorsGone (p : Port) (sel : MonitorIdx → Bool) (s t : State) : Prop where
  only : t = { s with monitors := t.monitors, lines := t.lines }
  monitor : ∀ k : MonitorIdx, t.monitor k = if sel k then none else s.monitor k
  host : ∀ l : LineIdx, ∀ h : Port, t.claims l (.host h) = (s.claims l (.host h) || (h == p && converts sel s l))
  start : ∀ l : LineIdx, t.claims l .start = s.claims l .start
  trip : ∀ l : LineIdx, ∀ k : TripIdx, t.claims l (.trip k) = s.claims l (.trip k)
  asserted : ∀ l : LineIdx, t.lineAsserted l = s.lineAsserted l

theorem converts_none (s : State) (l : LineIdx) : converts (fun _ => false) s l = false := by simp [converts]

theorem MonitorsGone.refl (p : Port) (s : State) : MonitorsGone p (fun _ => false) s s where
  only := rfl
  monitor _ := rfl
  host l h := by rw [converts_none]; simp
  start _ := rfl
  trip _ _ := rfl
  asserted _ := rfl

theorem MonitorsGone.trans {sel sel' : MonitorIdx → Bool} (h : MonitorsGone p sel s t) (h' : MonitorsGone p sel' t u) :
    MonitorsGone p (fun k => sel k || sel' k) s u where
  only := by rw [h'.only]; rw [h.only]
  monitor k := by
    rw [h'.monitor, h.monitor]
    cases sel k <;> cases sel' k <;> rfl
  host l q := by
    have parts : converts (fun k => sel k || sel' k) s l = (converts sel s l || converts sel' t l) := by
      have each : ∀ k, ((sel k || sel' k) && (s.monitor k).any (fun m => heldLine m == some l)) =
          ((sel k && (s.monitor k).any (fun m => heldLine m == some l)) ||
            (sel' k && (t.monitor k).any (fun m => heldLine m == some l))) := by
        intro k
        rw [h.monitor]
        cases sel k <;> cases sel' k <;> simp
      simp only [converts, each, any_or]
    rw [h'.host, h.host, parts, Bool.or_assoc, ← Bool.and_or_distrib_left]
  start l := (h'.start l).trans (h.start l)
  trip l k := (h'.trip l k).trans (h.trip l k)
  asserted l := (h'.asserted l).trans (h.asserted l)

theorem claims_deleteMonitor_other {k : MonitorIdx} {m : Monitor} (laws : ClaimLaws s) (entry : s.monitor k = some m)
    (l : LineIdx) (c : Claimant) (notMonitor : c ≠ .monitor k) (notHost : c ≠ .host m.creator ∨ heldLine m ≠ some l) :
    (deleteMonitor k s).claims l c = s.claims l c := by
  obtain ⟨-, lines⟩ := MonitorDeletion.deleteMonitor_claims laws entry
  simp only [State.claims, lines]
  split
  · next held =>
    have host : claimantIndex c ≠ claimantIndex (.host m.creator) := fun same =>
      notHost.elim (fun other => other (claimantIndex_injective same)) (fun no => no held)
    have monitor : claimantIndex c ≠ claimantIndex (.monitor k) := fun same => notMonitor (claimantIndex_injective same)
    exact (MonitorDeletion.getElem_converted ..).trans ((if_neg host).trans (if_neg monitor))
  · rfl

theorem claims_deleteMonitor_host {k : MonitorIdx} {m : Monitor} (laws : ClaimLaws s) (entry : s.monitor k = some m)
    (l : LineIdx) (h : Port) :
    (deleteMonitor k s).claims l (.host h) =
      (s.claims l (.host h) || (h == m.creator && heldLine m == some l)) := by
  by_cases converts : h = m.creator ∧ heldLine m = some l
  · obtain ⟨rfl, held⟩ := converts
    obtain ⟨-, lines⟩ := MonitorDeletion.deleteMonitor_claims laws entry
    have now : (deleteMonitor k s).claims l (.host m.creator) = true := by
      rw [State.claims, lines, if_pos held]
      exact (MonitorDeletion.getElem_converted ..).trans (if_pos rfl)
    rw [now, held]
    simp
  · have not : (h == m.creator && heldLine m == some l) = false := by simpa using converts
    rw [not, Bool.or_false]
    refine claims_deleteMonitor_other laws entry l _ (by simp) ?_
    by_cases own : h = m.creator
    · exact .inr fun held => converts ⟨own, held⟩
    · exact .inl (by simpa using own)

theorem monitorsGone_deleteMonitor {k : MonitorIdx} {m : Monitor} (laws : ClaimLaws s) (entry : s.monitor k = some m)
    (own : m.creator = p) : MonitorsGone p (· == k) s (deleteMonitor k s) where
  only := (MonitorDeletion.deleteMonitor_claims laws entry).1
  monitor j := by
    rw [monitor_deleteMonitor]
    by_cases here : j = k
    · simp [here]
    · simp [here]
  host l h := by
    have sole : converts (· == k) s l = (heldLine m == some l) := by
      have at_k : ∀ j, ((j == k) && (s.monitor j).any (fun m => heldLine m == some l)) = ((j == k) && (heldLine m == some l)) := by
        intro j
        by_cases here : j = k
        · rw [here, entry]; rfl
        · rw [beq_false_of_ne here]; rfl
      simp only [converts, at_k]
      cases heldLine m == some l with
      | false => simp
      | true => simp [allMonitors]
    rw [claims_deleteMonitor_host laws entry, sole, own]
  start l := claims_deleteMonitor_other laws entry l _ (by simp) (.inl (by simp))
  trip l j := claims_deleteMonitor_other laws entry l _ (by simp) (.inl (by simp))
  asserted l := MonitorDeletion.lineAsserted_deleteMonitor laws entry l

/-- One step of the deletion of the monitors of port `p` on point `i`. -/
def deleteIfCreated (p : Port) (i : PointIdx) (s : State) (k : MonitorIdx) : State :=
  match s.monitor k with
  | some m => if m.creator = p ∧ m.point = i then deleteMonitor k s else s
  | none => s

theorem monitorsGone_deleteIfCreated (i : PointIdx) (k : MonitorIdx) (laws : ClaimLaws s) :
    MonitorsGone p (fun j => j == k && createdOn p i (s.monitor j)) s (deleteIfCreated p i s k) := by
  have at_k {b : Bool} (value : createdOn p i (s.monitor k) = b) :
      (fun j => j == k && createdOn p i (s.monitor j)) = fun j => j == k && b := by
    funext j
    by_cases here : j = k
    · rw [here, value]
    · rw [beq_false_of_ne here]; rfl
  unfold deleteIfCreated
  split
  · next m entry =>
    split
    · next created =>
      rw [at_k (b := true) (by simp [createdOn, entry, created])]
      simp only [Bool.and_true]
      exact monitorsGone_deleteMonitor laws entry created.1
    · next other =>
      rw [at_k (b := false) (by simpa [createdOn, entry] using other)]
      simpa using MonitorsGone.refl p s
  · next free =>
    rw [at_k (b := false) (by simp [createdOn, free])]
    simpa using MonitorsGone.refl p s

theorem claimLaws_deleteIfCreated (i : PointIdx) (k : MonitorIdx) (laws : ClaimLaws s) :
    ClaimLaws (deleteIfCreated p i s k) := by
  unfold deleteIfCreated
  split
  · split
    · exact ClaimLawsKept.claimLaws_deleteMonitor laws k
    · exact laws
  · exact laws

theorem monitorsGone_foldl (i : PointIdx) (ks : List MonitorIdx) (distinct : ks.Nodup) (laws : ClaimLaws s) :
    MonitorsGone p (fun k => decide (k ∈ ks) && createdOn p i (s.monitor k)) s (ks.foldl (deleteIfCreated p i) s) := by
  induction ks generalizing s with
  | nil => simpa using MonitorsGone.refl p s
  | cons x xs ih =>
    obtain ⟨fresh, distinct⟩ := List.nodup_cons.mp distinct
    have first := monitorsGone_deleteIfCreated (p := p) i x laws
    have rest := ih distinct (claimLaws_deleteIfCreated (p := p) i x laws)
    have joined := first.trans rest
    have same : (fun k => decide (k ∈ x :: xs) && createdOn p i (s.monitor k)) =
        fun k => (k == x && createdOn p i (s.monitor k)) ||
          (decide (k ∈ xs) && createdOn p i ((deleteIfCreated p i s x).monitor k)) := by
      funext k
      rw [first.monitor]
      by_cases here : k = x
      · subst here
        simp [fresh]
      · simp [here]
    rw [same]
    exact joined

theorem monitorsGone_deleteMonitorsOn (p : Port) (i : PointIdx) (laws : ClaimLaws s) :
    MonitorsGone p (fun k => createdOn p i (s.monitor k)) s (deleteMonitorsOn p i s) := by
  have all := monitorsGone_foldl (p := p) i allMonitors (List.nodup_finRange 8) laws
  have everyone : (fun k => decide (k ∈ allMonitors) && createdOn p i (s.monitor k)) =
      fun k => createdOn p i (s.monitor k) := by
    funext k
    simp [allMonitors]
  rw [everyone] at all
  exact all

/-- The claims of monitors follow the monitors that are left. -/
theorem claims_monitor_of_filter {k : MonitorIdx} {keep : Monitor → Bool} (lawsBefore : ClaimLaws s) (lawsAfter : ClaimLaws t)
    (entry : t.monitor k = (s.monitor k).filter keep) (l : LineIdx) :
    t.claims l (.monitor k) = (s.claims l (.monitor k) && (t.monitor k).isSome) := by
  have before := lawsBefore.2.1 k l
  have after := lawsAfter.2.1 k l
  rw [Bool.eq_iff_iff, Bool.and_eq_true, before, after, entry]
  cases monitor : s.monitor k with
  | none => simp
  | some m => cases kept : keep m <;> simp [Option.filter, kept]

theorem monitorsLeave_deleteMonitorsOn (p : Port) (i : PointIdx) (laws : ClaimLaws s) :
    MonitorsLeave p (· == i) s (deleteMonitorsOn p i s) := by
  have gone := monitorsGone_deleteMonitorsOn p i laws
  have after := ClaimLawsKept.claimLaws_deleteMonitorsOn laws p i
  have entry : ∀ k, (deleteMonitorsOn p i s).monitor k = monitorLeft p (· == i) (s.monitor k) := monitor_deleteMonitorsOn p i s
  refine ⟨entry, fun l h => ?_, fun l k => claims_monitor_of_filter laws after (entry k) l,
    fun l => ⟨gone.start l, gone.asserted l, gone.trip l⟩, ?_⟩
  · rw [gone.host]
    congr 2
    simp only [converts, convertsTo]
    congr 1
    funext k
    cases s.monitor k with
    | none => rfl
    | some m => simp [createdOn]
  · rw [gone.only]

/-- Leaving some points and then others is leaving all of them. -/
theorem monitorsLeave_trans {on on' : PointIdx → Bool} (h : MonitorsLeave p on s t) (h' : MonitorsLeave p on' t u) :
    MonitorsLeave p (fun i => on i || on' i) s u := by
  obtain ⟨entry, host, monitor, rest, queues⟩ := h
  obtain ⟨entry', host', monitor', rest', queues'⟩ := h'
  refine ⟨fun k => ?_, fun l q => ?_, fun l k => ?_, fun l => ⟨?_, ?_, fun k => ?_⟩, queues'.trans queues⟩
  · rw [entry', entry, monitorLeft, monitorLeft, monitorLeft, Option.filter_filter]
    congr 1
    funext m
    cases m.creator == p <;> simp
  · have parts : convertsTo p (fun i => on i || on' i) s l = (convertsTo p on s l || convertsTo p on' t l) := by
      have each : ∀ k, ((s.monitor k).any (fun m => m.creator == p && (on m.point || on' m.point) && heldLine m == some l)) =
          ((s.monitor k).any (fun m => m.creator == p && on m.point && heldLine m == some l) ||
            (t.monitor k).any (fun m => m.creator == p && on' m.point && heldLine m == some l)) := by
        intro k
        rw [entry, monitorLeft]
        cases s.monitor k with
        | none => rfl
        | some m => cases own : m.creator == p <;> cases left : on m.point <;> simp [Option.filter, own, left]
      simp only [convertsTo, each, any_or]
    rw [host', host, parts, Bool.or_assoc, ← Bool.and_or_distrib_left]
  · rw [monitor', monitor, entry', Bool.and_assoc]
    cases t.monitor k <;> simp [monitorLeft]
  · exact (rest' l).1.trans (rest l).1
  · exact (rest' l).2.1.trans (rest l).2.1
  · exact ((rest' l).2.2 k).trans ((rest l).2.2 k)

end Monitors

/-! ### The leaving of a list (R6, R17, R18) -/

section List

variable {p : Port} {i : PointIdx} {s : State}

/-- `t` is `s` but that port `p` has left the list of point `i`, with what follows for the entry and the waiting places. -/
structure LeavesList (p : Port) (i : PointIdx) (s t : State) : Prop where
  only : OnlyPlaces s t
  point : ∀ j : PointIdx, t.point j = if j = i then departed p (s.point i) else s.point j
  urgentQueue : t.urgentQueue =
    if (s.point i).subscribers = [p] ∧ (s.point i).state = .due ∧ (s.point i).key.urgent = true then s.urgentQueue.erase i
    else s.urgentQueue
  fifo : ∀ q : Port, t.fifo q =
    if (s.point i).state = .due ∧ (s.point i).key.urgent = false ∧ (s.point i).subscribers.head? = some p then
      (if q = p then (s.fifo p).erase (.point i) else s.fifo q) ++
        (if ((s.point i).subscribers.erase p).head? = some q then [.point i] else [])
    else s.fifo q
  suspended : t.suspended =
    if (s.point i).subscribers = [p] ∧ (s.point i).state = .suspended then none else s.suspended

/-- The entry is written last, after the waiting places. -/
theorem LeavesList.of_setPoint {w : State} {v : PointEntry} (places : OnlyPlaces s (w.setPoint i v))
    (points : w.points = s.points) (entry : v = departed p (s.point i))
    (urgentQueue : w.urgentQueue =
      if (s.point i).subscribers = [p] ∧ (s.point i).state = .due ∧ (s.point i).key.urgent = true then s.urgentQueue.erase i
      else s.urgentQueue)
    (fifo : ∀ q : Port, w.fifo q =
      if (s.point i).state = .due ∧ (s.point i).key.urgent = false ∧ (s.point i).subscribers.head? = some p then
        (if q = p then (s.fifo p).erase (.point i) else s.fifo q) ++
          (if ((s.point i).subscribers.erase p).head? = some q then [.point i] else [])
      else s.fifo q)
    (suspended : w.suspended =
      if (s.point i).subscribers = [p] ∧ (s.point i).state = .suspended then none else s.suspended) :
    LeavesList p i s (w.setPoint i v) where
  only := places
  point j := by
    rw [point_setPoint_eq, ← entry, State.point, points]
    rfl
  urgentQueue := urgentQueue
  fifo := fifo
  suspended := suspended

theorem departed_frees {e : PointEntry} (sole : e.subscribers = [p]) (idle : e.state ≠ .converting) :
    departed p e = .cleared := by
  simp [departed, sole, idle]

theorem departed_retires {e : PointEntry} (sole : e.subscribers = [p]) (converting : e.state = .converting) :
    departed p e =
      { e with state := .retiring, subscribers := [], divider := 0, countdown := none, delayTimer := none } := by
  simp [departed, sole, converting]

theorem erase_ne_nil {ps : List Port} (among : p ∈ ps) (others : ps ≠ [p]) : ps.erase p ≠ [] := fun none => by
  have size := List.length_erase_of_mem among
  rw [none, List.length_nil] at size
  have one : ps.length = 1 := by
    have := List.length_pos_of_mem among
    omega
  obtain ⟨q, list⟩ := List.length_eq_one_iff.mp one
  rw [list, List.mem_singleton] at among
  exact others (by rw [list, among])

theorem departed_rest {e : PointEntry} (among : p ∈ e.subscribers) (others : e.subscribers ≠ [p]) :
    departed p e = { e with subscribers := e.subscribers.erase p } := by
  simp only [departed, if_pos among]
  split
  · next none => exact absurd none (erase_ne_nil among others)
  · rfl

theorem departed_absent {e : PointEntry} (absent : p ∉ e.subscribers) : departed p e = e := if_neg absent

section Last

variable (sole : (s.point i).subscribers = [p])

include sole

theorem leaveList_last : leaveList p i s = listEmptied p i (s.setPoint i { s.point i with subscribers := [] }) := by
  have empty : (s.point i).subscribers.erase p = [] := by rw [sole]; simp
  simp only [leaveList, empty]

theorem leaveList_frees (calm : (s.point i).state = .armed ∨ (s.point i).state = .delaying) :
    leaveList p i s = s.setPoint i .cleared := by
  rw [leaveList_last sole]
  rcases calm with state | state
  · simp only [listEmptied, point_setPoint, state, freePoint, setPoint_setPoint]
  · simp only [listEmptied, point_setPoint, state, freePoint, setPoint_setPoint]

theorem leaveList_unqueues (state : (s.point i).state = .due) (urgent : (s.point i).key.urgent = true) :
    leaveList p i s = { s with urgentQueue := s.urgentQueue.erase i }.setPoint i .cleared := by
  rw [leaveList_last sole]
  simp only [listEmptied, point_setPoint, state, freePoint, dequeueDue, urgent, if_true]
  exact setPoint_setPoint { s with urgentQueue := s.urgentQueue.erase i } i _ _

theorem leaveList_unpends (state : (s.point i).state = .due) (background : (s.point i).key.urgent = false) :
    leaveList p i s = (s.setFifo p ((s.fifo p).erase (.point i))).setPoint i .cleared := by
  rw [leaveList_last sole]
  simp only [listEmptied, point_setPoint, state, freePoint, dequeueDue, background, Bool.false_eq_true, if_false]
  exact setPoint_setPoint (s.setFifo p ((s.fifo p).erase (.point i))) i _ _

theorem leaveList_drops (state : (s.point i).state = .suspended) :
    leaveList p i s = { s with suspended := none }.setPoint i .cleared := by
  rw [leaveList_last sole]
  simp only [listEmptied, point_setPoint, state, freePoint]
  exact setPoint_setPoint { s with suspended := none } i _ _

theorem leaveList_retires (state : (s.point i).state = .converting) :
    leaveList p i s = s.setPoint i { s.point i with state := .retiring, subscribers := [], divider := 0, countdown := none,
                                                    delayTimer := none } := by
  rw [leaveList_last sole]
  simp only [listEmptied, point_setPoint, state, retirePoint, State.modPoint, setPoint_setPoint]

/-- The last port leaves: the entry's state decides (R18). -/
theorem leavesList_last (alive : live (s.point i) = true) : LeavesList p i s (leaveList p i s) := by
  have places := leaveList_places p i s
  have head : (s.point i).subscribers.head? = some p := by rw [sole]; rfl
  have empty : ((s.point i).subscribers.erase p).head? = none := by rw [sole]; simp
  cases state : (s.point i).state with
  | free => simp [live, state] at alive
  | retiring => simp [live, state] at alive
  | armed =>
    rw [leaveList_frees sole (.inl state)] at places ⊢
    refine .of_setPoint places rfl (departed_frees sole (by rw [state]; decide)).symm ?_ (fun q => ?_) ?_
    · rw [if_neg (by simp [state])]
    · rw [if_neg (by simp [state])]
    · rw [if_neg (by simp [state])]
  | delaying =>
    rw [leaveList_frees sole (.inr state)] at places ⊢
    refine .of_setPoint places rfl (departed_frees sole (by rw [state]; decide)).symm ?_ (fun q => ?_) ?_
    · rw [if_neg (by simp [state])]
    · rw [if_neg (by simp [state])]
    · rw [if_neg (by simp [state])]
  | due =>
    cases urgent : (s.point i).key.urgent with
    | true =>
      rw [leaveList_unqueues sole state urgent] at places ⊢
      refine .of_setPoint places rfl (departed_frees sole (by rw [state]; decide)).symm ?_ (fun q => ?_) ?_
      · rw [if_pos ⟨sole, state, urgent⟩]
      · rw [if_neg (by simp [urgent])]; rfl
      · rw [if_neg (by simp [state])]
    | false =>
      rw [leaveList_unpends sole state urgent] at places ⊢
      refine .of_setPoint places rfl (departed_frees sole (by rw [state]; decide)).symm ?_ (fun q => ?_) ?_
      · rw [if_neg (by simp [urgent])]; rfl
      · rw [if_pos ⟨state, urgent, head⟩, fifo_setFifo_eq, empty]
        simp
      · rw [if_neg (by simp [state])]; rfl
  | suspended =>
    rw [leaveList_drops sole state] at places ⊢
    refine .of_setPoint places rfl (departed_frees sole (by rw [state]; decide)).symm ?_ (fun q => ?_) ?_
    · rw [if_neg (by simp [state])]
    · rw [if_neg (by simp [state])]; rfl
    · rw [if_pos ⟨sole, state⟩]
  | converting =>
    rw [leaveList_retires sole state] at places ⊢
    refine .of_setPoint places rfl (departed_retires sole state).symm ?_ (fun q => ?_) ?_
    · rw [if_neg (by simp [state])]
    · rw [if_neg (by simp [state])]
    · rw [if_neg (by simp [state])]

end Last

/-- Others remain: a non-urgent DUE point whose sponsor leaves passes to the next (R6, R63). -/
theorem leavesList_rest (among : p ∈ (s.point i).subscribers) (others : (s.point i).subscribers ≠ [p]) :
    LeavesList p i s (leaveList p i s) := by
  have places := leaveList_places p i s
  have gone := departed_rest among others
  obtain ⟨next, rest, left⟩ := List.exists_cons_of_ne_nil (erase_ne_nil among others)
  let t := s.setPoint i { s.point i with subscribers := (s.point i).subscribers.erase p }
  have leaves : leaveList p i s = if (s.point i).subscribers.head? = some p then handover i p next t else t := by
    simp only [leaveList, left, t]
  have entry (j : PointIdx) : t.point j = if j = i then departed p (s.point i) else s.point j := by
    rw [gone]; exact point_setPoint_eq ..
  by_cases moves : (s.point i).state = .due ∧ (s.point i).key.urgent = false ∧ (s.point i).subscribers.head? = some p
  · obtain ⟨state, background, head⟩ := moves
    have hands : leaveList p i s = enqueuePending next (.point i) (t.modFifo p (·.erase (.point i))) := by
      rw [leaves, if_pos head, handover, if_pos]
      simp [t, state, background]
    rw [hands] at places ⊢
    refine ⟨places, entry, ?_, fun q => ?_, ?_⟩
    · rw [if_neg fun emptied => others emptied.1]; rfl
    · rw [if_pos ⟨state, background, head⟩, left]
      simp only [enqueuePending, State.modFifo, fifo_setFifo_eq, List.head?_cons, Option.some.injEq]
      by_cases here : q = next
      · subst here
        simp only [if_true]
        rfl
      · simp only [if_neg here, if_neg (Ne.symm here), List.append_nil]
        rfl
    · rw [if_neg fun emptied => others emptied.1]; rfl
  · have stays : leaveList p i s = t := by
      rw [leaves]
      split
      · next head =>
        have not : ¬((t.point i).state = .due ∧ (t.point i).key.urgent = false) := by
          rintro ⟨state, background⟩
          rw [entry, if_pos rfl, gone] at state background
          exact moves ⟨state, background, head⟩
        rw [handover, if_neg not]
      · rfl
    rw [stays] at places ⊢
    refine ⟨places, entry, ?_, fun q => ?_, ?_⟩
    · rw [if_neg fun emptied => others emptied.1]; rfl
    · rw [if_neg moves]
      rfl
    · rw [if_neg fun emptied => others emptied.1]; rfl

theorem leavesList (among : p ∈ (s.point i).subscribers) (alive : live (s.point i) = true) :
    LeavesList p i s (leaveList p i s) := by
  by_cases sole : (s.point i).subscribers = [p]
  · exact leavesList_last sole alive
  · exact leavesList_rest among sole

end List

/-! ### The laws that join the tables -/

/-- The table laws but for those of the converter's own burst and conversion, and of what waits for it. -/
structure Joined (s : State) : Prop where
  lists : ∀ i : PointIdx, ListLaw (s.point i)
  triggers : ∀ i : PointIdx, TriggerLaw (s.point i)
  places : ∀ i : PointIdx, PlaceLaw s i
  subscriptions : SubscriptionLaw s
  creators : CreatorLaw s
  urgent : UrgentLaw s
  urgentNodup : s.urgentQueue.Nodup
  fifoNodup : ∀ p : Port, (s.fifo p).Nodup
  jobs : ∀ g ∈ allGains, JobLaw s g

theorem joined_of_tableLaws {s : State} (laws : TableLaws s) : Joined s := by
  obtain ⟨entries, subscriptions, creators, urgent, urgentNodup, fifoNodup, jobs, -⟩ := laws
  exact ⟨fun i => (entries i).1, fun i => (entries i).2.1, fun i => (entries i).2.2, subscriptions, creators, urgent,
    urgentNodup, fifoNodup, jobs⟩

section Entry

variable {p q : Port} {e : PointEntry}

/-- The last port leaves a CONVERTING entry or another, or a port leaves others behind (R18). -/
theorem departed_cases (among : p ∈ e.subscribers) :
    (e.subscribers = [p] ∧ e.state = .converting ∧ departed p e =
      { e with state := .retiring, subscribers := [], divider := 0, countdown := none, delayTimer := none }) ∨
    (e.subscribers = [p] ∧ e.state ≠ .converting ∧ departed p e = .cleared) ∨
    (e.subscribers ≠ [p] ∧ departed p e = { e with subscribers := e.subscribers.erase p }) := by
  by_cases sole : e.subscribers = [p]
  · by_cases converting : e.state = .converting
    · exact .inl ⟨sole, converting, departed_retires sole converting⟩
    · exact .inr (.inl ⟨sole, converting, departed_frees sole converting⟩)
  · exact .inr (.inr ⟨sole, departed_rest among sole⟩)

theorem live_iff : live e = true ↔ e.state ≠ .free ∧ e.state ≠ .retiring := by simp [live]

theorem listLaw_departed (law : ListLaw e) (among : p ∈ e.subscribers) : ListLaw (departed p e) := by
  obtain ⟨free, retiring, distinct⟩ := law
  have busy : e.subscribers ≠ [] := List.ne_nil_of_mem among
  rcases departed_cases among with ⟨-, -, entry⟩ | ⟨-, -, entry⟩ | ⟨others, entry⟩
  · rw [entry]; exact ⟨by simp, by simp, List.nodup_nil⟩
  · rw [entry]; exact ⟨by simp [PointEntry.cleared], by simp [PointEntry.cleared], List.nodup_nil⟩
  · rw [entry]
    refine ⟨?_, fun state => absurd (retiring state) busy, distinct.erase _⟩
    simp only [erase_ne_nil among others, false_and, iff_false]
    exact fun state => busy (free.mp state).1

theorem triggerLaw_departed (law : TriggerLaw e) (among : p ∈ e.subscribers) : TriggerLaw (departed p e) := by
  rcases departed_cases among with ⟨-, -, entry⟩ | ⟨-, -, entry⟩ | ⟨-, entry⟩
  · rw [entry]; exact ⟨by simp, by simp, by simp [live]⟩
  · rw [entry]; exact ⟨by simp [PointEntry.cleared], by simp [PointEntry.cleared], by simp [live, PointEntry.cleared]⟩
  · rw [entry]; exact law

theorem state_departed_waiting {state : PointState} (waiting : state = .due ∨ state = .suspended)
    (among : p ∈ e.subscribers) : (departed p e).state = state ↔ e.state = state ∧ e.subscribers ≠ [p] := by
  rcases departed_cases among with ⟨sole, -, entry⟩ | ⟨sole, -, entry⟩ | ⟨others, entry⟩
  · rcases waiting with rfl | rfl <;> simp [entry, sole]
  · rcases waiting with rfl | rfl <;> simp [entry, sole, PointEntry.cleared]
  · simp [entry, others]

theorem state_departed_holding (alive : live e = true) (among : p ∈ e.subscribers) :
    ((departed p e).state = .converting ∨ (departed p e).state = .retiring) ↔
      (e.state = .converting ∨ e.state = .retiring) := by
  have notRetiring := (live_iff.mp alive).2
  rcases departed_cases among with ⟨-, converting, entry⟩ | ⟨-, idle, entry⟩ | ⟨-, entry⟩
  · simp [entry, converting]
  · simp [entry, idle, notRetiring, PointEntry.cleared]
  · simp [entry]

theorem key_departed (among : p ∈ e.subscribers) (others : e.subscribers ≠ [p]) : (departed p e).key = e.key := by
  rw [departed_rest among others]

theorem subscribers_departed : (departed p e).subscribers = e.subscribers.erase p := by
  by_cases among : p ∈ e.subscribers
  · rcases departed_cases among with ⟨sole, -, entry⟩ | ⟨sole, -, entry⟩ | ⟨others, entry⟩
    · rw [entry, sole]; simp
    · rw [entry, sole]; simp [PointEntry.cleared]
    · rw [entry]
  · rw [departed_absent among, List.erase_of_not_mem among]

end Entry
/-! ### A subscription that is removed (R17, R18) -/

section Removal

variable {p : Port} {k : SlotIdx} {i : PointIdx} {s t : State}

/-- `t` is `s` but that port `p` has left point `i`, which it held in slot `k`, in the point's entry, its own table and the
waiting places. -/
structure LeavesPlaces (p : Port) (k : SlotIdx) (i : PointIdx) (s t : State) : Prop where
  point : ∀ j : PointIdx, t.point j = if j = i then departed p (s.point i) else s.point j
  slot : ∀ q : Port, ∀ j : SlotIdx, t.slot q j = if q = p ∧ j = k then none else s.slot q j
  urgentQueue : t.urgentQueue = if (s.point i).subscribers = [p] then s.urgentQueue.filter (· != i) else s.urgentQueue
  fifo : ∀ q : Port, t.fifo q =
    if ((s.point i).state = .due ∧ (s.point i).key.urgent = false) ∧ (s.point i).subscribers.head? = some p then
      (s.fifo q).filter (· != .point i) ++
        (if ((s.point i).subscribers.erase p).head? = some q then [.point i] else [])
    else s.fifo q
  suspended : t.suspended =
    if (s.point i).subscribers = [p] ∧ (s.point i).state = .suspended then none else s.suspended
  monitor : ∀ j : MonitorIdx, t.monitor j = monitorLeft p (· == i) (s.monitor j)
  converter : t.converter = s.converter
  jobs : t.jobs = s.jobs

/-- The port holds point `i`, live, in its slot `k`. -/
structure Holds (p : Port) (k : SlotIdx) (i : PointIdx) (s : State) : Prop where
  slot : (s.slot p k).map (·.point) = some i
  among : p ∈ (s.point i).subscribers
  alive : live (s.point i) = true

theorem Joined.alive_of_mem (laws : Joined s) (among : p ∈ (s.point i).subscribers) : live (s.point i) = true := by
  obtain ⟨free, retiring, -⟩ := laws.lists i
  have busy : (s.point i).subscribers ≠ [] := List.ne_nil_of_mem among
  exact live_iff.mpr ⟨fun state => busy (free.mp state).1, fun state => busy (retiring state)⟩

theorem Joined.holds (laws : Joined s) (slot : (s.slot p k).map (·.point) = some i) : Holds p k i s := by
  have among := (laws.subscriptions.1 p i).mpr ⟨k, slot⟩
  exact ⟨slot, among, laws.alive_of_mem among⟩

theorem removeSubscription_of_slot {u : Subscription} (slot : s.slot p k = some u) :
    removeSubscription p k s = leaveList p u.point (deleteMonitorsOn p u.point (s.setSlot p k none)) := by
  simp only [removeSubscription, slot]

theorem removeSubscription_of_none (slot : s.slot p k = none) : removeSubscription p k s = s := by
  simp only [removeSubscription, slot]

theorem slot_setSlot_eq (s : State) (p q : Port) (k j : SlotIdx) (v : Option Subscription) :
    (s.setSlot p k v).slot q j = if q = p ∧ j = k then v else s.slot q j := by
  split
  · next here => rw [here.1, here.2, slot_setSlot]
  · next away =>
    by_cases port : q = p
    · subst port
      exact slot_setSlot_slot_ne s q k j v fun slot => away ⟨rfl, slot⟩
    · exact slot_setSlot_port_ne s p q k j v port

theorem urgentQueue_left (laws : Joined s) :
    (if (s.point i).subscribers = [p] ∧ (s.point i).state = .due ∧ (s.point i).key.urgent = true then s.urgentQueue.erase i
      else s.urgentQueue) =
    if (s.point i).subscribers = [p] then s.urgentQueue.filter (· != i) else s.urgentQueue := by
  have place := (laws.places i).1
  by_cases sole : (s.point i).subscribers = [p]
  · by_cases waits : (s.point i).state = .due ∧ (s.point i).key.urgent = true
    · rw [if_pos ⟨sole, waits⟩, if_pos sole, laws.urgentNodup.erase_eq_filter]
    · have absent : i ∉ s.urgentQueue := fun waiting => waits (place.mp waiting)
      rw [if_neg fun all => waits all.2, if_pos sole, List.filter_eq_self.mpr]
      intro j waiting
      simpa using fun same : j = i => absent (same ▸ waiting)
  · rw [if_neg fun all => sole all.1, if_neg sole]

theorem fifo_left (laws : Joined s) (head : (s.point i).subscribers.head? = some p) (q : Port) :
    (if q = p then (s.fifo p).erase (.point i) else s.fifo q) = (s.fifo q).filter (· != .point i) := by
  split
  · next own => rw [own, (laws.fifoNodup p).erase_eq_filter]
  · next other =>
    have absent : Subject.point i ∉ s.fifo q := fun waiting => by
      obtain ⟨-, -, sponsor⟩ := ((laws.places i).2.1 q).mp waiting
      rw [State.sponsor, head] at sponsor
      exact other (Option.some.inj sponsor).symm
    refine (List.filter_eq_self.mpr fun x waiting => ?_).symm
    simpa using fun same : x = .point i => absent (same ▸ waiting)

/-- The removal of a subscription by steps 3 to 5 of R17, from a state that differs only in the slot, monitors and
claims. -/
theorem leavesPlaces_of_leavesList {u : State} (laws : Joined s) (holds : Holds p k i s)
    (points : u.points = s.points) (slot : ∀ q : Port, ∀ j : SlotIdx, u.slot q j = if q = p ∧ j = k then none else s.slot q j)
    (urgentQueue : u.urgentQueue = s.urgentQueue) (fifos : u.fifos = s.fifos) (suspended : u.suspended = s.suspended)
    (monitor : ∀ j : MonitorIdx, u.monitor j = monitorLeft p (· == i) (s.monitor j))
    (converter : u.converter = s.converter) (jobs : u.jobs = s.jobs) :
    LeavesPlaces p k i s (leaveList p i u) := by
  have point (j : PointIdx) : u.point j = s.point j := by rw [State.point, points]; rfl
  have fifo (q : Port) : u.fifo q = s.fifo q := by rw [State.fifo, fifos]; rfl
  have left := leavesList (s := u) (p := p) (i := i) (by rw [point]; exact holds.among) (by rw [point]; exact holds.alive)
  refine ⟨fun j => ?_, fun q j => ?_, ?_, fun q => ?_, ?_, fun j => ?_, ?_, ?_⟩
  · rw [left.point, point, point]
  · rw [left.only.slot, slot]
  · rw [left.urgentQueue, point, urgentQueue]
    exact urgentQueue_left laws
  · rw [left.fifo, point, fifo, fifo]
    by_cases moves : ((s.point i).state = .due ∧ (s.point i).key.urgent = false) ∧ (s.point i).subscribers.head? = some p
    · rw [if_pos moves, if_pos ⟨moves.1.1, moves.1.2, moves.2⟩, fifo_left laws moves.2]
    · rw [if_neg moves, if_neg fun all => moves ⟨⟨all.1, all.2.1⟩, all.2.2⟩]
  · rw [left.suspended, point, suspended]
  · rw [left.only.monitor, monitor]
  · rw [left.only]; exact converter
  · rw [left.only]; exact jobs

theorem leavesPlaces_removeSubscription (laws : Joined s) (holds : Holds p k i s) :
    LeavesPlaces p k i s (removeSubscription p k s) := by
  obtain ⟨u, slot, rfl⟩ := Option.map_eq_some_iff.mp holds.slot
  rw [removeSubscription_of_slot slot]
  have only := deleteMonitorsOn_only p u.point (s.setSlot p k none)
  have monitor := monitor_deleteMonitorsOn p u.point (s.setSlot p k none)
  have slots := slot_setSlot_eq s p
  generalize deleteMonitorsOn p u.point (s.setSlot p k none) = w at only monitor ⊢
  have table (q : Port) (j : SlotIdx) : w.slot q j = (s.setSlot p k none).slot q j := by rw [only]; rfl
  refine leavesPlaces_of_leavesList laws holds ?_ (fun q j => (table q j).trans (slots ..)) ?_ ?_ ?_ monitor ?_ ?_
  · rw [only]; rfl
  · rw [only]; rfl
  · rw [only]; rfl
  · rw [only]; rfl
  · rw [only]; rfl
  · rw [only]; rfl

end Removal
/-! ### The laws after a removal -/

section Kept

variable {p : Port} {k : SlotIdx} {i : PointIdx} {s t : State}

theorem LeavesPlaces.point_same (left : LeavesPlaces p k i s t) : t.point i = departed p (s.point i) := by
  rw [left.point, if_pos rfl]

theorem LeavesPlaces.point_other (left : LeavesPlaces p k i s t) {j : PointIdx} (other : j ≠ i) : t.point j = s.point j := by
  rw [left.point, if_neg other]

theorem LeavesPlaces.job (left : LeavesPlaces p k i s t) (g : Gain) : t.job g = s.job g := by
  rw [State.job, left.jobs]; rfl

/-- What every entry has and a departure keeps, every entry has after it. -/
theorem LeavesPlaces.each_point (left : LeavesPlaces p k i s t) {P : PointEntry → Prop} (before : ∀ j, P (s.point j))
    (kept : P (s.point i) → P (departed p (s.point i))) (j : PointIdx) : P (t.point j) := by
  by_cases here : j = i
  · rw [here, left.point_same]; exact kept (before i)
  · rw [left.point_other here]; exact before j

theorem LeavesPlaces.slot_of (left : LeavesPlaces p k i s t) {q : Port} {l : SlotIdx} {u : Subscription}
    (slot : t.slot q l = some u) : ¬(q = p ∧ l = k) ∧ s.slot q l = some u := by
  rw [left.slot] at slot
  split at slot
  · exact nomatch slot
  · next away => exact ⟨away, slot⟩

theorem LeavesPlaces.urgentPlace (left : LeavesPlaces p k i s t) (laws : Joined s) (holds : Holds p k i s) (j : PointIdx) :
    j ∈ t.urgentQueue ↔ (t.point j).state = .due ∧ (t.point j).key.urgent = true := by
  have before := (laws.places j).1
  have waits : j ∈ t.urgentQueue ↔ j ∈ s.urgentQueue ∧ ¬((s.point i).subscribers = [p] ∧ j = i) := by
    rw [left.urgentQueue]
    split
    · next sole => simp [sole]
    · next others => simp [others]
  rw [waits, before]
  by_cases here : j = i
  · subst here
    rw [left.point_same, state_departed_waiting (.inl rfl) holds.among]
    by_cases sole : (s.point j).subscribers = [p]
    · simp [sole]
    · simp [sole, key_departed holds.among sole]
  · rw [left.point_other here]
    simp [here]

theorem head_erase_of_ne {ps : List Port} (other : ps.head? ≠ some p) : (ps.erase p).head? = ps.head? := by
  cases ps with
  | nil => rfl
  | cons q qs =>
    have ne : q ≠ p := fun same => other (by rw [same]; rfl)
    rw [List.erase_cons_tail (by simpa using ne)]
    rfl

theorem head_erase_ne {ps : List Port} (distinct : ps.Nodup) : (ps.erase p).head? ≠ some p := fun head =>
  distinct.not_mem_erase (List.mem_of_mem_head? head)

theorem LeavesPlaces.mem_fifo_other (left : LeavesPlaces p k i s t) {x : Subject} (other : x ≠ .point i) (q : Port) :
    x ∈ t.fifo q ↔ x ∈ s.fifo q := by
  rw [left.fifo]
  split
  · by_cases next : ((s.point i).subscribers.erase p).head? = some q
    · simp [next, other]
    · simp [next, other]
  · rfl

theorem LeavesPlaces.pendingPlace (left : LeavesPlaces p k i s t) (laws : Joined s) (holds : Holds p k i s) (j : PointIdx)
    (q : Port) :
    Subject.point j ∈ t.fifo q ↔
      (t.point j).state = .due ∧ (t.point j).key.urgent = false ∧ t.sponsor j = some q := by
  have before := (laws.places j).2.1 q
  by_cases here : j = i
  · subst here
    rw [State.sponsor, left.point_same, state_departed_waiting (.inl rfl) holds.among, subscribers_departed, left.fifo]
    have head : (s.point j).subscribers ≠ [p] → (departed p (s.point j)).key = (s.point j).key := key_departed holds.among
    by_cases sponsor : (s.point j).subscribers.head? = some p
    · by_cases waits : (s.point j).state = .due ∧ (s.point j).key.urgent = false
      · by_cases sole : (s.point j).subscribers = [p]
        · simp [sole, waits]
        · by_cases next : ((s.point j).subscribers.erase p).head? = some q
          · simp [head sole, sole, waits, sponsor, next]
          · simp [head sole, sole, waits, sponsor, next]
      · rw [if_neg fun all => waits all.1, before]
        constructor
        · exact fun all => absurd ⟨all.1, all.2.1⟩ waits
        · rintro ⟨⟨state, others⟩, background, -⟩
          rw [head others] at background
          exact absurd ⟨state, background⟩ waits
    · have others : (s.point j).subscribers ≠ [p] := fun sole => sponsor (by rw [sole]; rfl)
      rw [if_neg fun all => sponsor all.2, before, head_erase_of_ne sponsor, head others, State.sponsor]
      simp [others]
  · rw [left.mem_fifo_other (by simpa using here), before, State.sponsor, State.sponsor, left.point_other here]

theorem LeavesPlaces.place (left : LeavesPlaces p k i s t) (laws : Joined s) (holds : Holds p k i s) (j : PointIdx) :
    PlaceLaw t j := by
  obtain ⟨-, -, converter, suspended⟩ := laws.places j
  refine ⟨left.urgentPlace laws holds j, left.pendingPlace laws holds j, ?_, ?_⟩
  · rw [left.converter, converter]
    by_cases here : j = i
    · subst here
      rw [left.point_same, state_departed_holding holds.alive holds.among]
    · rw [left.point_other here]
  · rw [left.suspended]
    by_cases drops : (s.point i).subscribers = [p] ∧ (s.point i).state = .suspended
    · rw [if_pos drops]
      by_cases here : j = i
      · subst here
        rw [left.point_same, state_departed_waiting (.inr rfl) holds.among]
        simp [drops.1]
      · rw [left.point_other here, ← suspended]
        have held := (laws.places i).2.2.2.mpr drops.2
        rw [held]
        simpa using Ne.symm here
    · rw [if_neg drops, suspended]
      by_cases here : j = i
      · subst here
        rw [left.point_same, state_departed_waiting (.inr rfl) holds.among]
        exact ⟨fun state => ⟨state, fun sole => drops ⟨sole, state⟩⟩, And.left⟩
      · rw [left.point_other here]

theorem LeavesPlaces.subscriptionLaw (left : LeavesPlaces p k i s t) (laws : Joined s) (holds : Holds p k i s) :
    SubscriptionLaw t := by
  obtain ⟨listed, distinct⟩ := laws.subscriptions
  refine ⟨fun q j => ?_, fun q l l' u hu v hv => ?_⟩
  · have subscribers : q ∈ (t.point j).subscribers ↔ q ∈ (s.point j).subscribers ∧ ¬(q = p ∧ j = i) := by
      by_cases here : j = i
      · subst here
        rw [left.point_same, subscribers_departed, (laws.lists j).2.2.mem_erase_iff]
        simp [and_comm]
      · rw [left.point_other here]
        simp [here]
    rw [subscribers, listed]
    constructor
    · rintro ⟨⟨l, slot⟩, away⟩
      refine ⟨l, ?_⟩
      rw [left.slot, if_neg]
      · exact slot
      · rintro ⟨rfl, rfl⟩
        rw [holds.slot] at slot
        exact away ⟨rfl, (Option.some.inj slot).symm⟩
    · rintro ⟨l, slot⟩
      obtain ⟨u, entry, rfl⟩ := Option.map_eq_some_iff.mp slot
      obtain ⟨away, entry⟩ := left.slot_of entry
      refine ⟨⟨l, by rw [entry]; rfl⟩, ?_⟩
      rintro ⟨rfl, same⟩
      obtain ⟨v, own, at_i⟩ := Option.map_eq_some_iff.mp holds.slot
      exact away ⟨rfl, distinct q l k u entry v own (same.trans at_i.symm)⟩
  · exact distinct q l l' u (left.slot_of hu).2 v (left.slot_of hv).2

theorem LeavesPlaces.creatorLaw (left : LeavesPlaces p k i s t) (laws : Joined s) : CreatorLaw t := by
  intro j m entry
  rw [left.monitor, monitorLeft, Option.mem_filter_iff] at entry
  obtain ⟨entry, kept⟩ := entry
  have listed := laws.creators j m entry
  by_cases here : m.point = i
  · have other : m.creator ≠ p := fun own => by simp [own, here] at kept
    rw [here, left.point_same, subscribers_departed]
    exact (List.mem_erase_of_ne other).mpr (here ▸ listed)
  · rw [left.point_other here]
    exact listed

theorem LeavesPlaces.urgentLaw (left : LeavesPlaces p k i s t) (laws : Joined s) (holds : Holds p k i s) : UrgentLaw t := by
  refine le_trans (List.countP_mono_left fun j _ used => ?_) laws.urgent
  by_cases here : j = i
  · subst here
    have free := (live_iff.mp holds.alive).1
    rw [left.point_same] at used
    rcases departed_cases holds.among with ⟨-, -, entry⟩ | ⟨-, -, entry⟩ | ⟨-, entry⟩
    · simpa [entry, free] using used
    · simp [entry, PointEntry.cleared] at used
    · simpa [entry] using used
  · rwa [left.point_other here] at used

theorem LeavesPlaces.fifo_nodup (left : LeavesPlaces p k i s t) (laws : Joined s) (q : Port) : (t.fifo q).Nodup := by
  have before := laws.fifoNodup q
  rw [left.fifo]
  split
  · refine List.nodup_append.mpr ⟨before.filter _, ?_, fun x filtered y handed => ?_⟩
    · split
      · exact List.nodup_singleton _
      · exact List.nodup_nil
    · split at handed
      · rintro rfl
        rw [List.mem_singleton.mp handed] at filtered
        simp at filtered
      · exact absurd handed List.not_mem_nil
  · exact before

theorem LeavesPlaces.jobLaw (left : LeavesPlaces p k i s t) (laws : Joined s) {g : Gain} (among : g ∈ allGains) : JobLaw t g := by
  obtain ⟨pending, running, suspended, requester⟩ := laws.jobs g among
  refine ⟨fun q => ?_, ?_, ?_, ?_⟩
  · rw [left.mem_fifo_other (by simp), pending, left.job]
  · rw [left.converter, running, left.job]
  · rw [left.job, ← suspended, left.suspended]
    split
    · next drops =>
      rw [(laws.places i).2.2.2.mpr drops.2]
      simp
    · rfl
  · rw [left.job]; exact requester

theorem LeavesPlaces.joined (left : LeavesPlaces p k i s t) (laws : Joined s) (holds : Holds p k i s) : Joined t where
  lists := left.each_point laws.lists fun law => listLaw_departed law holds.among
  triggers := left.each_point laws.triggers fun law => triggerLaw_departed law holds.among
  places := left.place laws holds
  subscriptions := left.subscriptionLaw laws holds
  creators := left.creatorLaw laws
  urgent := left.urgentLaw laws holds
  urgentNodup := by
    rw [left.urgentQueue]
    split
    · exact laws.urgentNodup.filter _
    · exact laws.urgentNodup
  fifoNodup := left.fifo_nodup laws
  jobs _ among := left.jobLaw laws among

theorem joined_removeSubscription (laws : Joined s) (p : Port) (k : SlotIdx) : Joined (removeSubscription p k s) := by
  cases slot : s.slot p k with
  | none => rw [removeSubscription_of_none slot]; exact laws
  | some u =>
    have holds := laws.holds (k := k) (i := u.point) (by rw [slot]; rfl)
    exact (leavesPlaces_removeSubscription laws holds).joined laws holds

end Kept
/-! ### Monitors and claims at a removal, and LEAVE POINT -/

section Leaving

variable {p : Port} {k : SlotIdx} {i : PointIdx} {s t u : State}

/-- What moves neither monitors nor claims nor events, before or after. -/
theorem monitorsLeave_of_same {on : PointIdx → Bool} (leave : MonitorsLeave p on s t) {s' t' : State}
    (before : s'.monitors = s.monitors ∧ s'.lines = s.lines ∧ s'.queues = s.queues)
    (after : t'.monitors = t.monitors ∧ t'.lines = t.lines ∧ t'.queues = t.queues) : MonitorsLeave p on s' t' := by
  obtain ⟨entry, host, monitor, rest, queues⟩ := leave
  have monitors {x y : State} (same : x.monitors = y.monitors) (k : MonitorIdx) : x.monitor k = y.monitor k := by
    simp only [State.monitor, same]
  have claims {x y : State} (same : x.lines = y.lines) (l : LineIdx) (c : Claimant) : x.claims l c = y.claims l c := by
    simp only [State.claims, State.line, same]
  have asserted {x y : State} (same : x.lines = y.lines) (l : LineIdx) : x.lineAsserted l = y.lineAsserted l := by
    simp only [State.lineAsserted, State.line, same]
  refine ⟨fun k => ?_, fun l h => ?_, fun l k => ?_, fun l => ⟨?_, ?_, fun k => ?_⟩, ?_⟩
  · rw [monitors before.1, monitors after.1]; exact entry k
  · simp only [claims before.2.1, claims after.2.1, host l h, convertsTo, monitors before.1]
  · rw [claims before.2.1, claims after.2.1, monitors after.1]; exact monitor l k
  · rw [claims before.2.1, claims after.2.1]; exact (rest l).1
  · rw [asserted before.2.1, asserted after.2.1]; exact (rest l).2.1
  · rw [claims before.2.1, claims after.2.1]; exact (rest l).2.2 k
  · rw [before.2.2, after.2.2]; exact queues

theorem monitorsLeave_removeSubscription (claims : ClaimLaws s) (held : (s.slot p k).map (·.point) = some i) :
    MonitorsLeave p (· == i) s (removeSubscription p k s) := by
  obtain ⟨u, slot, rfl⟩ := Option.map_eq_some_iff.mp held
  rw [removeSubscription_of_slot slot]
  have claims' : ClaimLaws (s.setSlot p k none) := ClaimLawsKept.claimLaws_same claims rfl rfl rfl
  have leave := monitorsLeave_deleteMonitorsOn p u.point claims'
  generalize deleteMonitorsOn p u.point (s.setSlot p k none) = w at leave ⊢
  have only := leaveList_places p u.point w
  refine monitorsLeave_of_same leave ⟨rfl, rfl, rfl⟩ ⟨?_, ?_, ?_⟩
  · rw [only]
  · rw [only]
  · rw [only]

theorem leavePoint_eq (sole : ∀ j : SlotIdx, (s.slot p j).map (·.point) = some i ↔ j = k) :
    leavePoint p i s = removeSubscription p k s := by
  simp only [leavePoint, SubscriberRequests.slotOf_eq_some sole]

theorem joined_atOwner (laws : Joined s) (p : Port) : Joined (atOwner p s) :=
  ⟨laws.lists, laws.triggers, laws.places, laws.subscriptions, laws.creators, laws.urgent, laws.urgentNodup,
    laws.fifoNodup, laws.jobs⟩

theorem claimLaws_atOwner (claims : ClaimLaws s) (p : Port) : ClaimLaws (atOwner p s) :=
  ClaimLawsKept.claimLaws_same claims rfl rfl rfl

/-- A departure leaves the event queues alone where it converts claims and releases none. -/
theorem only_of_departure (only : OnlyDeparture s t) (queues : t.queues = s.queues) :
    t = { s with points := t.points, subs := t.subs, urgentQueue := t.urgentQueue, fifos := t.fifos,
                 suspended := t.suspended, monitors := t.monitors, lines := t.lines } := by
  unfold OnlyDeparture at only
  rw [queues] at only
  exact only

end Leaving

/-- Settles O25: LEAVE POINT removes the one subscription of the port to the point. -/
theorem leavePointEndsTheSubscription : Obligations.LeavePointEndsTheSubscription := by
  intro p tag i k s body asks subscribes laws claims last waits
  obtain ⟨alive, among, sole⟩ := subscribes
  have joined := joined_atOwner (joined_of_tableLaws laws) p
  have holds : Holds p k i (atOwner p s) := ⟨(sole k).mpr rfl, among, alive⟩
  have left := leavesPlaces_removeSubscription joined holds
  have leave := monitorsLeave_removeSubscription (claimLaws_atOwner claims p) holds.slot
  have only := only_of_departure (removeSubscription_only p k (atOwner p s)) leave.2.2.2.2
  have checks : subscribedPoint p body (atOwner p s) = .ok i :=
    SubscriberRequests.subscribedPoint_ok (RequestBodies.toNat_byte (by omega)) alive among
  have leaves : leavePoint p i (atOwner p s) = removeSubscription p k (atOwner p s) := leavePoint_eq sole
  have served : serveLeavePoint p body (atOwner p s) =
      (removeSubscription p k (atOwner p s), okAnswer [stateByte (departed p (s.point i)).state]) := by
    simp only [serveLeavePoint, checks, leaves, left.point_same, pointStateCode_eq]
    rfl
  exact ⟨removeSubscription p k (atOwner p s), ResultRing.frameRow_served .leavePoint asks rfl served, only, left.point,
    left.slot, left.urgentQueue, left.fifo, left.suspended, leave⟩
end Sys2Proof.Departures
end

section
/-!
PROOFS. The end of a session (R29, R159, R187 to R191): the port leaves every point in slot order, its QUEUED jobs and its
comparators follow, and DETACH and the supervision expiry take these rows.
-/

namespace Sys2Proof.SessionEnds

open Sys2Proof.Machine Sys2Proof.Statement Sys2Proof.Safety Sys2Proof.Departures

/-! ### All the subscriptions of a port (R29) -/

section Subscriptions

variable {p q : Port} {ks : List SlotIdx} {i : PointIdx} {s t u : State}

/-- Port `p` holds point `i` in one of these slots. -/
def holdsAmong (p : Port) (ks : List SlotIdx) (s : State) (i : PointIdx) : Bool :=
  ks.any (fun k => (s.slot p k).map (·.point) == some i)

/-- What slot `k` of port `p` hands over to port `q`. -/
def handedFrom (p q : Port) (s : State) (k : SlotIdx) : Option Subject :=
  (s.slot p k).bind (fun u =>
    let e := s.point u.point
    if e.state = .due ∧ e.key.urgent = false ∧ e.subscribers.head? = some p ∧ (e.subscribers.erase p).head? = some q
    then some (.point u.point) else none)

/-- The suspended burst belongs to a point that port `p` alone holds, in one of these slots. -/
def suspendedAmong (p : Port) (ks : List SlotIdx) (s : State) : Bool :=
  s.suspended.any (fun b => match b.subject with
    | .point i => holdsAmong p ks s i && (s.point i).subscribers == [p]
    | .job _ => false)

/-- `t` is `s` but that port `p` has left the points it held in these slots. -/
structure LeavesAll (p : Port) (ks : List SlotIdx) (s t : State) : Prop where
  point : ∀ i : PointIdx, t.point i = if holdsAmong p ks s i then departed p (s.point i) else s.point i
  slot : ∀ q : Port, ∀ j : SlotIdx, t.slot q j = if q = p ∧ j ∈ ks then none else s.slot q j
  urgentQueue : t.urgentQueue =
    s.urgentQueue.filter (fun i => !(holdsAmong p ks s i && (s.point i).subscribers == [p]))
  fifo : ∀ q : Port, q ≠ p → t.fifo q = s.fifo q ++ ks.filterMap (handedFrom p q s)
  suspended : t.suspended = if suspendedAmong p ks s then none else s.suspended
  monitors : MonitorsLeave p (holdsAmong p ks s) s t

theorem holdsAmong_cons (k : SlotIdx) :
    holdsAmong p (k :: ks) s i = ((s.slot p k).map (·.point) == some i || holdsAmong p ks s i) := rfl

theorem monitorLeft_never (m : Option Monitor) : monitorLeft p (fun _ => false) m = m := by
  cases m <;> simp [monitorLeft, Option.filter]

theorem monitorsLeave_refl (claims : ClaimLaws s) : MonitorsLeave p (fun _ => false) s s := by
  refine ⟨fun k => (monitorLeft_never _).symm, fun l h => ?_, fun l k => ?_, fun l => ⟨rfl, rfl, fun _ => rfl⟩, rfl⟩
  · simp [convertsTo]
  · exact claims_monitor_of_filter (keep := fun _ => true) claims claims (by cases s.monitor k <;> rfl) l

theorem LeavesAll.refl (claims : ClaimLaws s) : LeavesAll p [] s s := by
  refine ⟨fun i => rfl, fun q j => by simp, by simp [holdsAmong], fun q _ => by simp, ?_, monitorsLeave_refl claims⟩
  have stays : suspendedAmong p [] s = false := by
    unfold suspendedAmong
    rw [Option.any_eq_false]
    intro b _
    cases b.subject <;> rfl
  rw [stays]; rfl

/-! #### The first slot, then the rest -/

/-- A free slot among them changes nothing. -/
theorem LeavesAll.cons_free {k : SlotIdx} (free : s.slot p k = none) (rest : LeavesAll p ks s t) :
    LeavesAll p (k :: ks) s t := by
  have same : holdsAmong p (k :: ks) s = holdsAmong p ks s := by
    funext i
    rw [holdsAmong_cons, free]
    rfl
  have none_handed (q : Port) : handedFrom p q s k = none := by rw [handedFrom, free]; rfl
  refine ⟨fun i => ?_, fun q j => ?_, ?_, fun q other => ?_, ?_, ?_⟩
  · rw [same]; exact rest.point i
  · rw [rest.slot]
    by_cases here : q = p ∧ j = k
    · obtain ⟨rfl, rfl⟩ := here
      simp [free]
    · have : (q = p ∧ j ∈ k :: ks) ↔ (q = p ∧ j ∈ ks) := by
        simp only [List.mem_cons]
        tauto
      simp only [this]
  · rw [same]; exact rest.urgentQueue
  · rw [List.filterMap_cons_none (none_handed q)]; exact rest.fifo q other
  · simp only [suspendedAmong, same]; exact rest.suspended
  · rw [same]; exact rest.monitors

/-- What the departure from one point leaves of the slots and points of the others. -/
theorem holdsAmong_left {k : SlotIdx} (left : LeavesPlaces p k i s t) (fresh : k ∉ ks) :
    holdsAmong p ks t = holdsAmong p ks s := by
  funext j
  unfold holdsAmong
  rw [Bool.eq_iff_iff, List.any_eq_true, List.any_eq_true]
  refine exists_congr fun l => and_congr_right fun among => ?_
  have away : ¬(p = p ∧ l = k) := fun here => fresh (here.2 ▸ among)
  rw [left.slot, if_neg away]

/-- The first slot's point is held in no other slot. -/
theorem holdsAmong_first {k : SlotIdx} (laws : Joined s) (holds : Holds p k i s) (fresh : k ∉ ks) :
    holdsAmong p ks s i = false := by
  unfold holdsAmong
  rw [List.any_eq_false]
  intro l among held
  obtain ⟨u, entry, point⟩ := Option.map_eq_some_iff.mp holds.slot
  obtain ⟨v, entry', point'⟩ := Option.map_eq_some_iff.mp (beq_iff_eq.mp held)
  exact fresh (laws.subscriptions.2 p k l u entry v entry' (point.trans point'.symm) ▸ among)

theorem handedFrom_left {k l : SlotIdx} (laws : Joined s) (holds : Holds p k i s) (left : LeavesPlaces p k i s t)
    (other : l ≠ k) : handedFrom p q t l = handedFrom p q s l := by
  unfold handedFrom
  rw [left.slot, if_neg fun here => other here.2]
  cases entry : s.slot p l with
  | none => rfl
  | some v =>
    have away : v.point ≠ i := fun same => by
      obtain ⟨u, held, point⟩ := Option.map_eq_some_iff.mp holds.slot
      exact other (laws.subscriptions.2 p l k v entry u held (same.trans point.symm))
    simp only [Option.bind_some, left.point_other away]

theorem handedFrom_first {k : SlotIdx} (holds : Holds p k i s) :
    handedFrom p q s k =
      if (s.point i).state = .due ∧ (s.point i).key.urgent = false ∧ (s.point i).subscribers.head? = some p ∧
          ((s.point i).subscribers.erase p).head? = some q then some (.point i) else none := by
  obtain ⟨u, entry, rfl⟩ := Option.map_eq_some_iff.mp holds.slot
  simp only [handedFrom, entry, Option.bind_some]

theorem fifo_first {k : SlotIdx} (laws : Joined s) (holds : Holds p k i s) (left : LeavesPlaces p k i s t) (other : q ≠ p) :
    t.fifo q = s.fifo q ++ (handedFrom p q s k).toList := by
  rw [left.fifo, handedFrom_first holds]
  by_cases moves : ((s.point i).state = .due ∧ (s.point i).key.urgent = false) ∧ (s.point i).subscribers.head? = some p
  · rw [if_pos moves, ← fifo_left laws moves.2, if_neg other]
    by_cases next : ((s.point i).subscribers.erase p).head? = some q
    · rw [if_pos next, if_pos ⟨moves.1.1, moves.1.2, moves.2, next⟩]; rfl
    · rw [if_neg next, if_neg fun all => next all.2.2.2]; rfl
  · rw [if_neg moves, if_neg fun all => moves ⟨⟨all.1, all.2.1⟩, all.2.2.1⟩]
    simp

theorem holds_eq {k : SlotIdx} (holds : Holds p k i s) (j : PointIdx) :
    ((s.slot p k).map (·.point) == some j) = (j == i) := by
  rw [holds.slot, Bool.eq_iff_iff, beq_iff_eq, beq_iff_eq, Option.some.injEq, eq_comm]

theorem suspendedAmong_first {k : SlotIdx} (laws : Joined s) (holds : Holds p k i s) (left : LeavesPlaces p k i s t)
    (fresh : k ∉ ks) :
    (if suspendedAmong p ks t then none else t.suspended) = if suspendedAmong p (k :: ks) s then none else s.suspended := by
  have place := (laws.places i).2.2.2
  by_cases drops : (s.point i).subscribers = [p] ∧ (s.point i).state = .suspended
  · obtain ⟨b, held, subject⟩ := Option.map_eq_some_iff.mp (place.mpr drops.2)
    have first : suspendedAmong p (k :: ks) s = true := by
      simp only [suspendedAmong, held, Option.any_some, subject, holdsAmong_cons, holds_eq holds, drops.1]
      simp
    rw [first, left.suspended, if_pos drops]
    simp
  · have same : suspendedAmong p ks t = suspendedAmong p (k :: ks) s := by
      unfold suspendedAmong
      rw [left.suspended, if_neg drops, holdsAmong_left left fresh]
      cases held : s.suspended with
      | none => rfl
      | some b =>
        simp only [Option.any_some]
        cases subject : b.subject with
        | job g => rfl
        | point j =>
          simp only [holdsAmong_cons, holds_eq holds]
          by_cases here : j = i
          · subst here
            have state := place.mp (by rw [held]; simp [subject])
            have others : (s.point j).subscribers ≠ [p] := fun sole => drops ⟨sole, state⟩
            simp [holdsAmong_first laws holds fresh, others]
          · rw [left.point_other here, beq_false_of_ne here, Bool.false_or]
    rw [same, left.suspended, if_neg drops]

theorem LeavesAll.cons {k : SlotIdx} (laws : Joined s) (holds : Holds p k i s) (left : LeavesPlaces p k i s t)
    (leave : MonitorsLeave p (· == i) s t) (fresh : k ∉ ks) (rest : LeavesAll p ks t u) : LeavesAll p (k :: ks) s u := by
  have among := holdsAmong_left left fresh
  have first := holdsAmong_first laws holds fresh
  have both : holdsAmong p (k :: ks) s = fun j => j == i || holdsAmong p ks s j := by
    funext j
    rw [holdsAmong_cons, holds_eq holds]
  refine ⟨fun j => ?_, fun q j => ?_, ?_, fun q other => ?_, ?_, ?_⟩
  · rw [rest.point, among, both]
    by_cases here : j = i
    · subst here
      simp [first, left.point_same]
    · simp only [left.point_other here, beq_false_of_ne here, Bool.false_or]
  · rw [rest.slot, left.slot]
    by_cases own : q = p
    · by_cases here : j = k
      · simp [own, here]
      · simp [own, here]
    · simp [own]
  · have kept : (fun j => !(holdsAmong p ks t j && (t.point j).subscribers == [p])) =
        fun j => !(holdsAmong p ks s j && (s.point j).subscribers == [p]) := by
      funext j
      rw [among]
      by_cases here : j = i
      · subst here
        rw [first]; rfl
      · rw [left.point_other here]
    rw [rest.urgentQueue, kept, left.urgentQueue, both]
    by_cases sole : (s.point i).subscribers = [p]
    · rw [if_pos sole, List.filter_filter]
      congr 1
      funext j
      by_cases here : j = i
      · subst here
        simp [sole]
      · have bne : (j != i) = true := by simpa using here
        simp only [beq_false_of_ne here, bne, Bool.false_or, Bool.and_true]
    · rw [if_neg sole]
      congr 1
      funext j
      by_cases here : j = i
      · subst here
        simp [sole, first]
      · simp only [beq_false_of_ne here, Bool.false_or]
  · have handed : ks.filterMap (handedFrom p q t) = ks.filterMap (handedFrom p q s) :=
      List.filterMap_congr fun l among => handedFrom_left laws holds left fun same => fresh (same ▸ among)
    rw [rest.fifo q other, handed, fifo_first laws holds left other, List.append_assoc]
    congr 1
    cases given : handedFrom p q s k with
    | none => rw [List.filterMap_cons_none given]; rfl
    | some x => rw [List.filterMap_cons_some given]; rfl
  · rw [rest.suspended]
    exact suspendedAmong_first laws holds left fresh
  · have joined := monitorsLeave_trans leave rest.monitors
    rw [among] at joined
    rw [both]
    exact joined

/-- The subscriptions in a list of slots are removed one after another. -/
theorem leavesAll_foldl (p : Port) (ks : List SlotIdx) (distinct : ks.Nodup) (laws : Joined s) (claims : ClaimLaws s) :
    LeavesAll p ks s (ks.foldl (fun s k => removeSubscription p k s) s) := by
  induction ks generalizing s with
  | nil => exact .refl claims
  | cons k ks ih =>
    obtain ⟨fresh, distinct⟩ := List.nodup_cons.mp distinct
    have rest := ih distinct (joined_removeSubscription laws p k) (ClaimLawsKept.claimLaws_removeSubscription claims p k)
    rw [List.foldl_cons]
    cases slot : s.slot p k with
    | none =>
      rw [removeSubscription_of_none slot] at rest ⊢
      exact rest.cons_free slot
    | some v =>
      have held : (s.slot p k).map (·.point) = some v.point := by rw [slot]; rfl
      have holds := laws.holds held
      exact .cons laws holds (leavesPlaces_removeSubscription laws holds) (monitorsLeave_removeSubscription claims held) fresh
        rest

end Subscriptions

/-! ### Rows 1 to 3 of R189 -/

section Rows

variable {p q : Port} {i : PointIdx} {s t u : State}

theorem joined_removeSubscriptions (laws : Joined s) (p : Port) : Joined (removeSubscriptions p s) :=
  foldl_keeps Joined _ _ (fun _ k _ law => joined_removeSubscription law p k) _ laws

theorem leavesAll_removeSubscriptions (p : Port) (laws : Joined s) (claims : ClaimLaws s) :
    LeavesAll p allSlots s (removeSubscriptions p s) := leavesAll_foldl p allSlots (List.nodup_finRange 16) laws claims

theorem holdsAmong_allSlots (laws : Joined s) : holdsAmong p allSlots s i = decide (p ∈ (s.point i).subscribers) := by
  rw [Bool.eq_iff_iff, decide_eq_true_eq, laws.subscriptions.1]
  simp [holdsAmong, allSlots]

theorem suspendedAmong_allSlots (laws : Joined s) : suspendedAmong p allSlots s = suspendedLeaves p s := by
  unfold suspendedAmong suspendedLeaves
  congr 1
  funext b
  cases b.subject with
  | job g => rfl
  | point i =>
    simp only [holdsAmong_allSlots laws]
    by_cases sole : (s.point i).subscribers = [p]
    · simp [sole]
    · simp [sole]

/-- Every monitor of the port is on a point it leaves (R129). -/
theorem monitorsLeave_all {on : PointIdx → Bool} (leave : MonitorsLeave p on s t)
    (listed : ∀ k : MonitorIdx, ∀ m ∈ s.monitor k, m.creator = p → on m.point = true) :
    MonitorsLeave p (fun _ => true) s t := by
  obtain ⟨entry, host, rest⟩ := leave
  have each (k : MonitorIdx) (m : Monitor) (here : s.monitor k = some m) :
      (m.creator == p && on m.point) = (m.creator == p && true) := by
    by_cases own : m.creator = p
    · rw [listed k m here own]
    · rw [beq_false_of_ne own]; rfl
  have lefts (k : MonitorIdx) : monitorLeft p on (s.monitor k) = monitorLeft p (fun _ => true) (s.monitor k) := by
    cases here : s.monitor k with
    | none => rfl
    | some m => simp only [monitorLeft, Option.filter, each k m here]
  have converts (l : LineIdx) : convertsTo p on s l = convertsTo p (fun _ => true) s l := by
    unfold convertsTo
    congr 1
    funext k
    cases here : s.monitor k with
    | none => rfl
    | some m => simp only [Option.any_some, each k m here]
  exact ⟨fun k => (entry k).trans (lefts k), fun l h => by rw [host l h, converts l], rest⟩

theorem LeavesAll.everyPoint (left : LeavesAll p allSlots s t) (laws : Joined s) (i : PointIdx) :
    t.point i = departed p (s.point i) := by
  rw [left.point, holdsAmong_allSlots laws]
  by_cases among : p ∈ (s.point i).subscribers
  · rw [if_pos (by simpa using among)]
  · rw [if_neg (by simpa using among), departed_absent among]

theorem LeavesAll.everySlot (left : LeavesAll p allSlots s t) (q : Port) :
    t.slots q = if q = p then Vector.replicate 16 none else s.slots q := by
  refine Vector.ext fun j bound => ?_
  have slot : (t.slots q)[j] = _ := left.slot q ⟨j, bound⟩
  rw [slot]
  by_cases own : q = p
  · subst own
    simp [allSlots]
  · simp only [own, false_and, if_false]
    rfl

/-! #### The QUEUED jobs -/

/-- One step of the removal of the QUEUED jobs of port `p`. -/
def dropJob (p : Port) (s : State) (g : Gain) : State :=
  if (s.job g).state = .queued ∧ (s.job g).requester = some p then (s.modFifo p (·.erase (.job g))).setJob g .idle else s

theorem fifo_dropJob (p q : Port) (g : Gain) (nodup : (s.fifo q).Nodup) :
    (dropJob p s g).fifo q =
      if ((s.job g).state = .queued ∧ (s.job g).requester = some p) ∧ q = p then (s.fifo q).filter (· != .job g)
      else s.fifo q := by
  unfold dropJob
  by_cases queued : (s.job g).state = .queued ∧ (s.job g).requester = some p
  · rw [if_pos queued]
    show (s.setFifo p ((s.fifo p).erase (.job g))).fifo q = _
    rw [fifo_setFifo_eq]
    by_cases own : q = p
    · subst own
      rw [if_pos rfl, if_pos ⟨queued, rfl⟩, nodup.erase_eq_filter]
    · rw [if_neg own, if_neg fun all => own all.2]
  · rw [if_neg queued, if_neg fun all => queued all.1]

theorem job_dropJob (p : Port) (g j : Gain) :
    (dropJob p s g).job j =
      if ((s.job g).state = .queued ∧ (s.job g).requester = some p) ∧ j = g then .idle else s.job j := by
  unfold dropJob
  by_cases queued : (s.job g).state = .queued ∧ (s.job g).requester = some p
  · rw [if_pos queued, job_setJob_eq]
    by_cases here : j = g
    · rw [if_pos here, if_pos ⟨queued, here⟩]
    · rw [if_neg here, if_neg fun all => here all.2]; rfl
  · rw [if_neg queued, if_neg fun all => queued all.1]

theorem dropJob_only (p : Port) (s : State) (g : Gain) :
    dropJob p s g = { s with fifos := (dropJob p s g).fifos, jobs := (dropJob p s g).jobs } := by
  unfold dropJob
  split
  · rfl
  · rfl

theorem jobLaw_dropJob (laws : Joined s) (p : Port) (g : Gain) {j : Gain} (among : j ∈ allGains) : JobLaw (dropJob p s g) j := by
  obtain ⟨pending, running, suspended, requester⟩ := laws.jobs j among
  have only := dropJob_only p s g
  have converter : (dropJob p s g).converter = s.converter := by rw [only]
  have burst : (dropJob p s g).suspended = s.suspended := by rw [only]
  refine ⟨fun q => ?_, ?_, ?_, ?_⟩
  · rw [fifo_dropJob p q g (laws.fifoNodup q), job_dropJob]
    by_cases dropped : ((s.job g).state = .queued ∧ (s.job g).requester = some p) ∧ j = g
    · obtain ⟨queued, rfl⟩ := dropped
      by_cases own : q = p
      · simp [queued, own, CalibrationJob.idle]
      · simp [queued, own, pending, CalibrationJob.idle, Ne.symm own]
    · rw [if_neg dropped, ← pending]
      split
      · next taken =>
        have other : j ≠ g := fun here => dropped ⟨taken.1, here⟩
        simp [other]
      · rfl
  · rw [converter, running, job_dropJob]
    split
    · next dropped => simp [dropped.2, dropped.1.1, CalibrationJob.idle]
    · rfl
  · rw [burst, suspended, job_dropJob]
    split
    · next dropped => simp [dropped.2, dropped.1.1, CalibrationJob.idle]
    · rfl
  · rw [job_dropJob]
    split
    · simp [CalibrationJob.idle]
    · exact requester

theorem joined_dropJob (laws : Joined s) (p : Port) (g : Gain) : Joined (dropJob p s g) := by
  have only := dropJob_only p s g
  have fifo (q : Port) := fifo_dropJob p q g (laws.fifoNodup q)
  have jobs (j : Gain) (among : j ∈ allGains) : JobLaw (dropJob p s g) j := jobLaw_dropJob laws p g among
  generalize dropJob p s g = t at only fifo jobs ⊢
  have point (i : PointIdx) : t.point i = s.point i := by rw [only]; rfl
  have slot (q : Port) (k : SlotIdx) : t.slot q k = s.slot q k := by rw [only]; rfl
  have monitor (k : MonitorIdx) : t.monitor k = s.monitor k := by rw [only]; rfl
  have urgentQueue : t.urgentQueue = s.urgentQueue := by rw [only]
  refine ⟨fun i => point i ▸ laws.lists i, fun i => point i ▸ laws.triggers i, fun i => ?_, ?_, ?_, ?_,
    urgentQueue ▸ laws.urgentNodup, fun q => ?_, jobs⟩
  · obtain ⟨urgent, pending, converter, suspended⟩ := laws.places i
    refine ⟨?_, fun q => ?_, ?_, ?_⟩
    · rw [point, urgentQueue]; exact urgent
    · rw [State.sponsor, point, ← State.sponsor, ← pending q, fifo]
      split
      · simp
      · rfl
    · rw [point, ← converter]; rw [only]
    · rw [point, ← suspended]; rw [only]
  · simp only [SubscriptionLaw, point, slot]; exact laws.subscriptions
  · simp only [CreatorLaw, point, monitor]; exact laws.creators
  · simp only [UrgentLaw, State.urgentInUse, point]; exact laws.urgent
  · rw [fifo]
    split
    · exact (laws.fifoNodup q).filter _
    · exact laws.fifoNodup q

theorem removeQueuedJobs_eq (p : Port) (s : State) : removeQueuedJobs p s = allGains.foldl (dropJob p) s := rfl

theorem joined_removeQueuedJobs (laws : Joined s) (p : Port) : Joined (removeQueuedJobs p s) :=
  foldl_keeps Joined _ _ (fun _ g _ law => joined_dropJob law p g) _ laws

theorem fifo_removeQueuedJobs_other (laws : Joined s) (other : q ≠ p) : (removeQueuedJobs p s).fifo q = s.fifo q := by
  refine (foldl_keeps (fun t => Joined t ∧ t.fifo q = s.fifo q) _ _ (fun t g _ kept => ?_) s ⟨laws, rfl⟩).2
  refine ⟨joined_dropJob kept.1 p g, ?_⟩
  exact (fifo_dropJob p q g (kept.1.fifoNodup q)).trans ((if_neg fun all => other all.2).trans kept.2)

/-- A port that leaves every point has nothing left in its pending FIFO once its QUEUED jobs are gone. -/
theorem fifo_removeQueuedJobs_own (laws : Joined s) (gone : ∀ i : PointIdx, p ∉ (s.point i).subscribers) :
    (removeQueuedJobs p s).fifo p = [] := by
  have after := joined_removeQueuedJobs laws p
  have jobs := SessionLawsKept.job_removeQueuedJobs p s
  have only := removeQueuedJobs_only p s
  generalize removeQueuedJobs p s = t at after jobs only ⊢
  refine List.eq_nil_iff_forall_not_mem.mpr fun x waiting => ?_
  cases x with
  | point i =>
    obtain ⟨-, -, sponsor⟩ := ((after.places i).2.1 p).mp waiting
    have same : t.point i = s.point i := by rw [only]; rfl
    rw [State.sponsor, same] at sponsor
    exact gone i (List.mem_of_mem_head? sponsor)
  | job g =>
    obtain ⟨queued, own⟩ := ((after.jobs g (by cases g <;> decide)).1 p).mp waiting
    rw [jobs] at queued own
    split at queued
    · exact nomatch queued
    · next unqueued => exact unqueued ⟨queued, by rwa [if_neg unqueued] at own⟩

/-! #### The three rows together -/

theorem joined_unholdComparators (laws : Joined s) (p : Port) : Joined (unholdComparators p s) := by
  rw [unholdComparators_only]
  exact ⟨laws.lists, laws.triggers, laws.places, laws.subscriptions, laws.creators, laws.urgent, laws.urgentNodup,
    laws.fifoNodup, laws.jobs⟩

theorem joined_teardownBlocks (laws : Joined s) (p : Port) : Joined (teardownBlocks p s) :=
  joined_unholdComparators (joined_removeQueuedJobs (joined_removeSubscriptions laws p) p) p

theorem departs_teardownBlocks (p : Port) (laws : Joined s) (claims : ClaimLaws s) : Departs p s (teardownBlocks p s) := by
  have left := leavesAll_removeSubscriptions p laws claims
  have lawsLeft := joined_removeSubscriptions laws p
  have only := removeSubscriptions_only p s
  unfold OnlyDeparture at only
  rw [left.monitors.2.2.2.2] at only
  unfold teardownBlocks
  generalize removeSubscriptions p s = t at left lawsLeft only ⊢
  have gone (i : PointIdx) : p ∉ (t.point i).subscribers := by
    rw [left.everyPoint laws, subscribers_departed]
    exact (laws.lists i).2.2.not_mem_erase
  have ownFifo := fifo_removeQueuedJobs_own lawsLeft gone
  have otherFifo (q : Port) (other : q ≠ p) := fifo_removeQueuedJobs_other (q := q) lawsLeft other
  have jobs := SessionLawsKept.job_removeQueuedJobs p t
  have jobsOnly := removeQueuedJobs_only p t
  generalize removeQueuedJobs p t = u at ownFifo otherFifo jobs jobsOnly ⊢
  have comparators := SessionLawsKept.comparator_unholdComparators p u
  have comparatorsOnly := unholdComparators_only p u
  generalize unholdComparators p u = v at comparators comparatorsOnly ⊢
  have points : v.points = t.points := by rw [comparatorsOnly]; rw [jobsOnly]
  have fifo (q : Port) : v.fifo q = u.fifo q := by rw [comparatorsOnly]; rfl
  have comparator (k : TripIdx) : u.comparator k = s.comparator k := by rw [jobsOnly, only]; rfl
  have listed : ∀ k : MonitorIdx, ∀ m ∈ s.monitor k, m.creator = p → holdsAmong p allSlots s m.point = true := by
    rintro k m entry rfl
    rw [holdsAmong_allSlots laws]
    simpa using laws.creators k m entry
  refine ⟨?_, fun i => ?_, fun q => ?_, ?_, fun q => ?_, ?_, fun g _ => ?_, fun k => ?_, ?_⟩
  · rw [comparatorsOnly, jobsOnly, only]
  · rw [← left.everyPoint laws, State.point, points]; rfl
  · rw [← left.everySlot, comparatorsOnly, jobsOnly]; rfl
  · have queue : v.urgentQueue = t.urgentQueue := by rw [comparatorsOnly, jobsOnly]
    rw [queue, left.urgentQueue]
    congr 1
    funext i
    rw [holdsAmong_allSlots laws]
    by_cases sole : (s.point i).subscribers = [p]
    · simp [sole]
    · have bne : ((s.point i).subscribers != [p]) = true := by simpa using sole
      simp only [beq_false_of_ne sole, bne, Bool.and_false, Bool.not_false]
  · rw [fifo]
    by_cases own : q = p
    · rw [if_pos own, own, ownFifo]
    · rw [if_neg own, otherFifo q own, left.fifo q own]
      rfl
  · have burst : v.suspended = t.suspended := by rw [comparatorsOnly, jobsOnly]
    rw [burst, left.suspended, suspendedAmong_allSlots laws]
  · have here : v.job g = u.job g := by rw [comparatorsOnly]; rfl
    have before : t.job g = s.job g := by rw [only]; rfl
    rw [here, jobs, before]
  · rw [comparators, comparator]
    split
    · rfl
    · rfl
  · refine monitorsLeave_of_same (monitorsLeave_all left.monitors listed) ⟨rfl, rfl, rfl⟩ ⟨?_, ?_, ?_⟩
    · rw [comparatorsOnly, jobsOnly]
    · rw [comparatorsOnly, jobsOnly]
    · rw [comparatorsOnly, jobsOnly]

end Rows
/-! ### DETACH (R187) -/

section Detach

variable {p : Port} {s : State}

theorem holdsHostClaim_iff : holdsHostClaim p s = true ↔ ∃ l : LineIdx, s.claims l (.host p) = true := by
  simp [holdsHostClaim, allLines]

theorem holdsMonitorClaim_iff :
    holdsMonitorClaim p s = true ↔ ∃ k : MonitorIdx, ∃ m ∈ s.monitor k, m.creator = p ∧ m.claimHeld = true := by
  have each (k : MonitorIdx) : (match s.monitor k with
      | some m => m.creator == p && m.claimHeld
      | none => false) = true ↔ ∃ m ∈ s.monitor k, m.creator = p ∧ m.claimHeld = true := by
    cases s.monitor k <;> simp
  simp only [holdsMonitorClaim, allMonitors, List.any_eq_true, List.mem_finRange, true_and]
  exact exists_congr each

end Detach

/-- Settles O13: the two tests decide about the refusal, and rows 1 to 3 are taken otherwise. -/
theorem detachTakesItsFirstStage : Obligations.DetachTakesItsFirstStage := by
  intro p tag s asks laws claims
  refine ⟨fun held => ?_, fun noHost noMonitor => ?_⟩
  · have refuses : (holdsHostClaim p (atOwner p s) || holdsMonitorClaim p (atOwner p s)) = true := by
      rw [Bool.or_eq_true, holdsHostClaim_iff, holdsMonitorClaim_iff]
      exact held
    have served : serveDetach p [] (atOwner p s) = (atOwner p s, refusal .claimsHeld) := by
      rw [serveDetach, if_pos refuses]
    exact ResultRing.frameRow_served .detach asks rfl served
  · have passes : ¬(holdsHostClaim p (atOwner p s) || holdsMonitorClaim p (atOwner p s)) = true := by
      rw [Bool.or_eq_true, holdsHostClaim_iff, holdsMonitorClaim_iff]
      rintro (⟨l, stands⟩ | ⟨k, m, entry, own, holds⟩)
      · have free : (atOwner p s).claims l (.host p) = false := noHost l
        rw [free] at stands
        exact nomatch stands
      · rw [noMonitor k m entry own] at holds
        exact nomatch holds
    refine ⟨teardownBlocks p (atOwner p s),
      departs_teardownBlocks p (joined_atOwner (joined_of_tableLaws laws) p) (claimLaws_atOwner claims p), ?_⟩
    have served : serveDetach p [] (atOwner p s) =
        ((teardownBlocks p (atOwner p s)).modPort p (fun h => { h with detaching := true }), okAnswer []) := by
      rw [serveDetach, if_neg passes]
    exact ResultRing.frameRow_served .detach asks rfl served

/-! ### The supervision expiry (R186) -/

section Supervision

variable {p : Port} {s : State}

theorem exec_supervisionExpiry (released : s.resetLow = false) :
    exec (.supervisionExpiry p) s = .next (if supervisionExpired p s then sessionLost p s else s) :=
  LinkCommands.whenReleased_released _ released

theorem supervisionExpired_iff :
    supervisionExpired p s = true ↔
      s.attached p = true ∧ (s.port p).request = .ready ∧ (s.port p).supervision = some 0 := by
  simp [supervisionExpired, expired, and_assoc]

end Supervision

/-- Settles O15: rows 1 to 3, then rows 4 to 7 with the notice. -/
theorem supervisionExpiryEndsTheSession : Obligations.SupervisionExpiryEndsTheSession := by
  intro p s released
  refine ⟨fun stays => ?_, fun attached ready zero laws claims => ?_⟩
  · have not : ¬supervisionExpired p s = true := by
      rw [supervisionExpired_iff]
      rintro ⟨attached, ready, zero⟩
      rcases stays with detached | executing | running
      · rw [detached] at attached; exact nomatch attached
      · rw [executing] at ready; exact nomatch ready
      · exact running zero
    rw [exec_supervisionExpiry released, if_neg not]
  · have departs := departs_teardownBlocks p (joined_of_tableLaws laws) claims
    have ends : exec (.supervisionExpiry p) s = .next (teardownPort .peerLost p (teardownBlocks p s)) := by
      rw [exec_supervisionExpiry released, if_pos (supervisionExpired_iff.mpr ⟨attached, ready, zero⟩), sessionLost]
    generalize teardownBlocks p s = u at departs ends
    have only := departs.1
    have port (q : Port) : u.port q = s.port q := by rw [only]; rfl
    have ring (q : Port) : u.ring q = s.ring q := by rw [only]; rfl
    have queue (q : Port) (events : List Event) : offered u q events = offered s q events := by rw [only]; rfl
    have event : eventNow u .peerLost p.val (s.port p).sessionId.toNat =
        eventNow s .peerLost p.val (s.port p).sessionId.toNat := by rw [only]; rfl
    refine ⟨u, _, departs, ends, teardownPort_only .., fun q => ?_, fun q => ?_, fun q => ?_, ?_⟩
    · rw [LinkCommands.ring_teardownPort, ring, ring]
    · rw [LinkCommands.queue_teardownPort, port, event, queue]
    · rw [LinkCommands.port_teardownPort_eq, port, port]
    · refine LinkCommands.alertAsserted_of_ended ?_
      unfold State.attached
      rw [LinkCommands.port_teardownPort_eq, if_pos rfl]
      rfl
end Sys2Proof.SessionEnds
end

section
/-!
PROOFS. An accepted edge on TRGn (R33, R34): what it does at one point, along a run of points while no decision comes, and
with the decision that the first enqueue into an IDLE converter brings.
-/

namespace Sys2Proof.Edges

open Sys2Proof.Machine Sys2Proof.Statement Sys2Proof.Safety Sys2Proof.Triggers

/-! ### One point (R34) -/

section Point

variable {n : TrgIdx} {edge : Edge} {i : PointIdx} {s : State}

theorem edgeReaches_eq (n : TrgIdx) (edge : Edge) (e : PointEntry) : edgeReaches n edge e = edgeDivider n edge e := by
  unfold edgeReaches edgeDivider live
  cases e.key.trigger with
  | periodic => cases e.state <;> rfl
  | demand => cases e.state <;> rfl
  | line input select divider =>
    cases select with
    | both => cases e.state <;> simp [edgeMatches]
    | rise => cases e.state <;> cases edge <;> simp [edgeMatches]
    | fall => cases e.state <;> cases edge <;> simp [edgeMatches]

/-- The edge enqueues the entry at once. -/
def works (n : TrgIdx) (edge : Edge) (e : PointEntry) : Bool := edgeTriggers n edge e && goesDue e

/-- The state in which the edge leaves the part at one point, before a decision. -/
def edgedAt (n : TrgIdx) (edge : Edge) (i : PointIdx) (s : State) : State :=
  if edgeTriggers n edge (s.point i) then triggeredAt i (s.setPoint i { s.point i with divider := 0 })
  else s.setPoint i (edged n edge (s.point i))

theorem edgeTriggers_iff (e : PointEntry) : edgeTriggers n edge e = true ↔ edgeDivider n edge e = some (e.divider + 1) := by
  simp [edgeTriggers]

theorem edged_triggers {e : PointEntry} (triggers : edgeTriggers n edge e = true) :
    edged n edge e = triggered { e with divider := 0 } := by
  rw [edgeTriggers_iff] at triggers
  simp only [edged, triggers, if_true]

theorem edgeAtPoint_eq (n : TrgIdx) (edge : Edge) (i : PointIdx) (s : State) :
    edgeAtPoint n edge i s =
      if works n edge (s.point i) then enqueuedThen s (edgedAt n edge i s) else edgedAt n edge i s := by
  unfold edgeAtPoint edgedAt works
  rw [edgeReaches_eq]
  cases reached : edgeDivider n edge (s.point i) with
  | none =>
    have untouched : edged n edge (s.point i) = s.point i := by simp only [edged, reached]
    simp [edgeTriggers, reached, untouched]
  | some divider =>
    by_cases fires : (s.point i).divider + 1 = divider
    · have triggers : edgeTriggers n edge (s.point i) = true := by rw [edgeTriggers_iff, reached, fires]
      have same : goesDue { s.point i with divider := 0 } = goesDue (s.point i) := rfl
      simp only [if_pos fires, triggers, if_true, Bool.true_and, State.modPoint, triggerPoint_eq, point_setPoint, same,
        enqueuedThen_congr _ (converter_setPoint s i _)]
    · have quiet : edgeTriggers n edge (s.point i) = false := by
        rw [Bool.eq_false_iff, ne_eq, edgeTriggers_iff, reached]
        exact fun same => fires (Option.some.inj same).symm
      have entry : edged n edge (s.point i) = { s.point i with divider := (s.point i).divider + 1 } := by
        simp only [edged, reached, if_neg fires]
      simp only [if_neg fires, quiet, Bool.false_eq_true, if_false, Bool.false_and, entry]
      rfl

theorem edgedAt_enqueued (n : TrgIdx) (edge : Edge) (i : PointIdx) (s : State) :
    Enqueued i (edged n edge (s.point i)) (works n edge (s.point i)) s (edgedAt n edge i s) := by
  unfold edgedAt works
  cases triggers : edgeTriggers n edge (s.point i) with
  | false => exact setPoint_enqueued i _ s
  | true =>
    have entered := triggeredAt_enqueued i (s.setPoint i { s.point i with divider := 0 })
    rw [point_setPoint] at entered
    rw [edged_triggers triggers]
    exact Enqueued.of_setPoint (e' := { s.point i with divider := 0 }) rfl rfl entered

end Point

/-! ### A run of points while no decision comes -/

section Run

variable {n : TrgIdx} {edge : Edge} {i : PointIdx} {xs : List PointIdx} {s t u : State}

/-- The points of the list that the edge enqueues at once. -/
def workAmong (n : TrgIdx) (edge : Edge) (xs : List PointIdx) (s : State) : List PointIdx :=
  xs.filter (fun i => works n edge (s.point i))

theorem workAmong_cons (i : PointIdx) (xs : List PointIdx) (s : State) :
    workAmong n edge (i :: xs) s = (if works n edge (s.point i) then [i] else []) ++ workAmong n edge xs s := by
  unfold workAmong
  rw [List.filter_cons]
  split <;> rfl

theorem workAmong_congr (same : ∀ i ∈ xs, works n edge (t.point i) = works n edge (s.point i)) :
    workAmong n edge xs t = workAmong n edge xs s := List.filter_congr same

theorem mem_workAmong : i ∈ workAmong n edge xs s ↔ i ∈ xs ∧ works n edge (s.point i) = true := List.mem_filter

theorem urgentOf_congr (same : ∀ i ∈ xs, (t.point i).key = (s.point i).key) : urgentOf t xs = urgentOf s xs :=
  List.filter_congr fun i among => by rw [same i among]

theorem pendingOf_congr (q : Port) (same : ∀ i ∈ xs, (t.point i).key = (s.point i).key)
    (lists : ∀ i ∈ xs, (t.point i).subscribers = (s.point i).subscribers) : pendingOf t q xs = pendingOf s q xs := by
  unfold pendingOf
  congr 1
  exact List.filter_congr fun i among => by rw [same i among, lists i among]

theorem urgentOf_append (s : State) (xs ys : List PointIdx) : urgentOf s (xs ++ ys) = urgentOf s xs ++ urgentOf s ys :=
  List.filter_append ..

theorem pendingOf_append (s : State) (q : Port) (xs ys : List PointIdx) :
    pendingOf s q (xs ++ ys) = pendingOf s q xs ++ pendingOf s q ys := by
  simp [pendingOf]

/-- `t` is `s` but that the edge has been to the points of the list, with those that it enqueues at the tails of their
queues. -/
structure EdgedAlong (n : TrgIdx) (edge : Edge) (xs : List PointIdx) (s t : State) : Prop where
  only : t = { s with points := t.points, urgentQueue := t.urgentQueue, fifos := t.fifos }
  point : ∀ i : PointIdx, t.point i = if i ∈ xs then edged n edge (s.point i) else s.point i
  urgentQueue : t.urgentQueue = s.urgentQueue ++ urgentOf s (workAmong n edge xs s)
  fifo : ∀ q : Port, t.fifo q = s.fifo q ++ pendingOf s q (workAmong n edge xs s)

theorem EdgedAlong.refl (s : State) : EdgedAlong n edge [] s s where
  only := rfl
  point _ := by simp
  urgentQueue := by simp [urgentOf, workAmong]
  fifo _ := by simp [pendingOf, workAmong]

theorem EdgedAlong.cons (fresh : i ∉ xs)
    (first : Enqueued i (edged n edge (s.point i)) (works n edge (s.point i)) s t) (rest : EdgedAlong n edge xs t u) :
    EdgedAlong n edge (i :: xs) s u := by
  obtain ⟨only, point, urgentQueue, fifo⟩ := first
  have other (j : PointIdx) (among : j ∈ xs) : t.point j = s.point j := by
    have away : j ≠ i := fun same => fresh (same ▸ among)
    rw [point, if_neg away]
  have kept : workAmong n edge xs t = workAmong n edge xs s := workAmong_congr fun j among => by rw [other j among]
  have same (j : PointIdx) (work : j ∈ workAmong n edge xs s) : t.point j = s.point j := other j (mem_workAmong.mp work).1
  refine ⟨?_, fun j => ?_, ?_, fun q => ?_⟩
  · rw [rest.only]; rw [only]
  · rw [rest.point]
    by_cases here : j = i
    · subst here
      rw [if_neg fresh, point, if_pos rfl, if_pos (List.mem_cons_self ..)]
    · simp only [point, List.mem_cons, here, false_or, if_false]
  · rw [rest.urgentQueue, kept, urgentOf_congr (s := s) (fun j work => by rw [same j work]), urgentQueue, List.append_assoc,
      workAmong_cons, urgentOf_append]
    congr 1
    split <;> rfl
  · rw [rest.fifo, kept, pendingOf_congr (s := s) q (fun j work => by rw [same j work]) (fun j work => by rw [same j work]), fifo,
      List.append_assoc, workAmong_cons, pendingOf_append]
    congr 1
    split <;> rfl

/-- While the converter is BUSY, or with nothing to enqueue, the edge goes along the points without a decision. -/
theorem edgedAlong_foldl (n : TrgIdx) (edge : Edge) (xs : List PointIdx) (distinct : xs.Nodup) (s : State)
    (undecided : s.converter ≠ none ∨ workAmong n edge xs s = []) :
    EdgedAlong n edge xs s (xs.foldl (fun s i => edgeAtPoint n edge i s) s) := by
  induction xs generalizing s with
  | nil => exact .refl s
  | cons i xs ih =>
    obtain ⟨fresh, distinct⟩ := List.nodup_cons.mp distinct
    have first := edgedAt_enqueued n edge i s
    have quiet : edgeAtPoint n edge i s = edgedAt n edge i s := by
      rw [edgeAtPoint_eq]
      rcases undecided with busy | idle
      · rw [enqueuedThen, if_neg busy, ite_self]
      · rw [workAmong_cons] at idle
        exact if_neg fun work => by rw [if_pos work] at idle; exact nomatch idle
    rw [List.foldl_cons, quiet]
    refine .cons fresh first (ih distinct _ ?_)
    obtain ⟨only, point, -⟩ := first
    rcases undecided with busy | idle
    · left; rw [only]; exact busy
    · right
      rw [workAmong_cons] at idle
      refine Eq.trans (workAmong_congr fun j among => ?_) (List.append_eq_nil_iff.mp idle).2
      have away : j ≠ i := fun same => fresh (same ▸ among)
      rw [point, if_neg away]

end Run

/-! ### The grant decision, place by place (R53) -/

section Decision

variable {s t : State} {i : PointIdx}

/-- What a grant decision takes, and what it leaves. -/
inductive Decision (s t : State) : Prop
  | urgent (i : PointIdx) (rest : List PointIdx) (waiting : s.urgentQueue = i :: rest)
      (begins : Begins { subject := .point i, burstClass := .urgent, length := oversampleCount (s.point i).key.oversample }
        (firstConversion (s.point i) s) t)
      (only : t = { s with points := t.points, urgentQueue := rest, urgentGrants := t.urgentGrants,
                           converter := t.converter, conversion := t.conversion, lastGain := t.lastGain })
      (point : ∀ j : PointIdx, t.point j = if j = i then
        { s.point i with state := .converting, accumulator := 0, done := 0, stamp := none, satSoFar := false,
                         resumedSoFar := false } else s.point j)
  | resumed (b : Burst) (noUrgent : s.urgentQueue = []) (suspended : s.suspended = some b)
      (begins : Begins b (conversionOf b.subject s) t)
      (only : t = { s with points := t.points, jobs := t.jobs, suspended := none, converter := t.converter,
                           conversion := t.conversion, lastGain := t.lastGain })
      (point : ∀ j : PointIdx, t.point j =
        if b.subject = .point j then { s.point j with state := .converting } else s.point j)
      (job : ∀ g ∈ allGains, t.job g = if b.subject = .job g then { s.job g with state := .running } else s.job g)
  | pending (p : Port) (x : Subject) (rest : List Subject) (noUrgent : s.urgentQueue = []) (noSuspended : s.suspended = none)
      (waiting : s.fifo p = x :: rest) (granted : GrantedPending p x rest s t)
  | nothing (noUrgent : s.urgentQueue = []) (noSuspended : s.suspended = none) (noPending : ∀ q : Port, s.fifo q = [])
      (idle : t = { s with converter := none, conversion := none })

theorem decision (s : State) : Decision s (grantDecision s) := by
  have order := GrantDecision.grantDecisionOrder s
  revert order
  generalize grantDecision s = t
  intro order
  have head {q : Port} (some : (!(s.fifo q).isEmpty) = true) : ∃ x rest, s.fifo q = x :: rest :=
    List.exists_cons_of_ne_nil fun empty => by simp [empty] at some
  split at order
  · next i rest waiting => exact .urgent i rest waiting order.1 order.2.1 order.2.2.2
  · next b noUrgent suspended => exact .resumed b noUrgent suspended order.1 order.2.1 order.2.2.1 order.2.2.2
  · next noUrgent noSuspended =>
    split at order
    · next k found =>
      obtain ⟨x, rest, waiting⟩ := head (List.find?_some (p := fun k => !(s.fifo (onWheel s.share k)).isEmpty) found)
      exact .pending _ x rest noUrgent noSuspended waiting (order x rest waiting).1
    · split at order
      · next q found =>
        obtain ⟨x, rest, waiting⟩ := head (List.find?_some (p := fun q => !(s.fifo q).isEmpty) found)
        exact .pending _ x rest noUrgent noSuspended waiting (order x rest waiting).1
      · next absent =>
        refine .nothing noUrgent noSuspended (fun q => ?_) order
        have empty := List.find?_eq_none.mp absent q (by revert q; decide)
        simpa using empty

/-- The subject stands in a waiting place. -/
inductive Waits (x : Subject) (s : State) : Prop
  | urgent (i : PointIdx) (named : x = .point i) (among : i ∈ s.urgentQueue)
  | suspended (b : Burst) (held : s.suspended = some b) (subject : b.subject = x)
  | pending (p : Port) (among : x ∈ s.fifo p)

/-- A decision with something waiting leaves the converter BUSY. -/
theorem converter_grantDecision {x : Subject} (waits : Waits x s) : (grantDecision s).converter ≠ none := by
  cases decision s with
  | urgent i rest waiting begins => rw [begins.1]; exact Option.some_ne_none _
  | resumed b noUrgent suspended begins => rw [begins.1]; exact Option.some_ne_none _
  | pending p y rest noUrgent noSuspended waiting granted => rw [granted.1.1]; exact Option.some_ne_none _
  | nothing noUrgent noSuspended noPending idle =>
    cases waits with
    | urgent i named among => rw [noUrgent] at among; exact absurd among List.not_mem_nil
    | suspended b held subject => rw [noSuspended] at held; exact nomatch held
    | pending p among => rw [noPending] at among; exact absurd among List.not_mem_nil

/-- A decision changes the entry of a point that waited alone, and keeps its key and its list. -/
theorem point_grantDecision (s : State) (i : PointIdx) :
    ((grantDecision s).point i).key = (s.point i).key ∧ ((grantDecision s).point i).subscribers = (s.point i).subscribers ∧
    ((grantDecision s).point i = s.point i ∨ Waits (.point i) s ∧ ((grantDecision s).point i).state = .converting) := by
  have untouched {t : State} (same : t.point i = s.point i) :
      (t.point i).key = (s.point i).key ∧ (t.point i).subscribers = (s.point i).subscribers ∧
      (t.point i = s.point i ∨ Waits (.point i) s ∧ (t.point i).state = .converting) := by
    rw [same]; exact ⟨rfl, rfl, .inl rfl⟩
  cases decision s with
  | urgent j rest waiting begins only point =>
    by_cases here : i = j
    · rw [point, if_pos here, here]
      exact ⟨rfl, rfl, .inr ⟨.urgent j rfl (by rw [waiting]; exact List.mem_cons_self ..), rfl⟩⟩
    · exact untouched (by rw [point, if_neg here])
  | resumed b noUrgent suspended begins only point =>
    by_cases here : b.subject = .point i
    · rw [point, if_pos here]
      exact ⟨rfl, rfl, .inr ⟨.suspended b suspended here, rfl⟩⟩
    · exact untouched (by rw [point, if_neg here])
  | pending p x rest noUrgent noSuspended waiting granted =>
    obtain ⟨-, -, -, -, point, -⟩ := granted
    by_cases here : x = .point i
    · rw [point, if_pos here]
      exact ⟨rfl, rfl, .inr ⟨.pending p (by rw [waiting, here]; exact List.mem_cons_self ..), rfl⟩⟩
    · exact untouched (by rw [point, if_neg here])
  | nothing noUrgent noSuspended noPending idle => exact untouched (by rw [idle]; rfl)

end Decision
/-! ### The edge up to the first enqueue into an IDLE converter, its decision, and the rest -/

section Decided

variable {n : TrgIdx} {edge : Edge} {i j : PointIdx} {pre post rest : List PointIdx} {s t u : State}

theorem works_iff (e : PointEntry) :
    works n edge e = true ↔ edgeTriggers n edge e = true ∧ e.state = .armed ∧ e.key.delay = 0 := by
  rw [works, Bool.and_eq_true, goesDue_iff]

theorem edged_works {e : PointEntry} (work : works n edge e = true) :
    edged n edge e = { e with divider := 0, state := .due, delayTimer := none } := by
  obtain ⟨triggers, armed, immediate⟩ := (works_iff e).mp work
  rw [edged_triggers triggers]
  simp only [triggered, armed, immediate, if_true]

/-- The points up to one of them, and those behind it. -/
structure SplitAt (j : PointIdx) (pre post : List PointIdx) : Prop where
  all : allPoints = pre ++ j :: post
  before : ∀ i : PointIdx, i ∈ pre ↔ i < j
  after : ∀ i : PointIdx, i ∈ post ↔ j < i
  preDistinct : pre.Nodup
  postDistinct : post.Nodup

theorem splitAt_of_append (all : allPoints = pre ++ j :: post) : SplitAt j pre post := by
  have sorted : (pre ++ j :: post).Pairwise (· < ·) := all ▸ List.pairwise_lt_finRange 32
  obtain ⟨preSorted, tailSorted, across⟩ := List.pairwise_append.mp sorted
  obtain ⟨behind, postSorted⟩ := List.pairwise_cons.mp tailSorted
  have place (i : PointIdx) : i ∈ pre ∨ i = j ∨ i ∈ post := by
    have among : i ∈ pre ++ j :: post := all ▸ List.mem_finRange i
    simpa using among
  have below (i : PointIdx) (among : i ∈ pre) : i < j := across i among j (List.mem_cons_self ..)
  refine ⟨all, fun i => ⟨below i, fun lt => ?_⟩, fun i => ⟨behind i, fun lt => ?_⟩, preSorted.imp ne_of_lt,
    postSorted.imp ne_of_lt⟩
  · rcases place i with before | rfl | after
    · exact before
    · exact absurd lt (lt_irrefl _)
    · exact absurd (behind i after) (lt_asymm lt)
  · rcases place i with before | rfl | after
    · exact absurd (below i before) (lt_asymm lt)
    · exact absurd lt (lt_irrefl _)
    · exact after

theorem workAmong_split (work : workAmong n edge allPoints s = j :: rest) :
    ∃ pre post, SplitAt j pre post ∧ workAmong n edge pre s = [] ∧ works n edge (s.point j) = true ∧
      workAmong n edge post s = rest := by
  obtain ⟨pre, post, all, quiet, first, others⟩ := List.filter_eq_cons_iff.mp work
  exact ⟨pre, post, splitAt_of_append all, List.filter_eq_nil_iff.mpr quiet, first, others⟩

/-- What the edge does before the decision: it goes along the points before `j`, and enqueues `j`. -/
structure Brings (n : TrgIdx) (edge : Edge) (j : PointIdx) (s u : State) : Prop where
  only : u = { s with points := u.points, urgentQueue := u.urgentQueue, fifos := u.fifos }
  point : ∀ i : PointIdx, u.point i = if i ≤ j then edged n edge (s.point i) else s.point i
  urgentQueue : u.urgentQueue = s.urgentQueue ++ urgentOf s [j]
  fifo : ∀ q : Port, u.fifo q = s.fifo q ++ pendingOf s q [j]

theorem brings_of_edgedAlong {v : State} (split : SplitAt j pre post) (quiet : workAmong n edge pre s = [])
    (along : EdgedAlong n edge pre s v)
    (first : Enqueued j (edged n edge (s.point j)) true v u) : Brings n edge j s u := by
  obtain ⟨only, point, urgentQueue, fifo⟩ := first
  have own : v.point j = s.point j := by rw [along.point, if_neg fun among => lt_irrefl j ((split.before j).mp among)]
  refine ⟨?_, fun i => ?_, ?_, fun q => ?_⟩
  · rw [only]; rw [along.only]
  · rw [point]
    rcases lt_trichotomy i j with lt | rfl | gt
    · rw [if_neg (ne_of_lt lt), along.point, if_pos ((split.before i).mpr lt), if_pos (le_of_lt lt)]
    · rw [if_pos rfl, if_pos le_rfl]
    · rw [if_neg (ne_of_gt gt), along.point, if_neg fun among => lt_asymm gt ((split.before i).mp among),
        if_neg (not_le_of_gt gt)]
  · have sameUrgent : urgentOf v [j] = urgentOf s [j] := by simp only [urgentOf, List.filter_singleton, own]
    rw [urgentQueue, along.urgentQueue, quiet, if_pos rfl, sameUrgent]
    simp [urgentOf]
  · have samePending : pendingOf v q [j] = pendingOf s q [j] := by simp only [pendingOf, List.filter_singleton, own]
    rw [fifo, along.fifo, quiet, if_pos rfl, samePending]
    simp [pendingOf]

/-- The point that the edge enqueues waits for the decision. -/
theorem Brings.waits (brings : Brings n edge j s u) (subscribed : (s.point j).subscribers ≠ []) : Waits (.point j) u := by
  cases urgent : (s.point j).key.urgent with
  | true =>
    refine .urgent j rfl ?_
    rw [brings.urgentQueue]
    simp [urgentOf, urgent]
  | false =>
    obtain ⟨p, ps, list⟩ := List.exists_cons_of_ne_nil subscribed
    refine .pending p ?_
    rw [brings.fifo]
    simp [pendingOf, urgent, list]

/-- Every other point that waits then waited before. -/
theorem Brings.waited (brings : Brings n edge j s u) (other : i ≠ j) (waits : Waits (.point i) u) : Waits (.point i) s := by
  cases waits with
  | urgent k named among =>
    cases named
    rw [brings.urgentQueue, List.mem_append] at among
    exact .urgent i rfl (among.resolve_right fun here => other (List.mem_singleton.mp (List.mem_of_mem_filter here)))
  | suspended b held subject =>
    have same : u.suspended = s.suspended := by rw [brings.only]
    exact .suspended b (same ▸ held) subject
  | pending p among =>
    rw [brings.fifo, List.mem_append] at among
    refine .pending p (among.resolve_right fun here => other ?_)
    obtain ⟨k, listed, same⟩ := List.mem_map.mp here
    rw [← Subject.point.inj same]
    exact List.mem_singleton.mp (List.mem_of_mem_filter listed)

/-- The decision and the rest of the points, where an ARMED point waits nowhere. -/
theorem edgedAlong_decided {w : State} (split : SplitAt j pre post) (brings : Brings n edge j s u)
    (calm : ∀ i : PointIdx, Waits (.point i) s → (s.point i).state ≠ .armed) (subscribed : (s.point j).subscribers ≠ [])
    (others : workAmong n edge post s = rest) (decides : w = grantDecision { u with decisionDue := false })
    (goes : t = post.foldl (fun s i => edgeAtPoint n edge i s) w) :
    EdgedAlong n edge post w t ∧ t.urgentQueue = w.urgentQueue ++ urgentOf s rest ∧
      ∀ q : Port, t.fifo q = w.fifo q ++ pendingOf s q rest := by
  have waits : Waits (.point j) { u with decisionDue := false } := by
    cases brings.waits subscribed with
    | urgent k named among => exact .urgent k named among
    | suspended b held subject => exact .suspended b held subject
    | pending p among => exact .pending p among
  have busy : w.converter ≠ none := decides ▸ converter_grantDecision waits
  have along : EdgedAlong n edge post w t := goes ▸ edgedAlong_foldl n edge post split.postDistinct w (.inl busy)
  have after (i : PointIdx) (among : i ∈ post) : u.point i = s.point i := by
    rw [brings.point, if_neg (not_le_of_gt ((split.after i).mp among))]
  have decided (i : PointIdx) := point_grantDecision { u with decisionDue := false } i
  rw [← decides] at decided
  have key (i : PointIdx) (among : i ∈ post) : (w.point i).key = (s.point i).key := by
    rw [(decided i).1, point_undue, after i among]
  have list (i : PointIdx) (among : i ∈ post) : (w.point i).subscribers = (s.point i).subscribers := by
    rw [(decided i).2.1, point_undue, after i among]
  have same : workAmong n edge post w = rest := by
    rw [← others]
    refine workAmong_congr fun i among => ?_
    rcases (decided i).2.2 with untouched | ⟨waiting, converting⟩
    · rw [untouched, point_undue, after i among]
    · have waitsHere : Waits (.point i) u := by
        cases waiting with
        | urgent k named among => exact .urgent k named among
        | suspended b held subject => exact .suspended b held subject
        | pending p among => exact .pending p among
      have stood := calm i (brings.waited (ne_of_gt ((split.after i).mp among)) waitsHere)
      have idle (e : PointEntry) (state : e.state ≠ .armed) : works n edge e = false := by
        rw [Bool.eq_false_iff, ne_eq, works_iff]
        exact fun all => state all.2.1
      rw [idle _ stood, idle _ (by rw [converting]; decide)]
  have among {i : PointIdx} (work : i ∈ rest) : i ∈ post := by
    rw [← others] at work
    exact (mem_workAmong.mp work).1
  refine ⟨along, ?_, fun q => ?_⟩
  · rw [along.urgentQueue, same, urgentOf_congr fun i work => key i (among work)]
  · rw [along.fifo, same, pendingOf_congr q (fun i work => key i (among work)) fun i work => list i (among work)]

end Decided
/-! ### TRG_EDGE -/

section Edge

variable {n : TrgIdx} {edge : Edge} {j : PointIdx} {rest : List PointIdx} {s t : State}

theorem levelAfter_eq (edge : Edge) : levelAfter edge = (edge == .rising) := by cases edge <;> rfl

theorem exec_trgEdge (released : s.resetLow = false) : exec (.trgEdge n edge) s = .next (edgeTaken n edge s) :=
  LinkCommands.whenReleased_released _ released

theorem edgeWork_eq (s : State) : edgeWork n edge s = workAmong n edge allPoints s := rfl

/-- What the edge does where it finds the converter IDLE and enqueues point `j` first: up to the decision, and after it. -/
theorem edge_decides (idle : s.converter = none) (lists : ∀ i : PointIdx, ListLaw (s.point i))
    (calm : ∀ i : PointIdx, Waits (.point i) s → (s.point i).state ≠ .armed)
    (work : workAmong n edge allPoints s = j :: rest) (goes : t = allPoints.foldl (fun s i => edgeAtPoint n edge i s) s) :
    ∃ pre post v u, SplitAt j pre post ∧ EdgedAlong n edge pre s v ∧
      Enqueued j { v.point j with divider := 0, state := .due, delayTimer := none } true v u ∧ v.point j = s.point j ∧
      Brings n edge j s u ∧ v.urgentQueue = s.urgentQueue ∧ (∀ q : Port, v.fifo q = s.fifo q) ∧
      EdgedAlong n edge post (grantDecision { u with decisionDue := false }) t ∧
      t.urgentQueue = (grantDecision { u with decisionDue := false }).urgentQueue ++ urgentOf s rest ∧
      ∀ q : Port, t.fifo q = (grantDecision { u with decisionDue := false }).fifo q ++ pendingOf s q rest := by
  obtain ⟨pre, post, split, quiet, first, others⟩ := workAmong_split work
  have along := edgedAlong_foldl n edge pre split.preDistinct s (.inr quiet)
  have whole : t = post.foldl (fun s i => edgeAtPoint n edge i s)
      (edgeAtPoint n edge j (pre.foldl (fun s i => edgeAtPoint n edge i s) s)) := by
    simp only [goes, split.all, List.foldl_append, List.foldl_cons]
  generalize pre.foldl (fun s i => edgeAtPoint n edge i s) s = v at along whole
  have own : v.point j = s.point j := by rw [along.point, if_neg fun among => lt_irrefl j ((split.before j).mp among)]
  have firstHere : works n edge (v.point j) = true := by rw [own]; exact first
  have idleHere : v.converter = none := by rw [along.only]; exact idle
  have entered := edgedAt_enqueued n edge j v
  rw [firstHere, edged_works firstHere] at entered
  rw [edgeAtPoint_eq, if_pos firstHere, enqueuedThen, if_pos idleHere] at whole
  generalize edgedAt n edge j v = u at entered whole
  have brings : Brings n edge j s u := by
    refine brings_of_edgedAlong split quiet along ?_
    rw [edged_works first, ← own]
    exact entered
  have subscribed : (s.point j).subscribers ≠ [] := fun empty => by
    have free := (lists j).1.mpr ⟨empty, by rw [((works_iff _).mp first).2.1]; decide⟩
    rw [((works_iff _).mp first).2.1] at free
    exact nomatch free
  have decided := edgedAlong_decided split brings calm subscribed others rfl whole
  have urgentQueue : v.urgentQueue = s.urgentQueue := by rw [along.urgentQueue, quiet]; simp [urgentOf]
  have fifo (q : Port) : v.fifo q = s.fifo q := by rw [along.fifo, quiet]; simp [pendingOf]
  exact ⟨pre, post, v, u, split, along, entered, own, brings, urgentQueue, fifo, decided⟩

end Edge
/-! #### The three outcomes -/

section Outcomes

variable {n : TrgIdx} {edge : Edge} {j : PointIdx} {rest : List PointIdx} {s t : State}

theorem edge_undecided (undecided : s.converter ≠ none ∨ workAmong n edge allPoints s = []) :
    let t := allPoints.foldl (fun s i => edgeAtPoint n edge i s) s
    t = { s with points := t.points, urgentQueue := t.urgentQueue, fifos := t.fifos } ∧
    (∀ i : PointIdx, t.point i = edged n edge (s.point i)) ∧
    t.urgentQueue = s.urgentQueue ++ urgentOf s (workAmong n edge allPoints s) ∧
    (∀ q : Port, t.fifo q = s.fifo q ++ pendingOf s q (workAmong n edge allPoints s)) := by
  have along := edgedAlong_foldl n edge allPoints (List.nodup_finRange 32) s undecided
  have every (i : PointIdx) : i ∈ allPoints := List.mem_finRange i
  exact ⟨along.only, fun i => by rw [along.point, if_pos (every i)], along.urgentQueue, along.fifo⟩

theorem calm_of_nothingWaits (nothing : NothingWaits s) (i : PointIdx) (waits : Waits (.point i) s) :
    (s.point i).state ≠ .armed := by
  obtain ⟨-, -, noUrgent, noSuspended, noPending⟩ := nothing
  cases waits with
  | urgent k named among => rw [noUrgent] at among; exact absurd among List.not_mem_nil
  | suspended b held subject => rw [noSuspended] at held; exact nomatch held
  | pending p among => rw [noPending] at among; exact absurd among List.not_mem_nil

theorem calm_of_placeLaw (places : ∀ i : PointIdx, PlaceLaw s i) (i : PointIdx) (waits : Waits (.point i) s) :
    (s.point i).state ≠ .armed := by
  obtain ⟨urgent, pending, -, suspended⟩ := places i
  cases waits with
  | urgent k named among => cases named; rw [(urgent.mp among).1]; decide
  | suspended b held subject => rw [suspended.mp (by rw [held, Option.map_some, subject])]; decide
  | pending p among => rw [((pending p).mp among).1]; decide

theorem edge_decided (idle : s.converter = none) (lists : ∀ i : PointIdx, ListLaw (s.point i))
    (places : ∀ i : PointIdx, PlaceLaw s i) (work : workAmong n edge allPoints s = j :: rest) :
    let t := allPoints.foldl (fun s i => edgeAtPoint n edge i s) s
    ∃ u, Brings n edge j s u ∧
      let w := grantDecision { u with decisionDue := false }
      t = { w with points := t.points, urgentQueue := t.urgentQueue, fifos := t.fifos } ∧
      (∀ i : PointIdx, t.point i = if i ≤ j then w.point i else edged n edge (w.point i)) ∧
      t.urgentQueue = w.urgentQueue ++ urgentOf s rest ∧ (∀ q : Port, t.fifo q = w.fifo q ++ pendingOf s q rest) := by
  intro t
  obtain ⟨pre, post, v, u, split, -, -, -, brings, -, -, along, urgentQueue, fifo⟩ :=
    edge_decides idle lists (calm_of_placeLaw places) work rfl
  refine ⟨u, brings, along.only, fun i => ?_, urgentQueue, fifo⟩
  rw [along.point]
  by_cases le : i ≤ j
  · rw [if_pos le, if_neg fun among => not_lt_of_ge le ((split.after i).mp among)]
  · rw [if_neg le, if_pos ((split.after i).mpr (lt_of_not_ge le))]

theorem grantedAlone_of_fields {v w : State} (granted : GrantedAlone j v w)
    (before : s.point j = v.point j ∧ s.lastGain = v.lastGain ∧ s.urgentGrants = v.urgentGrants ∧
      s.wheelGrants = v.wheelGrants ∧ s.wheelPosition = v.wheelPosition ∧ s.share = v.share)
    (after : t.converter = w.converter ∧ t.conversion = w.conversion ∧ t.lastGain = w.lastGain ∧
      t.urgentGrants = w.urgentGrants ∧ t.wheelGrants = w.wheelGrants ∧ t.wheelPosition = w.wheelPosition) :
    GrantedAlone j s t := by
  obtain ⟨point, lastGain, urgentGrants, wheelGrants, wheelPosition, share⟩ := before
  obtain ⟨converter', conversion', lastGain', urgentGrants', wheelGrants', wheelPosition'⟩ := after
  obtain ⟨⟨converter, conversion, gain⟩, urgent, wheel, position⟩ := granted
  refine ⟨⟨?_, ?_, ?_⟩, fun q => ?_, fun q => ?_, ?_⟩
  · rw [converter', point]; exact converter
  · rw [conversion', point, conversion]
    simp only [firstConversion, lastGain]
  · rw [lastGain', point]; exact gain
  · rw [State.urgentGrant, urgentGrants', point, State.urgentGrant, urgentGrants]; exact urgent q
  · rw [State.wheelGrant, wheelGrants', point, State.wheelGrant, wheelGrants]; exact wheel q
  · rw [wheelPosition', point, position]
    simp only [positionAfter, wheelPosition, share]

theorem edge_granted (nothing : NothingWaits s) (lists : ∀ i : PointIdx, ListLaw (s.point i))
    (work : workAmong n edge allPoints s = j :: rest) :
    let t := allPoints.foldl (fun s i => edgeAtPoint n edge i s) s
    t = { s with
            points := t.points, urgentQueue := t.urgentQueue, fifos := t.fifos, urgentGrants := t.urgentGrants,
            wheelGrants := t.wheelGrants, wheelPosition := t.wheelPosition, converter := t.converter,
            conversion := t.conversion, lastGain := t.lastGain } ∧
    (∀ i : PointIdx, t.point i =
      if i = j then granted (edged n edge (s.point j)) else edged n edge (s.point i)) ∧
    GrantedAlone j s t ∧
    t.urgentQueue = urgentOf s rest ∧ (∀ q : Port, t.fifo q = pendingOf s q rest) := by
  intro t
  have goes : t = allPoints.foldl (fun s i => edgeAtPoint n edge i s) s := rfl
  clear_value t
  obtain ⟨pre, post, v, u, split, before, entered, own, brings, sameQueue, sameFifo, along, urgentQueue, fifo⟩ :=
    edge_decides nothing.1 lists (calm_of_nothingWaits nothing) work goes
  have first : works n edge (s.point j) = true := by
    have listed : j ∈ workAmong n edge allPoints s := by rw [work]; exact List.mem_cons_self ..
    exact (mem_workAmong.mp listed).2
  have subscribed : (v.point j).subscribers ≠ [] := fun empty => by
    rw [own] at empty
    have free := (lists j).1.mpr ⟨empty, by rw [((works_iff _).mp first).2.1]; decide⟩
    rw [((works_iff _).mp first).2.1] at free
    exact nomatch free
  obtain ⟨idle, undue, noUrgent, noSuspended, noPending⟩ := nothing
  have nothingHere : NothingWaits v :=
    ⟨by rw [before.only]; exact idle, by rw [before.only]; exact undue, sameQueue.trans noUrgent,
      by rw [before.only]; exact noSuspended, fun q => (sameFifo q).trans (noPending q)⟩
  have alone := pointGranted (e := { v.point j with divider := 0 }) nothingHere subscribed rfl rfl entered
  have run : enqueuedThen v u = grantDecision { u with decisionDue := false } := if_pos nothingHere.1
  rw [run] at alone
  generalize grantDecision { u with decisionDue := false } = w at along urgentQueue fifo alone
  obtain ⟨scheduled, jobs, grantedAlone, point⟩ := alone
  have queue : w.urgentQueue = [] := by rw [scheduled]; exact sameQueue.trans noUrgent
  have pending (q : Port) : w.fifo q = [] := by rw [scheduled]; exact (sameFifo q).trans (noPending q)
  have only := along.only
  have whole := before.only
  refine ⟨?_, fun i => ?_, ?_, ?_, fun q => ?_⟩
  · refine Eq.trans only ?_
    have frame : t.urgentGrants = w.urgentGrants ∧ t.wheelGrants = w.wheelGrants ∧ t.wheelPosition = w.wheelPosition ∧
        t.converter = w.converter ∧ t.conversion = w.conversion ∧ t.lastGain = w.lastGain := by
      refine ⟨?_, ?_, ?_, ?_, ?_, ?_⟩ <;> rw [only]
    obtain ⟨urgentGrants, wheelGrants, wheelPosition, converter, conversion, lastGain⟩ := frame
    rw [urgentGrants, wheelGrants, wheelPosition, converter, conversion, lastGain]
    rw [scheduled, jobs]
    rw [whole]
  · rw [along.point]
    by_cases here : i = j
    · subst here
      rw [if_neg fun among => lt_irrefl i ((split.after i).mp among), point, if_pos rfl, if_pos rfl, edged_works first, own]
      rfl
    · rw [if_neg here, point, if_neg here, before.point]
      rcases lt_or_gt_of_ne here with lt | gt
      · rw [if_neg fun among => lt_asymm lt ((split.after i).mp among), if_pos ((split.before i).mpr lt)]
      · rw [if_pos ((split.after i).mpr gt), if_neg fun among => lt_asymm gt ((split.before i).mp among)]
  · refine grantedAlone_of_fields grantedAlone ⟨own.symm, ?_, ?_, ?_, ?_, ?_⟩ ⟨?_, ?_, ?_, ?_, ?_, ?_⟩
    · rw [whole]
    · rw [whole]
    · rw [whole]
    · rw [whole]
    · rw [whole]
    · rw [only]
    · rw [only]
    · rw [only]
    · rw [only]
    · rw [only]
    · rw [only]
  · rw [urgentQueue, queue]; rfl
  · rw [fifo, pending]; rfl

end Outcomes

/-- Settles O28: the edge goes along the points; the first enqueue into an IDLE converter brings the decision. -/
theorem triggerEdgeReachesLinePoints : Obligations.TriggerEdgeReachesLinePoints := by
  intro n edge s released lists level work accepted
  have same : accepted = acceptLevel n (levelAfter edge) s := by rw [levelAfter_eq]; rfl
  have listsHere : ∀ i : PointIdx, ListLaw ((acceptLevel n (levelAfter edge) s).point i) := lists
  refine ⟨fun stays => ?_, fun moves => ⟨edgeAccepted n edge s, ?_, fun undecided => ?_, fun j rest first nothing => ?_,
    fun j rest first idle places => ?_⟩⟩
  · rw [exec_trgEdge released, edgeTaken, levelAfter_eq, if_pos stays]
  · rw [exec_trgEdge released, edgeTaken, levelAfter_eq, if_neg moves]
  · rw [same]
    exact edge_undecided (s := acceptLevel n (levelAfter edge) s) undecided
  · rw [same]
    exact edge_granted (s := acceptLevel n (levelAfter edge) s) nothing listsHere first
  · rw [same]
    obtain ⟨u, brings, rest⟩ := edge_decided (s := acceptLevel n (levelAfter edge) s) idle listsHere places first
    exact ⟨u, brings.only, brings.point, brings.urgentQueue, brings.fifo, rest⟩
end Sys2Proof.Edges
end

section
/-!
PROOFS. Finalize (R57, R88 to R97): the command next in line that may come before the grant decision, the transfer of the
missed count, the fan-out over the subscriptions, and from these the records of a finalize.
-/

namespace Sys2Proof.Finalize

open Sys2Proof.Machine Sys2Proof.Statement Sys2Proof.Safety

/-! ### The decision after a finalize (R57, R88) -/

section Next

variable {i : PointIdx} {s : State}

theorem some_beq_iff {o : Option PointIdx} : (o == some i) = true ↔ o = some i := beq_iff_eq

theorem enqueuesAtOnce_eq (e : PointEntry) : enqueuesAtOnce e = goesDue e := rfl

theorem edgeEnqueues_eq (n : TrgIdx) (edge : Edge) (e : PointEntry) : edgeEnqueues n edge e = Edges.works n edge e := by
  rw [edgeEnqueues, Edges.works, edgeTriggers, Edges.edgeReaches_eq, enqueuesAtOnce_eq, Bool.and_comm]

theorem enqueuedFirst_trgEdge (n : TrgIdx) (edge : Edge) :
    enqueuedFirst s (.trgEdge n edge) = some i ↔
      (s.trgLevels[n] != (edge == .rising) && (edgeWork n edge s).head? == some i) = true := by
  have found : allPoints.find? (fun i => edgeEnqueues n edge (s.point i)) = (edgeWork n edge s).head? := by
    rw [edgeWork, List.head?_filter]
    congr 1
    funext j
    exact edgeEnqueues_eq ..
  simp only [enqueuedFirst, found, Edges.levelAfter_eq, Bool.and_eq_true, beq_iff_eq, bne_iff_ne, ne_eq]
  by_cases same : s.trgLevels[n] = (edge == .rising)
  · rw [if_pos same]
    exact ⟨fun none => (nomatch none), fun both => absurd same both.1⟩
  · rw [if_neg same]
    exact ⟨fun first => ⟨same, first⟩, And.right⟩

theorem enqueuedFirst_periodicExpiry (j : PointIdx) :
    enqueuedFirst s (.periodicExpiry j) = some i ↔
      (j == i && (s.point i).countdown == some 0 && goesDue (s.point i) &&
        (match (s.point i).key.trigger with | .periodic _ => true | _ => false)) = true := by
  simp only [enqueuedFirst]
  by_cases here : j = i
  · subst here
    cases kind : (s.point j).key.trigger <;> simp [expiryEnqueues, kind, expired, enqueuesAtOnce_eq]
  · simp [here]

theorem executesFrame_iff (p : Port) (tag code : Byte) (body : List Byte) :
    executesFrame p tag code body s =
      ((s.port p).request == .ready &&
        (s.port p).cache.all (fun x => !(x.tag == tag && x.crc == crc16 (requestCovered tag code body)))) := by
  unfold executesFrame cacheHit
  cases (s.port p).cache with
  | none => rfl
  | some x =>
    by_cases hit : x.tag = tag ∧ x.crc = crc16 (requestCovered tag code body)
    · simp [hit]
    · have miss : (x.tag == tag && x.crc == crc16 (requestCovered tag code body)) = false := by simpa using hit
      simp only [if_neg hit, Option.all_some, miss]
      rfl

theorem pointIndexOf_eq_some {b : Byte} : pointIndexOf b.toNat = some i ↔ b = BitVec.ofNat 8 i.val := by
  unfold pointIndexOf
  split
  · next lt =>
    rw [Option.some.injEq, Fin.ext_iff, ← BitVec.toNat_inj, RequestBodies.toNat_byte (by omega : i.val < 256)]
  · next ge =>
    refine ⟨fun found => (nomatch found), fun same => absurd ?_ ge⟩
    rw [same, RequestBodies.toNat_byte (by omega : i.val < 256)]
    exact i.isLt

theorem subscribedPoint_eq_ok {p : Port} {b : Byte} :
    subscribedPoint p [b] s = .ok i ↔
      b = BitVec.ofNat 8 i.val ∧ live (s.point i) = true ∧ p ∈ (s.point i).subscribers := by
  rw [← pointIndexOf_eq_some]
  have named : byteAt [b] 0 = b.toNat := rfl
  simp only [subscribedPoint, named]
  cases pointIndexOf b.toNat with
  | none => simp
  | some j =>
    by_cases here : j = i
    · subst here
      by_cases alive : live (s.point j) = true
      · by_cases among : p ∈ (s.point j).subscribers
        · simp [alive, among]
        · simp [alive, among]
      · simp [alive]
    · simp only [Option.some.injEq, here, false_and, iff_false]
      split
      · split
        · simpa using here
        · simp
      · simp

theorem sampleEnqueues_iff (p : Port) (tag : Byte) (body : List Byte) :
    sampleEnqueues p tag body s = some i ↔ samples i p tag body s = true := by
  unfold sampleEnqueues samples
  rw [executesFrame_iff]
  cases body with
  | nil => simp [requestLength]
  | cons b rest =>
    cases rest with
    | cons c rest => simp [requestLength]
    | nil =>
      have alive (due : goesDue (s.point i) = true) : live (s.point i) = true := by
        rw [Triggers.goesDue_iff] at due
        exact SubscriberRequests.live_of_state (by rw [due.1]; decide) (by rw [due.1]; decide)
      have body : ([b] == [BitVec.ofNat 8 i.val]) = true ↔ b = BitVec.ofNat 8 i.val := by simp
      simp only [Bool.and_eq_true, body, List.contains_iff_mem]
      by_cases gate : (((s.port p).request == .ready) = true ∧ (s.port p).cache.all (fun x =>
          !(x.tag == tag && x.crc == crc16 (requestCovered tag (requestCode .sampleNow) [b]))) = true) ∧ s.attached p = true
      · rw [if_pos ⟨gate, by rfl⟩]
        obtain ⟨⟨ready, fresh⟩, attached⟩ := gate
        constructor
        · intro found
          split at found
          · next j checks =>
            split at found
            · next enqueues =>
              cases found
              obtain ⟨named, -, among⟩ := subscribedPoint_eq_ok.mp checks
              exact ⟨⟨⟨⟨⟨⟨named, ready⟩, attached⟩, fresh⟩, among⟩, by simpa using enqueues.1⟩, enqueues.2⟩
            · exact nomatch found
          · exact nomatch found
        · rintro ⟨⟨⟨⟨⟨⟨named, -⟩, -⟩, -⟩, among⟩, demand⟩, due⟩
          simp only [subscribedPoint_eq_ok.mpr ⟨named, alive due, among⟩]
          exact if_pos ⟨by simpa using demand, due⟩
      · rw [if_neg fun all => gate all.1]
        refine ⟨fun found => (nomatch found), fun all => absurd ?_ gate⟩
        obtain ⟨⟨⟨⟨⟨⟨-, ready⟩, attached⟩, fresh⟩, -⟩, -⟩, -⟩ := all
        exact ⟨⟨ready, fresh⟩, attached⟩

theorem enqueuedFirst_sampleNow (p : Port) (tag : Byte) (body : List Byte) :
    enqueuedFirst s (.sampleNow p tag body) = some i ↔
      (frameCanComplete p tag 0x17 body s && samples i p tag body s) = true := by
  rw [Bool.and_eq_true, ← sampleEnqueues_iff]
  have code : requestCode .sampleNow = 0x17 := rfl
  simp only [enqueuedFirst, code]
  by_cases completes : frameCanComplete p tag 0x17 body s = true
  · rw [if_pos completes]
    exact ⟨fun found => ⟨completes, found⟩, And.right⟩
  · rw [if_neg completes]
    exact ⟨fun found => (nomatch found), fun both => absurd both.1 completes⟩

theorem enqueuedFirst_byteTaken (p : Port) (b : Byte) :
    enqueuedFirst s (.byteTaken p b) = some i ↔
      (match (s.port p).receiver with
        | .checking len [tag, code, index] (some high) =>
          code == 0x17 && crcBytes [len, tag, code, index] == [high, b] && samples i p tag [index] s
        | _ => false) = true := by
  have code : requestCode .sampleNow = 0x17 := rfl
  have shape {len tag code' high : Byte} {body : List Byte} :
      (if code' = 0x17 ∧ crcBytes (len :: tag :: code' :: body) = [high, b] then sampleEnqueues p tag body s else none) =
          some i ↔
        (code' == 0x17 && crcBytes (len :: tag :: code' :: body) == [high, b] && samples i p tag body s) = true := by
    rw [Bool.and_eq_true, Bool.and_eq_true, beq_iff_eq, beq_iff_eq, ← sampleEnqueues_iff]
    by_cases good : code' = 0x17 ∧ crcBytes (len :: tag :: code' :: body) = [high, b]
    · rw [if_pos good]
      exact ⟨fun found => ⟨good, found⟩, And.right⟩
    · rw [if_neg good]
      exact ⟨fun found => (nomatch found), fun all => absurd all.1 good⟩
  simp only [enqueuedFirst, byteEnqueues, code]
  cases (s.port p).receiver with
  | hunting => simp
  | length => simp
  | collecting => simp
  | checking len taken first =>
    cases first with
    | none => simp
    | some high =>
      rcases taken with _ | ⟨tag, _ | ⟨code', _ | ⟨index, _ | ⟨more, rest⟩⟩⟩⟩
      · simp
      · simp
      · exact shape.trans (by simp [samples])
      · exact shape
      · exact shape.trans (by simp [samples])

/-- Which command enqueues the point next is said in the same way twice: by the model and by the statement. -/
theorem nextEnqueued_iff : nextEnqueued s = some i ↔ enqueuedNext i s = true := by
  unfold nextEnqueued enqueuedNext
  cases s.pending with
  | nil => simp
  | cons c rest =>
    simp only [List.head?_cons, Option.bind_some]
    cases c
    case trgEdge n edge => exact enqueuedFirst_trgEdge n edge
    case periodicExpiry j => exact enqueuedFirst_periodicExpiry j
    case sampleNow p tag body => exact enqueuedFirst_sampleNow p tag body
    case byteTaken p b => exact enqueuedFirst_byteTaken p b
    all_goals simp [enqueuedFirst]

theorem burstEnds_point (i : PointIdx) (t : State) :
    burstEnds (.point i) t = finalizedThen i (finalizePoint i t) := by
  have same : decisionWaits i (finalizePoint i t) = true ↔
      enqueuedNext i (finalizePoint i t) = true ∧
        Config.decisionWaits (finalizePoint i t).draws (finalizePoint i t).pending.length = true := by
    rw [decisionWaits, Bool.and_eq_true, beq_iff_eq, nextEnqueued_iff]
  have ends : burstEnds (.point i) t = if decisionWaits i (finalizePoint i t) then leaveDecisionDue (finalizePoint i t)
      else grantDecision (finalizePoint i t) := rfl
  rw [ends, finalizedThen]
  by_cases waits : decisionWaits i (finalizePoint i t) = true
  · rw [if_pos waits, if_pos (same.mp waits)]
    rfl
  · rw [if_neg waits, if_neg fun both => waits (same.mpr both)]

end Next

/-! ### A change of every subscription to one point -/

section Subscriptions

variable {i : PointIdx} {s t : State} {p q : Port}

/-- No table holds the same point twice (R7). -/
abbrev SlotsDistinct (s : State) : Prop :=
  ∀ p : Port, ∀ k l : SlotIdx, ∀ u ∈ s.slot p k, ∀ v ∈ s.slot p l, u.point = v.point → k = l

/-- A slot after `f` where it holds a subscription to point `i`. -/
def onPoint (i : PointIdx) (f : Subscription → Subscription) (x : Option Subscription) : Option Subscription :=
  x.map (fun v => if v.point = i then f v else v)

theorem onPoint_none (f : Subscription → Subscription) : onPoint i f none = none := rfl

theorem onPoint_here {f : Subscription → Subscription} {v : Subscription} (here : v.point = i) :
    onPoint i f (some v) = some (f v) := congrArg some (if_pos here)

theorem onPoint_away {f : Subscription → Subscription} {x : Option Subscription} (away : x.map (·.point) ≠ some i) :
    onPoint i f x = x := by
  cases x with
  | none => rfl
  | some v => exact congrArg some (if_neg fun here => away (congrArg some here))

theorem onPoint_onPoint {f g : Subscription → Subscription} (same : ∀ v, (f v).point = v.point) (x : Option Subscription) :
    onPoint i g (onPoint i f x) = onPoint i (g ∘ f) x := by
  cases x with
  | none => rfl
  | some v =>
    by_cases here : v.point = i
    · rw [onPoint_here here, onPoint_here here, onPoint_here ((same v).trans here)]
      rfl
    · have away : (some v).map (·.point) ≠ some i := fun same => here (Option.some.inj same)
      rw [onPoint_away away, onPoint_away away, onPoint_away away]

theorem map_point_onPoint {f : Subscription → Subscription} (same : ∀ v, (f v).point = v.point) (x : Option Subscription) :
    (onPoint i f x).map (·.point) = x.map (·.point) := by
  cases x with
  | none => rfl
  | some v =>
    simp only [onPoint, Option.map_some, Option.some.injEq]
    split
    · exact same v
    · rfl

theorem slotsDistinct_of_points (distinct : SlotsDistinct s)
    (same : ∀ q k, (t.slot q k).map (·.point) = (s.slot q k).map (·.point)) : SlotsDistinct t := by
  intro q k l u hu v hv points
  have here : (s.slot q k).map (·.point) = some u.point := by rw [← same, hu]; rfl
  have there : (s.slot q l).map (·.point) = some v.point := by rw [← same, hv]; rfl
  obtain ⟨u', hu', pu⟩ := Option.map_eq_some_iff.mp here
  obtain ⟨v', hv', pv⟩ := Option.map_eq_some_iff.mp there
  exact distinct q k l u' hu' v' hv' (pu.trans (points.trans pv.symm))

theorem slotOf_eq_none_iff : slotOf s p i = none ↔ ∀ k : SlotIdx, (s.slot p k).map (·.point) ≠ some i := by
  unfold slotOf
  rw [List.find?_eq_none]
  refine ⟨fun absent k here => ?_, fun away k _ => ?_⟩
  · obtain ⟨u, entry, point⟩ := Option.map_eq_some_iff.mp here
    have := absent k (List.mem_finRange k)
    simp [entry, point] at this
  · cases entry : s.slot p k with
    | none => simp
    | some u => simpa using fun here : u.point = i => away k (by rw [entry, Option.map_some, here])

theorem slotOf_sole {k : SlotIdx} (distinct : SlotsDistinct s) (here : (s.slot p k).map (·.point) = some i) :
    slotOf s p i = some k := by
  refine SubscriberRequests.slotOf_eq_some fun j => ⟨fun there => ?_, fun same => same ▸ here⟩
  obtain ⟨u, hu, pu⟩ := Option.map_eq_some_iff.mp there
  obtain ⟨v, hv, pv⟩ := Option.map_eq_some_iff.mp here
  exact distinct p j k u hu v hv (pu.trans pv.symm)

/-- The one slot of a port that holds the point is written. -/
theorem slot_setSlot_onPoint {k : SlotIdx} {u : Subscription} (f : Subscription → Subscription) (distinct : SlotsDistinct s)
    (entry : s.slot p k = some u) (here : u.point = i) (q : Port) (l : SlotIdx) :
    (s.setSlot p k (some (f u))).slot q l = if q = p then onPoint i f (s.slot q l) else s.slot q l := by
  rw [Departures.slot_setSlot_eq]
  by_cases own : q = p
  · subst own
    rw [if_pos rfl]
    by_cases same : l = k
    · rw [if_pos ⟨rfl, same⟩, same, entry, onPoint_here here]
    · have away : (s.slot q l).map (·.point) ≠ some i := fun there => by
        obtain ⟨v, hv, pv⟩ := Option.map_eq_some_iff.mp there
        exact same (distinct q l k v hv u entry (pv.trans here.symm))
      rw [if_neg fun both => same both.2, onPoint_away away]
  · rw [if_neg fun both => own both.1, if_neg own]

theorem slot_modSubscription (f : Subscription → Subscription) (distinct : SlotsDistinct s) (q : Port) (l : SlotIdx) :
    (modSubscription p i f s).slot q l = if q = p then onPoint i f (s.slot q l) else s.slot q l := by
  cases found : slotOf s p i with
  | none =>
    have same : modSubscription p i f s = s := by simp only [modSubscription, found]
    rw [same]
    split
    · next own =>
      subst own
      rw [onPoint_away (slotOf_eq_none_iff.mp found l)]
    · rfl
  | some k =>
    obtain ⟨u, entry, here⟩ := Option.map_eq_some_iff.mp (SubscriberRequests.point_of_slotOf found)
    have set : modSubscription p i f s = s.setSlot p k (some (f u)) := by simp only [modSubscription, found, entry, Option.map_some]
    rw [set]
    exact slot_setSlot_onPoint f distinct entry here q l

theorem slot_foldl_modSubscription (f : Subscription → Subscription) (same : ∀ v, (f v).point = v.point) (ps : List Port)
    (once : ps.Nodup) (distinct : SlotsDistinct s) (q : Port) (l : SlotIdx) :
    (ps.foldl (fun s p => modSubscription p i f s) s).slot q l =
      if q ∈ ps then onPoint i f (s.slot q l) else s.slot q l := by
  induction ps generalizing s with
  | nil => rfl
  | cons p ps ih =>
    obtain ⟨fresh, once⟩ := List.nodup_cons.mp once
    have first (q : Port) (l : SlotIdx) := slot_modSubscription (p := p) (i := i) f distinct q l
    have distinct' : SlotsDistinct (modSubscription p i f s) := slotsDistinct_of_points distinct fun q l => by
      rw [first]
      split
      · exact map_point_onPoint same _
      · rfl
    rw [List.foldl_cons, ih once distinct', first]
    by_cases own : q = p
    · subst own
      rw [if_pos rfl, if_neg fresh, if_pos (List.mem_cons_self ..)]
    · simp only [own, if_false, List.mem_cons, false_or]

end Subscriptions
/-! ### The fan-out (R94, R95, R97) -/

section FanOut

variable {i : PointIdx} {r : Result} {s t u : State} {p q : Port}

/-- A subscription after a result has been offered to it (R94, R95). -/
def offeredTo (v : Subscription) : Subscription :=
  if v.state = .paused then v
  else if v.counter + 1 = v.decimation then { v with counter := 0, missed := 0, firstPending := false }
  else { v with counter := v.counter + 1 }

theorem point_offeredTo (v : Subscription) : (offeredTo v).point = v.point := by
  unfold offeredTo
  split
  · rfl
  · split
    · rfl
    · rfl

/-- What a result does to the tables and rings of the ports of a list. -/
structure FannedOut (i : PointIdx) (r : Result) (ps : List Port) (s t : State) : Prop where
  only : t = { s with subs := t.subs, rings := t.rings }
  slot : ∀ q : Port, ∀ k : SlotIdx, t.slot q k = if q ∈ ps then onPoint i offeredTo (s.slot q k) else s.slot q k
  ring : ∀ q : Port, q ∉ ps → t.ring q = s.ring q
  arrives : ∀ q ∈ ps, ∀ k : SlotIdx, ∀ v ∈ s.slot q k, v.point = i → s.attached q = true →
    t.ring q = if delivers v then ringArrive (s.ring q) (recordFor i r v) else s.ring q

theorem FannedOut.refl (s : State) : FannedOut i r [] s s where
  only := rfl
  slot _ _ := rfl
  ring _ _ := rfl
  arrives _ among := nomatch among

theorem setSlot_slot (s : State) (p : Port) (k : SlotIdx) : s.setSlot p k (s.slot p k) = s := by
  simp [State.setSlot, State.slot]

/-- The offer to one port that holds the point. -/
theorem offerResult_eq {k : SlotIdx} {v : Subscription} (distinct : SlotsDistinct s) (entry : s.slot p k = some v)
    (here : v.point = i) :
    offerResult i r p s =
      if delivers v then deliverRecord p (recordFor i r v) (s.setSlot p k (some (offeredTo v)))
      else s.setSlot p k (some (offeredTo v)) := by
  have found : slotOf s p i = some k := slotOf_sole distinct (by rw [entry, Option.map_some, here])
  have same : s.setSlot p k (some v) = s := by rw [← entry]; exact setSlot_slot s p k
  cases state : v.state with
  | paused =>
    have stays : offeredTo v = v := if_pos state
    have silent : delivers v = false := by simp [delivers, state]
    simp only [offerResult, found, entry, state, stays, silent, same, Bool.false_eq_true, if_false]
  | active =>
    by_cases full : v.counter + 1 = v.decimation
    · have forms : delivers v = true := by simp [delivers, state, full]
      have after : offeredTo v = { v with counter := 0, missed := 0, firstPending := false } := by
        simp only [offeredTo, state, if_pos full]
        rfl
      simp only [offerResult, found, entry, state, if_pos full, forms, after, if_true]
    · have silent : delivers v = false := by simp [delivers, full]
      have after : offeredTo v = { v with counter := v.counter + 1 } := by
        simp only [offeredTo, state, if_neg full]
        rfl
      simp only [offerResult, found, entry, state, if_neg full, silent, after, Bool.false_eq_true, if_false]

theorem slot_deliverRecord (x : Record) (q : Port) (k : SlotIdx) : (deliverRecord p x s).slot q k = s.slot q k := by
  unfold deliverRecord
  split
  · rfl
  · rfl

theorem ring_deliverRecord (x : Record) (attached : s.attached p = true) (q : Port) :
    (deliverRecord p x s).ring q = if q = p then ringArrive (s.ring p) x else s.ring q := by
  rw [RingsAndQueues.deliverRecord_attached x attached, ring_setRing_eq]

theorem ring_deliverRecord_other (x : Record) (other : q ≠ p) : (deliverRecord p x s).ring q = s.ring q := by
  cases attached : s.attached p with
  | true => rw [ring_deliverRecord x attached, if_neg other]
  | false => rw [RingsAndQueues.deliverRecord_detached x attached]

theorem fannedOut_offerResult (distinct : SlotsDistinct s) (p : Port) : FannedOut i r [p] s (offerResult i r p s) := by
  have only : offerResult i r p s = { s with subs := (offerResult i r p s).subs, rings := (offerResult i r p s).rings } := by
    have all := offerResult_only i r p s
    exact all
  cases found : slotOf s p i with
  | none =>
    have same : offerResult i r p s = s := by simp only [offerResult, found]
    have away := slotOf_eq_none_iff.mp found
    rw [same]
    refine ⟨rfl, fun q k => ?_, fun _ _ => rfl, fun q among k v entry here => absurd ?_ (away k)⟩
    · split
      · next among =>
        rw [List.mem_singleton.mp among, onPoint_away (away k)]
      · rfl
    · rw [← List.mem_singleton.mp among, entry, Option.map_some, here]
  | some k =>
    obtain ⟨v, entry, here⟩ := Option.map_eq_some_iff.mp (SubscriberRequests.point_of_slotOf found)
    have offer := offerResult_eq (r := r) distinct entry here
    have slots := slot_setSlot_onPoint offeredTo distinct entry here
    refine ⟨only, fun q l => ?_, fun q absent => ?_, fun q among l w held there attached => ?_⟩
    · simp only [List.mem_singleton]
      rw [← slots, offer]
      split
      · exact slot_deliverRecord ..
      · rfl
    · have other : q ≠ p := fun own => absent (List.mem_singleton.mpr own)
      rw [offer]
      split
      · exact ring_deliverRecord_other _ other
      · rfl
    · rw [List.mem_singleton] at among
      subst among
      have same : l = k := distinct q l k w held v entry (there.trans here.symm)
      subst same
      have sub : w = v := Option.some.inj (held.symm.trans entry)
      subst sub
      rw [offer]
      split
      · exact (ring_deliverRecord (s := s.setSlot q l (some (offeredTo w))) _ attached q).trans (if_pos rfl)
      · rfl

theorem FannedOut.cons {ps : List Port} (fresh : p ∉ ps) (first : FannedOut i r [p] s t) (rest : FannedOut i r ps t u) :
    FannedOut i r (p :: ps) s u := by
  have slotOther {q : Port} (other : q ≠ p) (k : SlotIdx) : t.slot q k = s.slot q k := by
    rw [first.slot, if_neg fun among => other (List.mem_singleton.mp among)]
  have ringOther {q : Port} (other : q ≠ p) : t.ring q = s.ring q :=
    first.ring q fun among => other (List.mem_singleton.mp among)
  have attached (q : Port) : t.attached q = s.attached q := by rw [first.only]; rfl
  refine ⟨?_, fun q k => ?_, fun q absent => ?_, fun q among k v entry here up => ?_⟩
  · rw [rest.only]; rw [first.only]
  · rw [rest.slot]
    by_cases own : q = p
    · subst own
      rw [if_neg fresh, first.slot, if_pos (List.mem_singleton.mpr rfl), if_pos (List.mem_cons_self ..)]
    · simp only [slotOther own, List.mem_cons, own, false_or]
  · obtain ⟨other, absent⟩ := (not_or.mp fun among => absent (List.mem_cons.mpr among))
    rw [rest.ring q absent, ringOther other]
  · by_cases own : q = p
    · subst own
      rw [rest.ring q fresh, first.arrives q (List.mem_singleton.mpr rfl) k v entry here up]
    · have later : q ∈ ps := (List.mem_cons.mp among).resolve_left own
      rw [rest.arrives q later k v (by rw [slotOther own]; exact entry) here (by rw [attached]; exact up), ringOther own]

theorem fannedOut_foldl (ps : List Port) (once : ps.Nodup) (distinct : SlotsDistinct s) :
    FannedOut i r ps s (ps.foldl (fun s p => offerResult i r p s) s) := by
  induction ps generalizing s with
  | nil => exact .refl s
  | cons p ps ih =>
    obtain ⟨fresh, once⟩ := List.nodup_cons.mp once
    have first := fannedOut_offerResult (i := i) (r := r) distinct p
    have distinct' : SlotsDistinct (offerResult i r p s) := slotsDistinct_of_points distinct fun q k => by
      rw [first.slot]
      split
      · exact map_point_onPoint point_offeredTo _
      · rfl
    rw [List.foldl_cons]
    exact .cons fresh first (ih once distinct')

end FanOut
/-! ### Finalize in full (R88) -/

section Point

variable {i : PointIdx} {s : State}

/-- The laws of the tables that a finalize of point `i` reads: its list, and the slots that hold it. -/
structure Subscribed (i : PointIdx) (s : State) : Prop where
  once : (s.point i).subscribers.Nodup
  listed : ∀ p : Port, p ∈ (s.point i).subscribers ↔ ∃ k : SlotIdx, (s.slot p k).map (·.point) = some i
  distinct : SlotsDistinct s
  attached : ∀ p : Port, p ∈ (s.point i).subscribers → s.attached p = true

/-- The entry of point `i` with its new sequence number, its missed count transferred (R90, R92). -/
def sequenced (e : PointEntry) (r : Result) : PointEntry := { e with sequence := r.sequence, missed := 0 }

/-- A subscription after the transfer of the point's missed count (R92). -/
def missedTaken (e : PointEntry) (v : Subscription) : Subscription := { v with missed := missedAfter e v }

theorem offeredTo_missedTaken (e : PointEntry) (v : Subscription) : offeredTo (missedTaken e v) = afterFinalize e v := by
  unfold offeredTo afterFinalize
  rfl

theorem scaledValue_eq (v : Subscription) (value16 : Nat) :
    scaledValue v value16 = Int.fdiv (((value16 : Int) - (v.offset.toNat : Int)) * v.multiplier.toInt) (2 ^ v.shift) := by
  rw [scaledValue, Int.fdiv_eq_ediv_of_nonneg _ (by positivity)]

theorem recordFor_missedTaken (e : PointEntry) (r : Result) (v : Subscription) :
    recordFor i r (missedTaken e v) = recordOf i e r v := by
  have scaled : scaledValue (missedTaken e v) r.value16 = scaledValue v r.value16 := rfl
  simp only [recordFor, recordOf, scaled, scaledValue_eq]
  rfl

theorem transferMissed_eq (s : State) :
    transferMissed i s =
      ((s.point i).subscribers.foldl (fun t p => modSubscription p i (missedTaken (s.point i)) t) s).modPoint i
        (fun e => { e with missed := 0 }) := rfl

theorem foldl_modSubscription_only (f : Subscription → Subscription) (ps : List Port) (s : State) :
    ps.foldl (fun t p => modSubscription p i f t) s =
      { s with subs := (ps.foldl (fun t p => modSubscription p i f t) s).subs } := by
  let R : State → State → Prop := fun s t => t = { s with subs := t.subs }
  refine foldl_rel R _ (fun _ => rfl) (fun s t u h k => by simp only [R] at *; rw [k]; rw [h]) (fun s p => ?_) _ _
  dsimp only [R]
  rw [modSubscription_only]

theorem point_missedTaken (e : PointEntry) (v : Subscription) : (missedTaken e v).point = v.point := rfl

/-- `t` is `s` but that the missed count of point `i` has gone to its subscriptions (R92). -/
structure MissedTransferred (i : PointIdx) (s t : State) : Prop where
  only : t = { s with points := t.points, subs := t.subs }
  point : ∀ j : PointIdx, t.point j = if j = i then { s.point i with missed := 0 } else s.point j
  slot : ∀ p : Port, ∀ k : SlotIdx, t.slot p k = onPoint i (missedTaken (s.point i)) (s.slot p k)

theorem missedTransferred (laws : Subscribed i s) : MissedTransferred i s (transferMissed i s) := by
  have only := foldl_modSubscription_only (i := i) (missedTaken (s.point i)) (s.point i).subscribers s
  have slot := slot_foldl_modSubscription (i := i) (missedTaken (s.point i)) (point_missedTaken (s.point i))
    (s.point i).subscribers laws.once laws.distinct
  refine ⟨ClaimMoves.transferMissed_points_subs i s, fun j => ?_, fun p k => ?_⟩
  · rw [transferMissed_eq]
    generalize List.foldl _ s _ = t at only ⊢
    rw [State.modPoint, point_setPoint_eq]
    have same (j : PointIdx) : t.point j = s.point j := by rw [only]; rfl
    rw [same, same]
  · have same : (transferMissed i s).slot p k = _ := slot p k
    rw [same]
    split
    · rfl
    · next absent => rw [onPoint_away fun here => absent ((laws.listed p).mpr ⟨k, here⟩)]

end Point
section Whole

variable {i : PointIdx} {s t u : State}

/-- `u` is `s` but that point `i` has been finalized with result `r`, the monitors apart. -/
structure Finalized (i : PointIdx) (r : Result) (s u : State) : Prop where
  only : u = { s with points := u.points, subs := u.subs, rings := u.rings, queues := u.queues, monitors := u.monitors,
                      lines := u.lines }
  point : ∀ j : PointIdx, u.point j =
    if j = i then { s.point i with state := .armed, sequence := r.sequence, missed := 0 } else s.point j
  slot : ∀ p : Port, ∀ k : SlotIdx, u.slot p k = onPoint i (afterFinalize (s.point i)) (s.slot p k)
  ring : ∀ p : Port, p ∉ (s.point i).subscribers → u.ring p = s.ring p
  arrives : ∀ p : Port, ∀ k : SlotIdx, ∀ v ∈ s.slot p k, v.point = i →
    u.ring p = if delivers v then ringArrive (s.ring p) (recordOf i (s.point i) r v) else s.ring p
  /-- What the monitors do they do to `s`. -/
  monitors : ∃ w : State, w = { s with points := w.points, subs := w.subs } ∧
    u.monitors = (evaluateMonitors i r.value16 w).monitors ∧ u.lines = (evaluateMonitors i r.value16 w).lines ∧
    u.queues = (evaluateMonitors i r.value16 w).queues

/-- The result of the point as it stands (R89 to R91). -/
def resultNow (i : PointIdx) (s : State) : Result := resultOf (s.point i) (s.trimEntry (s.point i).key.gain)

theorem finalizePoint_eq (i : PointIdx) (s : State) :
    finalizePoint i s =
      (fanOut i (resultNow i s) (evaluateMonitors i (resultNow i s).value16
        (transferMissed i (s.setPoint i { s.point i with sequence := (resultNow i s).sequence })))).modPoint i
          (fun e => { e with state := .armed }) := rfl

theorem subscribed_setPoint {e : PointEntry} (laws : Subscribed i s) (same : e.subscribers = (s.point i).subscribers) :
    Subscribed i (s.setPoint i e) := by
  have list : ((s.setPoint i e).point i).subscribers = (s.point i).subscribers := by rw [point_setPoint, same]
  refine ⟨?_, fun p => ?_, laws.distinct, fun p among => ?_⟩
  · rw [list]; exact laws.once
  · rw [list]; exact laws.listed p
  · rw [list] at among; exact laws.attached p among

/-- The middle of a finalize: the transfer, the monitors and the fan-out. -/
theorem finalized_middle {r : Result} {a t w v : State} (laws : Subscribed i a) (transferred : MissedTransferred i a t)
    (evaluated : OnlyMonitors t w) (fanned : FannedOut i r (a.point i).subscribers w v) :
    v = { a with points := t.points, subs := v.subs, rings := v.rings, queues := w.queues, monitors := w.monitors,
                 lines := w.lines } ∧
    (∀ p : Port, ∀ k : SlotIdx, v.slot p k = onPoint i (afterFinalize (a.point i)) (a.slot p k)) ∧
    (∀ p : Port, p ∉ (a.point i).subscribers → v.ring p = a.ring p) ∧
    (∀ p : Port, ∀ k : SlotIdx, ∀ x ∈ a.slot p k, x.point = i →
      v.ring p = if delivers x then ringArrive (a.ring p) (recordOf i (a.point i) r x) else a.ring p) := by
  have slot (p : Port) (k : SlotIdx) : w.slot p k = onPoint i (missedTaken (a.point i)) (a.slot p k) := by
    rw [← transferred.slot]; unfold OnlyMonitors at evaluated; rw [evaluated]; rfl
  have ring (p : Port) : w.ring p = a.ring p := by
    unfold OnlyMonitors at evaluated; rw [evaluated, transferred.only]; rfl
  have attached (p : Port) : w.attached p = a.attached p := by
    unfold OnlyMonitors at evaluated; rw [evaluated, transferred.only]; rfl
  refine ⟨?_, fun p k => ?_, fun p absent => ?_, fun p k x entry here => ?_⟩
  · refine Eq.trans fanned.only ?_
    unfold OnlyMonitors at evaluated
    rw [evaluated]
    rw [transferred.only]
  · rw [fanned.slot, slot, onPoint_onPoint (point_missedTaken _)]
    have same : offeredTo ∘ missedTaken (a.point i) = afterFinalize (a.point i) :=
      funext fun x => offeredTo_missedTaken (a.point i) x
    rw [same]
    split
    · rfl
    · next absent =>
      have away : (a.slot p k).map (·.point) ≠ some i := fun here => absent ((laws.listed p).mpr ⟨k, here⟩)
      rw [onPoint_away away, onPoint_away away]
  · rw [fanned.ring p absent, ring]
  · have among : p ∈ (a.point i).subscribers := (laws.listed p).mpr ⟨k, by rw [entry, Option.map_some, here]⟩
    have entry' : w.slot p k = some (missedTaken (a.point i) x) := by rw [slot, entry, onPoint_here here]
    rw [fanned.arrives p among k _ entry' here (by rw [attached]; exact laws.attached p among), ring, recordFor_missedTaken]
    rfl

theorem finalized (laws : Subscribed i s) : Finalized i (resultNow i s) s (finalizePoint i s) := by
  rw [finalizePoint_eq]
  generalize resultNow i s = r
  have laws' := subscribed_setPoint (e := { s.point i with sequence := r.sequence }) laws rfl
  have entry := point_setPoint s i { s.point i with sequence := r.sequence }
  have transferred := missedTransferred laws'
  generalize transferMissed i (s.setPoint i { s.point i with sequence := r.sequence }) = t at transferred ⊢
  have evaluated := evaluateMonitors_only i r.value16 t
  have monitors : ∃ w : State, w = { s with points := w.points, subs := w.subs } ∧
      (evaluateMonitors i r.value16 t).monitors = (evaluateMonitors i r.value16 w).monitors ∧
      (evaluateMonitors i r.value16 t).lines = (evaluateMonitors i r.value16 w).lines ∧
      (evaluateMonitors i r.value16 t).queues = (evaluateMonitors i r.value16 w).queues :=
    ⟨t, by rw [transferred.only]; rfl, rfl, rfl, rfl⟩
  generalize evaluateMonitors i r.value16 t = w at evaluated monitors ⊢
  have list : (w.point i).subscribers = ((s.setPoint i { s.point i with sequence := r.sequence }).point i).subscribers := by
    have same : w.point i = t.point i := by unfold OnlyMonitors at evaluated; rw [evaluated]; rfl
    rw [same, transferred.point, if_pos rfl]
  have distinct : SlotsDistinct w := slotsDistinct_of_points laws.distinct fun q k => by
    have same : w.slot q k = t.slot q k := by unfold OnlyMonitors at evaluated; rw [evaluated]; rfl
    rw [same, transferred.slot]
    exact map_point_onPoint (point_missedTaken _) _
  have fanned : FannedOut i r (w.point i).subscribers w (fanOut i r w) :=
    fannedOut_foldl _ (by rw [list]; exact laws'.once) distinct
  generalize fanOut i r w = v at fanned ⊢
  rw [list] at fanned
  obtain ⟨only, slot, ring, arrives⟩ := finalized_middle laws' transferred evaluated fanned
  rw [entry] at slot ring arrives
  have point (j : PointIdx) : v.point j = t.point j := by rw [only]; rfl
  refine ⟨?_, fun j => ?_, slot, ring, arrives, ?_⟩
  · rw [State.modPoint]
    generalize v.point i = e
    rw [only]
    rfl
  · rw [State.modPoint, point_setPoint_eq, point, point, transferred.point, if_pos rfl, transferred.point, entry]
    by_cases here : j = i
    · rw [if_pos here, if_pos here]
    · rw [if_neg here, if_neg here, if_neg here, point_setPoint_ne _ _ _ _ here]
  · obtain ⟨x, state, sameMonitors, sameLines, sameQueues⟩ := monitors
    refine ⟨x, state, ?_, ?_, ?_⟩
    · rw [← sameMonitors, State.modPoint]; generalize v.point i = e; rw [only]; rfl
    · rw [← sameLines, State.modPoint]; generalize v.point i = e; rw [only]; rfl
    · rw [← sameQueues, State.modPoint]; generalize v.point i = e; rw [only]; rfl

end Whole
/-! ### The completion of the last conversion (R57, R88) -/

section Last

variable {i : PointIdx} {level : Level} {s u : State}

theorem attached_of_slot (laws : SessionLaws s) {p : Port} {k : SlotIdx} {v : Subscription} (entry : s.slot p k = some v) :
    s.attached p = true := by
  by_contra detached
  obtain ⟨-, -, ownership, -⟩ := laws p
  obtain ⟨slots, -⟩ := ownership (.inl (by simpa using detached))
  rw [slots k] at entry
  exact nomatch entry

theorem attached_of_subscriber (joined : Departures.Joined s) (laws : SessionLaws s) {p : Port}
    (among : p ∈ (s.point i).subscribers) : s.attached p = true := by
  obtain ⟨k, slot⟩ := (joined.subscriptions.1 p i).mp among
  obtain ⟨v, entry, -⟩ := Option.map_eq_some_iff.mp slot
  exact attached_of_slot laws entry

theorem subscribed_of_laws (joined : Departures.Joined s) (laws : SessionLaws s) (i : PointIdx) : Subscribed i s where
  once := (joined.lists i).2.2
  listed p := joined.subscriptions.1 p i
  distinct := joined.subscriptions.2
  attached _ among := attached_of_subscriber joined laws among

/-- The state after the last code of the burst has been taken, before the finalize. -/
def lastCounted (i : PointIdx) (code : ConverterCode) (s : State) : State :=
  s.setPoint i (Completions.codeCounted (s.point i) code s)

theorem resultNow_lastCounted (code : ConverterCode) : resultNow i (lastCounted i code s) = resultAt i code s := by
  have here : resultNow i (lastCounted i code s) =
      resultOf (Completions.codeCounted (s.point i) code s) (s.trimEntry (s.point i).key.gain) := by
    unfold resultNow lastCounted
    rw [point_setPoint]
    rfl
  have used (t : TrimEntry) : trimUsed t = if t.state = .valid then t.trim else 0 := by
    cases state : t.state <;> simp [trimUsed, state]
  rw [here]
  simp only [resultAt, resultOf, resultWith, Completions.codeCounted, scaledAverage, used, Option.getD_some]

/-- The completion finalizes the point. -/
theorem exec_lastConversion (last : LastConversion i s) (laws : TableLaws s) :
    exec (.conversionCompletion level) s = .next (finalizedThen i (finalizePoint i
      (lastCounted i (codeAt (s.point i).key.channel (s.point i).key.gain level s) s))) := by
  obtain ⟨released, holds, converting, full⟩ := last
  obtain ⟨b, holds, subject⟩ := Option.map_eq_some_iff.mp holds
  obtain ⟨-, -, -, -, -, -, -, converter⟩ := laws
  obtain ⟨length, -⟩ := converter.1 b holds
  have alive : subjectRetiring b.subject s = false :=
    Completions.subjectRetiring_point subject (by rw [converting]; decide)
  rw [Completions.exec_conversionCompletion released holds, Completions.completionCode_point subject,
    Completions.completeConversion_live alive]
  generalize codeAt (s.point i).key.channel (s.point i).key.gain level s = code
  have ends : conversionsDone (.point i) (lastCounted i code s) = b.length := by
    rw [length, subject]
    simp only [conversionsDone, lastCounted, point_setPoint, burstLength]
    exact full
  simp only [subject, Completions.takeCode_point]
  exact congrArg Host.Outcome.next ((if_pos ends).trans (burstEnds_point i _))

theorem finalized_last (laws : TableLaws s) (sessions : SessionLaws s) (code : ConverterCode) :
    Finalized i (resultAt i code s) (lastCounted i code s) (finalizePoint i (lastCounted i code s)) := by
  rw [← resultNow_lastCounted]
  exact finalized (subscribed_setPoint (subscribed_of_laws (Departures.joined_of_tableLaws laws) sessions i) rfl)

end Last

theorem evaluateMonitors_silent {i : PointIdx} {v : Nat} {w : State} (silent : ∀ k : MonitorIdx, ∀ m ∈ w.monitor k, m.point ≠ i) :
    evaluateMonitors i v w = w := by
  unfold evaluateMonitors
  refine foldl_keeps (fun t => t = w) _ _ (fun t k _ same => ?_) w rfl
  subst same
  split
  · next m entry => exact if_neg (silent k m entry)
  · rfl

/-- Settles O35: the completion is the finalize, whose parts are the transfer, the monitors and the fan-out. -/
theorem finalizeDeliversRecords : Obligations.FinalizeDeliversRecords := by
  intro i level s last laws sessions e code r
  have done := finalized_last (i := i) laws sessions code
  have entry : (lastCounted i code s).point i = Completions.codeCounted e code s := point_setPoint ..
  have exec := exec_lastConversion (level := level) last laws
  generalize finalizePoint i (lastCounted i code s) = u at done exec
  have after (v : Subscription) : afterFinalize ((lastCounted i code s).point i) v = afterFinalize e v := by rw [entry]; rfl
  have record (v : Subscription) : recordOf i ((lastCounted i code s).point i) r v = recordOf i e r v := by rw [entry]; rfl
  refine ⟨u, exec, done.only, fun j => ?_, fun p k => ?_, fun p k v held here => ?_, fun p absent => ?_, fun silent => ?_⟩
  · rw [done.point, entry, lastCounted, point_setPoint_eq]
    by_cases here : j = i
    · rw [if_pos here, if_pos here]
      rfl
    · rw [if_neg here, if_neg here, if_neg here]
  · rw [done.slot, onPoint]
    simp only [after]
    rfl
  · rw [done.arrives p k v held here, record]
    rfl
  · rw [done.ring p (by rw [entry]; exact absent)]
    rfl
  · obtain ⟨w, only, monitors, lines, queues⟩ := done.monitors
    have silentHere : ∀ k : MonitorIdx, ∀ m ∈ w.monitor k, m.point ≠ i := by rw [only]; exact silent
    rw [evaluateMonitors_silent silentHere] at monitors lines queues
    refine ⟨monitors.trans ?_, lines.trans ?_, queues.trans ?_⟩
    · rw [only]; rfl
    · rw [only]; rfl
    · rw [only]; rfl

end Sys2Proof.Finalize
end

section
/-!
PROOFS. The evaluation of the limit monitors at a finalize (R131 to R136): one monitor's evaluation with its events and its
claim, and the monitors of the point in ascending index.
-/

namespace Sys2Proof.Monitors

open Sys2Proof.Machine Sys2Proof.Statement Sys2Proof.Safety

/-! ### The claimants beside one of them -/

section Others

variable {s : State} {l : LineIdx} {c : Claimant}

/-- A claimant beside `c` stands in the claim set. -/
def othersStand (set : ClaimSet) (c : Claimant) : Bool := (List.finRange 15).any (fun x => x != claimantIndex c && set[x])

theorem claimAsserted_eq_any (set : ClaimSet) : claimAsserted set = (List.finRange 15).any (fun x => set[x]) := by
  rw [Bool.eq_iff_iff, claimAsserted_iff, List.any_eq_true]
  simp only [List.mem_finRange, true_and]

theorem claimAsserted_without (set : ClaimSet) (c : Claimant) :
    claimAsserted (set.set (claimantIndex c) false) = othersStand set c := by
  rw [claimAsserted_eq_any, othersStand]
  congr 1
  funext x
  by_cases own : x = claimantIndex c
  · subst own
    simp
  · have elsewhere : (claimantIndex c).val ≠ x.val := fun same => own (Fin.ext same).symm
    simp [Vector.getElem_set_ne, elsewhere, own]

theorem asserted_of_absent (absent : s.claims l c = false) : s.lineAsserted l = othersStand (s.line l) c := by
  rw [← claimAsserted_without, State.lineAsserted]
  congr 1
  rw [← show (s.line l)[claimantIndex c] = false from absent]
  exact (Vector.set_getElem_self _).symm

theorem sole_iff_of_stands (stands : s.claims l c = true) : claimCount (s.line l) = 1 ↔ othersStand (s.line l) c = false := by
  have lowered := ClaimRemoval.claimCount_set_false (set := s.line l) (x := claimantIndex c) stands
  rw [← claimAsserted_without, ClaimRemoval.claimAsserted_eq_false_iff]
  omega

end Others

/-! ### One monitor (R132 to R136) -/

section Monitor

variable {k : MonitorIdx} {m : Monitor} {v : Nat} {s : State} {q : Port}

/-- The line event of a monitor's evaluation, by the claim sets as they then stand (R148, R149). -/
def ownLineEvents (m : Monitor) (v : Nat) (k : MonitorIdx) (s : State) : List Event :=
  match actionLine m.action with
  | none => []
  | some l =>
    if othersStand (s.line l) (.monitor k) then []
    else match m.claimHeld, (evaluated m v).claimHeld with
      | false, true => [eventNow s .lineAsserted l.val 1]
      | true, false => [eventNow s .lineReleased l.val 0]
      | _, _ => []

theorem ownLineEvents_of_same (same : (evaluated m v).claimHeld = m.claimHeld) : ownLineEvents m v k s = [] := by
  unfold ownLineEvents
  rw [same]
  cases actionLine m.action with
  | none => rfl
  | some l =>
    dsimp only
    split
    · rfl
    · cases m.claimHeld <;> rfl

/-- The monitor's entry is written and its event formed. -/
def told (kind : EventKind) (k : MonitorIdx) (m : Monitor) (v : Nat) (s : State) : State :=
  formEvent kind k.val v (monitorAudience m) (s.setMonitor k (some (evaluated m v)))

/-- The line on which a monitor gives its claim up when it recovers (R135). -/
def followedLine : MonitorAction → Option LineIdx
  | .follow l => some l
  | .latch _ | .none => none

/-- The three things an evaluation can be. -/
inductive Verdict (m : Monitor) (v : Nat) : Prop
  | stays (state : m.state = .out ↔ (evaluated m v).state = .out)
      (claim : (evaluated m v).claimHeld = m.claimHeld)
      (runs : ∀ k s, s.monitor k = some m → evaluateMonitor k m v s = s.setMonitor k (some (evaluated m v)))
  | trips (within : m.state ≠ .out)
      (after : (evaluated m v).state = .out) (claim : (evaluated m v).claimHeld = (actionLine m.action).isSome)
      (runs : ∀ k s, evaluateMonitor k m v s =
        (actionLine m.action).elim (told .trip k m v s) (fun l => addClaim l (.monitor k) (told .trip k m v s)))
  | recovers (out : m.state = .out)
      (after : (evaluated m v).state = .inside)
      (claim : (evaluated m v).claimHeld = (m.claimHeld && (followedLine m.action).isNone))
      (runs : ∀ k s, evaluateMonitor k m v s =
        (followedLine m.action).elim (told .recover k m v s) (fun l => removeClaim l (.monitor k) (told .recover k m v s)))

theorem outsideWindow_eq (m : Monitor) (v : Nat) : outsideWindow m v = outside m v := rfl

theorem insideRecovery_eq (m : Monitor) (v : Nat) : insideRecovery m v = recovers m v := rfl

theorem evaluateMonitor_within (within : m.state ≠ .out) (k : MonitorIdx) (s : State) :
    evaluateMonitor k m v s =
      if outside m v then monitorCounts k m v s else s.setMonitor k (some { m with state := .inside, count := 0 }) := by
  cases state : m.state with
  | out => exact absurd state within
  | inside => simp only [evaluateMonitor, state, outsideWindow_eq]; rfl
  | qualifying => simp only [evaluateMonitor, state, outsideWindow_eq]; rfl

theorem evaluated_within (within : m.state ≠ .out) :
    evaluated m v =
      if outside m v then
        if m.count + 1 = m.qualify then
          { m with state := .out, count := m.qualify, claimHeld := (actionLine m.action).isSome }
        else { m with state := .qualifying, count := m.count + 1 }
      else { m with state := .inside, count := 0 } := by
  cases state : m.state with
  | out => exact absurd state within
  | inside => simp only [evaluated, state]
  | qualifying => simp only [evaluated, state]

theorem verdict_within (within : m.state ≠ .out) : Verdict m v := by
  have runs := evaluateMonitor_within (v := v) within
  have after := evaluated_within (v := v) within
  by_cases beyond : outside m v = true
  · by_cases full : m.count + 1 = m.qualify
    · rw [if_pos beyond, if_pos full] at after
      refine .trips within (by rw [after]) (by rw [after]) fun k s => ?_
      rw [runs, if_pos beyond, monitorCounts, if_pos full, monitorTrips, told, after]
      cases actionLine m.action with
      | none => rfl
      | some l => rfl
    · rw [if_pos beyond, if_neg full] at after
      refine .stays ?_ (by rw [after]) fun k s _ => by rw [runs, if_pos beyond, monitorCounts, if_neg full, after]
      simp [after, within]
  · rw [if_neg beyond] at after
    refine .stays ?_ (by rw [after]) fun k s _ => by rw [runs, if_neg beyond, after]
    simp [after, within]

theorem verdict_out (out : m.state = .out) : Verdict m v := by
  have runs (k : MonitorIdx) (s : State) : evaluateMonitor k m v s = if recovers m v then monitorRecovers k m v s else s := by
    simp only [evaluateMonitor, out, insideRecovery_eq]; rfl
  have after : evaluated m v = if recovers m v then
      { m with state := .inside, count := 0, claimHeld := match m.action with
                                                          | .follow _ => false
                                                          | .latch _ | .none => m.claimHeld } else m := by
    simp only [evaluated, out] <;> rfl
  by_cases back : recovers m v = true
  · rw [if_pos back] at after
    refine .recovers out (by rw [after]) ?_ fun k s => ?_
    · rw [after]
      cases m.action with
      | none => exact (Bool.and_true _).symm
      | latch l => exact (Bool.and_true _).symm
      | follow l => exact (Bool.and_false _).symm
    · rw [runs, if_pos back, monitorRecovers, told, after]
      cases m.action with
      | none => rfl
      | latch l => rfl
      | follow l => rfl
  · rw [if_neg back] at after
    refine .stays (by rw [after]) (by rw [after]) fun k s entry => ?_
    rw [runs, if_neg back, after, ← entry, setMonitor_monitor]

theorem verdict (m : Monitor) (v : Nat) : Verdict m v := by
  by_cases out : m.state = .out
  · exact verdict_out out
  · exact verdict_within out

/-! #### Its entry -/

theorem monitor_told (kind : EventKind) (j : MonitorIdx) :
    (told kind k m v s).monitor j = if j = k then some (evaluated m v) else s.monitor j := by
  rw [told, (formEvent_only ..).monitor, monitor_setMonitor_eq]

theorem monitor_evaluateMonitor (entry : s.monitor k = some m) (j : MonitorIdx) :
    (evaluateMonitor k m v s).monitor j = if j = k then some (evaluated m v) else s.monitor j := by
  cases verdict m v with
  | stays state claim runs => rw [runs k s entry, monitor_setMonitor_eq]
  | trips within after claim runs =>
    rw [runs, ← monitor_told .trip]
    cases actionLine m.action with
    | none => rfl
    | some l => exact (addClaim_only ..).monitor j
  | recovers out after claim runs =>
    rw [runs, ← monitor_told .recover]
    cases followedLine m.action with
    | none => rfl
    | some l => exact (removeClaim_only ..).monitor j

/-! #### Its events -/

theorem queue_told (kind : EventKind) (q : Port) :
    (told kind k m v s).queue q =
      offered s q (if m.broadcast = true ∨ q = m.creator then [eventNow s kind k.val v] else []) := by
  have audience : monitorAudience m q = true ↔ m.broadcast = true ∨ q = m.creator := by simp [monitorAudience]
  rw [told, queue_formEvent, offered]
  by_cases meant : m.broadcast = true ∨ q = m.creator
  · rw [if_pos meant]
    by_cases attached : s.attached q = true
    · rw [if_pos ⟨audience.mpr meant, attached⟩, if_pos attached]
      rfl
    · rw [if_neg fun both => attached both.2, if_neg attached]
      rfl
  · rw [if_neg meant, if_neg fun both => meant (audience.mp both.1)]
    split
    · rfl
    · rfl

end Monitor

/-! #### All that one evaluation offers to a queue -/

section Offers

variable {k : MonitorIdx} {m : Monitor} {v : Nat} {s : State} {q : Port}

theorem monitorEvents_stays (state : m.state = .out ↔ (evaluated m v).state = .out) : monitorEvents k m v q s = [] := by
  unfold monitorEvents
  split
  · cases before : m.state <;> cases after : (evaluated m v).state <;> simp_all
  · rfl

theorem monitorEvents_trips (within : m.state ≠ .out) (after : (evaluated m v).state = .out) :
    monitorEvents k m v q s = if m.broadcast = true ∨ q = m.creator then [eventNow s .trip k.val v] else [] := by
  unfold monitorEvents
  rw [after]
  cases state : m.state with
  | out => exact absurd state within
  | inside => rfl
  | qualifying => rfl

theorem monitorEvents_recovers (out : m.state = .out) (after : (evaluated m v).state = .inside) :
    monitorEvents k m v q s = if m.broadcast = true ∨ q = m.creator then [eventNow s .recover k.val v] else [] := by
  unfold monitorEvents
  rw [after, out]

theorem attached_told (kind : EventKind) : (told kind k m v s).attached q = s.attached q := by
  rw [told, (formEvent_only ..).attached]
  rfl

theorem line_told (kind : EventKind) (l : LineIdx) : (told kind k m v s).line l = s.line l := by
  rw [told, (formEvent_only ..).line]
  rfl

theorem eventNow_told (kind kind' : EventKind) (subject value : Nat) :
    eventNow (told kind k m v s) kind' subject value = eventNow s kind' subject value := by
  have timebase : (told kind k m v s).timebase = s.timebase := by
    unfold told
    rw [(formEvent_only ..).timebase]
    rfl
  rw [eventNow, timebase]
  rfl

theorem claims_told (kind : EventKind) (l : LineIdx) (c : Claimant) : (told kind k m v s).claims l c = s.claims l c := by
  rw [State.claims, line_told]
  rfl

theorem assertedEvents_told {l : LineIdx} (line : actionLine m.action = some l) (holds : (evaluated m v).claimHeld = true)
    (stood : ∀ l : LineIdx, s.claims l (.monitor k) = true ↔ heldLine m = some l) (kind : EventKind) :
    assertedEvents (told kind k m v s) (maskOfLines (· == l)) = ownLineEvents m v k s := by
  rw [LineClaims.assertedEvents_maskOfLine, State.lineAsserted, line_told, eventNow_told, ← State.lineAsserted]
  simp only [ownLineEvents, line, holds]
  cases held : m.claimHeld with
  | true =>
    have asserted : s.lineAsserted l = true :=
      LineClaims.claimAsserted_of_stands ((stood l).mpr (by rw [heldLine, if_pos held, line]))
    rw [asserted, if_pos rfl]
    split <;> rfl
  | false =>
    have absent : s.claims l (.monitor k) = false := by
      rw [Bool.eq_false_iff, ne_eq, stood, heldLine, held]
      exact fun found => (nomatch found)
    rw [asserted_of_absent absent]

theorem releasedEvents_told {l : LineIdx} (follows : m.action = .follow l) (held : m.claimHeld = true)
    (gone : (evaluated m v).claimHeld = false) (stood : ∀ l : LineIdx, s.claims l (.monitor k) = true ↔ heldLine m = some l)
    (kind : EventKind) :
    releasedEvents (told kind k m v s) (maskOfLines (· == l)) (.monitor k) = ownLineEvents m v k s := by
  have line : actionLine m.action = some l := by rw [follows]; rfl
  have stands : s.claims l (.monitor k) = true := (stood l).mpr (by rw [heldLine, if_pos held, line])
  rw [ClaimRemoval.releasedEvents_maskOfLine, claims_told, line_told, eventNow_told]
  simp only [ownLineEvents, line, gone, held]
  cases others : othersStand (s.line l) (.monitor k) with
  | true =>
    rw [if_neg fun sole => by rw [(sole_iff_of_stands stands).mp sole.2] at others; exact nomatch others]
    rfl
  | false =>
    rw [if_pos ⟨stands, (sole_iff_of_stands stands).mpr others⟩]
    rfl

theorem queue_evaluateMonitor (entry : s.monitor k = some m) (law : MonitorLaw m)
    (stood : ∀ l : LineIdx, s.claims l (.monitor k) = true ↔ heldLine m = some l) (q : Port) :
    (evaluateMonitor k m v s).queue q = offered s q (monitorEvents k m v q s ++ ownLineEvents m v k s) := by
  cases verdict m v with
  | stays state claim runs =>
    rw [runs k s entry, monitorEvents_stays state, ownLineEvents_of_same claim]
    unfold offered
    split
    · rfl
    · rfl
  | trips within after claim runs =>
    rw [runs, monitorEvents_trips within after]
    cases line : actionLine m.action with
    | none =>
      have silent : ownLineEvents m v k s = [] := by simp only [ownLineEvents, line]
      rw [silent, List.append_nil]
      exact queue_told .trip q
    | some l =>
      have holds : (evaluated m v).claimHeld = true := by rw [claim, line]; rfl
      refine (LineClaims.queue_addClaim l _ _ q).trans ?_
      rw [assertedEvents_told line holds stood]
      exact LineClaims.offered_after (attached_told .trip) (queue_told .trip q) _
  | recovers out after claim runs =>
    rw [runs, monitorEvents_recovers out after]
    cases action : m.action with
    | none =>
      have silent := ownLineEvents_of_same (k := k) (s := s) (claim.trans (by rw [action]; exact Bool.and_true _))
      rw [silent, List.append_nil]
      exact queue_told .recover q
    | latch l =>
      have silent := ownLineEvents_of_same (k := k) (s := s) (claim.trans (by rw [action]; exact Bool.and_true _))
      rw [silent, List.append_nil]
      exact queue_told .recover q
    | follow l =>
      have held : m.claimHeld = true := by
        obtain ⟨-, -, -, -, fits⟩ := law
        simpa [claimFits, action, out] using fits
      have gone : (evaluated m v).claimHeld = false := claim.trans (by rw [action]; exact Bool.and_false _)
      refine (ClaimRemoval.queue_removeClaim l _ _ q).trans ?_
      rw [releasedEvents_told action held gone stood]
      exact LineClaims.offered_after (attached_told .recover) (queue_told .recover q) _

end Offers
/-! ### The monitors of the point, in ascending index (R131) -/

section Along

variable {i : PointIdx} {v n : Nat} {s t : State}

/-- One step of the evaluation of the monitors of point `i`. -/
def evaluateOne (i : PointIdx) (v : Nat) (s : State) (k : MonitorIdx) : State :=
  match s.monitor k with
  | some m => if m.point = i then evaluateMonitor k m v s else s
  | none => s

/-- `t` is `s` but that the monitors below `n` have evaluated. -/
structure EvaluatedTo (i : PointIdx) (v n : Nat) (s t : State) : Prop where
  only : OnlyMonitors s t
  monitor : ∀ j : MonitorIdx, t.monitor j =
    if j.val < n then (s.monitor j).map (fun m => if m.point = i then evaluated m v else m) else s.monitor j
  laws : ClaimLaws t
  moves : ClaimMoves.MonitorsMove s t
  queue : ∀ q : Port, t.queue q = offered s q ((allMonitors.take n).flatMap (eventsOfMonitor i v q s))

theorem EvaluatedTo.refl (laws : ClaimLaws s) : EvaluatedTo i v 0 s s where
  only := OnlyMonitors.refl s
  monitor j := (if_neg (Nat.not_lt_zero _)).symm
  laws := laws
  moves := .refl s
  queue q := by
    unfold offered
    split
    · rfl
    · rfl

theorem EvaluatedTo.attached (done : EvaluatedTo i v n s t) (q : Port) : t.attached q = s.attached q := by
  have only := done.only
  unfold OnlyMonitors at only
  rw [only]
  rfl

theorem EvaluatedTo.eventNow_eq (done : EvaluatedTo i v n s t) (kind : EventKind) (subject value : Nat) :
    eventNow t kind subject value = eventNow s kind subject value := by
  have only := done.only
  unfold OnlyMonitors at only
  rw [only]
  rfl

/-- A claimant that is no monitor keeps its claims. -/
theorem claims_of_monitorsMove (moves : ClaimMoves.MonitorsMove s t) {c : Claimant} (other : ∀ k, c ≠ .monitor k)
    (l : LineIdx) : t.claims l c = s.claims l c := by
  obtain ⟨enters, leaves⟩ := moves l c
  cases before : s.claims l c with
  | true =>
    cases after : t.claims l c with
    | true => rfl
    | false =>
      obtain ⟨k, same⟩ := leaves before after
      exact absurd same (other k)
  | false =>
    cases after : t.claims l c with
    | false => rfl
    | true =>
      obtain ⟨k, same⟩ := enters before after
      exact absurd same (other k)

theorem claims_monitor_eq (laws : ClaimLaws s) (k : MonitorIdx) (l : LineIdx) :
    s.claims l (.monitor k) = ((s.monitor k).bind heldLine == some l) := by
  rw [Bool.eq_iff_iff, beq_iff_eq]
  exact laws.2.1 k l

/-- Where a monitor evaluates after those below it, the claimants beside it stand as the statement says. -/
theorem EvaluatedTo.line_eq (done : EvaluatedTo i v n s t) (laws : ClaimLaws s) {k : MonitorIdx} (next : k.val = n)
    (l : LineIdx) {x : Fin 15} (other : x ≠ claimantIndex (.monitor k)) : (t.line l)[x] = standsBefore i k v s l x := by
  obtain ⟨c, rfl⟩ := LineClaims.claimantIndex_surjective x
  change t.claims l c = _
  have before (j : MonitorIdx) : (claimantIndex (.monitor j) == claimantIndex c && decide (j < k)) = true ↔
      c = .monitor j ∧ j < k := by
    rw [Bool.and_eq_true, beq_iff_eq, decide_eq_true_eq]
    exact and_congr_left fun _ => ⟨fun same => (claimantIndex_injective same).symm, fun same => by rw [same]⟩
  unfold standsBefore
  split
  · next none =>
    have absent (j : MonitorIdx) : ¬(c = .monitor j ∧ j < k) := fun both =>
      List.find?_eq_none.mp none j (List.mem_finRange j) ((before j).mpr both)
    change _ = s.claims l c
    by_cases monitor : ∃ j, c = .monitor j
    · obtain ⟨j, rfl⟩ := monitor
      have notBelow : ¬j.val < n := fun lt => absent j ⟨rfl, by rw [Fin.lt_def, next]; exact lt⟩
      rw [claims_monitor_eq done.laws, claims_monitor_eq laws, done.monitor, if_neg notBelow]
    · exact claims_of_monitorsMove done.moves (fun j same => monitor ⟨j, same⟩) l
  · next j found =>
    have here := List.find?_some found
    obtain ⟨rfl, lt⟩ := (before j).mp here
    have below : j.val < n := by rw [← next]; exact lt
    change _ = match s.monitor j with
      | none => s.claims l (.monitor j)
      | some m => if m.point = i then heldLine (evaluated m v) == some l else s.claims l (.monitor j)
    rw [claims_monitor_eq done.laws, claims_monitor_eq laws, done.monitor, if_pos below]
    cases s.monitor j with
    | none => rfl
    | some m =>
      simp only [Option.map_some, Option.bind_some]
      split
      · rfl
      · rfl

theorem EvaluatedTo.ownLineEvents_eq (done : EvaluatedTo i v n s t) (laws : ClaimLaws s) {k : MonitorIdx} (next : k.val = n)
    (m : Monitor) : ownLineEvents m v k t = monitorLineEvents i k m v s := by
  unfold ownLineEvents monitorLineEvents
  cases actionLine m.action with
  | none => rfl
  | some l =>
    have others : othersStand (t.line l) (.monitor k) = heldByOthers i k v s l := by
      unfold othersStand heldByOthers
      congr 1
      funext x
      by_cases own : x = claimantIndex (.monitor k)
      · simp [own]
      · rw [done.line_eq laws next l own]
    simp only [others, done.eventNow_eq] <;> rfl

theorem EvaluatedTo.monitorEvents_eq (done : EvaluatedTo i v n s t) (k : MonitorIdx) (m : Monitor) (q : Port) :
    monitorEvents k m v q t = monitorEvents k m v q s := by
  simp only [monitorEvents, done.eventNow_eq]

end Along
/-! #### One monitor more -/

section Step

variable {i : PointIdx} {v n : Nat} {s t : State}

theorem evaluateOne_absent {k : MonitorIdx} (absent : ∀ m ∈ t.monitor k, m.point ≠ i) : evaluateOne i v t k = t := by
  unfold evaluateOne
  split
  · next m entry => exact if_neg (absent m entry)
  · rfl

theorem evaluateOne_present {k : MonitorIdx} {m : Monitor} (entry : t.monitor k = some m) (here : m.point = i) :
    evaluateOne i v t k = evaluateMonitor k m v t := by
  unfold evaluateOne
  rw [entry]
  exact if_pos here

/-- A monitor on another point, or none, brings nothing. -/
theorem EvaluatedTo.skip (done : EvaluatedTo i v n s t) {k : MonitorIdx} (next : k.val = n)
    (taken : allMonitors.take (n + 1) = allMonitors.take n ++ [k]) (absent : ∀ m ∈ s.monitor k, m.point ≠ i) :
    EvaluatedTo i v (n + 1) s t := by
  refine ⟨done.only, fun j => ?_, done.laws, done.moves, fun q => ?_⟩
  · rw [done.monitor]
    by_cases here : j = k
    · subst here
      rw [if_neg (by omega), if_pos (by omega)]
      cases entry : s.monitor j with
      | none => rfl
      | some m => exact congrArg some (if_neg (absent m entry)).symm
    · have ne : j.val ≠ k.val := fun same => here (Fin.ext same)
      exact if_congr (by omega) rfl rfl
  · have silent : eventsOfMonitor i v q s k = [] := by
      unfold eventsOfMonitor
      split
      · rfl
      · next m entry => exact if_neg (absent m entry)
    rw [done.queue, taken, List.flatMap_append, List.flatMap_singleton, silent, List.append_nil]

theorem EvaluatedTo.evaluate (done : EvaluatedTo i v n s t) (laws : ClaimLaws s) {k : MonitorIdx} (next : k.val = n)
    (taken : allMonitors.take (n + 1) = allMonitors.take n ++ [k]) {m : Monitor} (entry : s.monitor k = some m)
    (here : m.point = i) : EvaluatedTo i v (n + 1) s (evaluateMonitor k m v t) := by
  have entry' : t.monitor k = some m := by rw [done.monitor, if_neg (by omega)]; exact entry
  have law : MonitorLaw m := laws.1 k m entry
  have stood : ∀ l : LineIdx, t.claims l (.monitor k) = true ↔ heldLine m = some l := fun l => by
    have := done.laws.2.1 k l
    rwa [entry'] at this
  refine ⟨done.only.trans (evaluateMonitor_only k m v t), fun j => ?_,
    ClaimLawsKept.claimLaws_evaluateMonitor done.laws entry' v,
    done.moves.trans (.evaluateMonitor k m v t ⟨k, rfl⟩ ⟨k, rfl⟩), fun q => ?_⟩
  · rw [monitor_evaluateMonitor entry', done.monitor]
    by_cases own : j = k
    · subst own
      rw [if_pos rfl, if_pos (by omega), entry]
      exact congrArg some (if_pos here).symm
    · have ne : j.val ≠ k.val := fun same => own (Fin.ext same)
      rw [if_neg own]
      exact if_congr (by omega) rfl rfl
  · have events : eventsOfMonitor i v q s k = monitorEvents k m v q s ++ monitorLineEvents i k m v s := by
      unfold eventsOfMonitor
      rw [entry]
      exact if_pos here
    rw [queue_evaluateMonitor entry' law stood, done.monitorEvents_eq, done.ownLineEvents_eq laws next, ← events,
      LineClaims.offered_after (done.attached q) (done.queue q), taken, List.flatMap_append, List.flatMap_singleton]

theorem evaluatedTo_succ (done : EvaluatedTo i v n s t) (laws : ClaimLaws s) {k : MonitorIdx} (next : k.val = n)
    (taken : allMonitors.take (n + 1) = allMonitors.take n ++ [k]) : EvaluatedTo i v (n + 1) s (evaluateOne i v t k) := by
  have same : t.monitor k = s.monitor k := by rw [done.monitor, if_neg (by omega)]
  by_cases present : ∃ m, s.monitor k = some m ∧ m.point = i
  · obtain ⟨m, entry, here⟩ := present
    rw [evaluateOne_present (same.trans entry) here]
    exact done.evaluate laws next taken entry here
  · have absent : ∀ m ∈ s.monitor k, m.point ≠ i := fun m entry here => present ⟨m, entry, here⟩
    rw [evaluateOne_absent (by rw [same]; exact absent)]
    exact done.skip next taken absent

theorem evaluatedTo (laws : ClaimLaws s) (n : Nat) (bound : n ≤ 8) :
    EvaluatedTo i v n s ((allMonitors.take n).foldl (evaluateOne i v) s) := by
  induction n with
  | zero => exact .refl laws
  | succ n ih =>
    have taken : allMonitors.take (n + 1) = allMonitors.take n ++ [⟨n, bound⟩] := by
      rw [List.take_succ_eq_append_getElem (by simpa [allMonitors] using bound)]
      simp [allMonitors]
    have all := evaluatedTo_succ (ih (by omega)) laws (k := ⟨n, bound⟩) rfl taken
    rw [taken, List.foldl_append]
    exact all

theorem evaluateMonitors_evaluated (i : PointIdx) (v : Nat) (laws : ClaimLaws s) :
    EvaluatedTo i v 8 s (evaluateMonitors i v s) := by
  have all := evaluatedTo (i := i) (v := v) laws 8 le_rfl
  have whole : allMonitors.take 8 = allMonitors := List.take_of_length_le (by simp [allMonitors])
  rw [whole] at all
  exact all

end Step

/-- Settles O36: what the monitors do they do to the state before the finalize, one after another. -/
theorem monitorsEvaluateEachResult : Obligations.MonitorsEvaluateEachResult := by
  intro i level s last laws claims sessions v
  have joined := Departures.joined_of_tableLaws laws
  have exec := Finalize.exec_lastConversion (level := level) last laws
  have done := Finalize.finalized_last (i := i) laws sessions (codeAt (s.point i).key.channel (s.point i).key.gain level s)
  generalize finalizePoint i _ = u at done exec
  obtain ⟨w, only, monitors, lines, queues⟩ := done.monitors
  have before : w = { s with points := w.points, subs := w.subs } := only.trans rfl
  have claimsHere : ClaimLaws w := ClaimLawsKept.claimLaws_same claims (by rw [before]) (by rw [before]) (by rw [before])
  have evaluated := evaluateMonitors_evaluated i v claimsHere
  have monitorBefore (k : MonitorIdx) : w.monitor k = s.monitor k := by rw [before]; rfl
  have claimsBefore (l : LineIdx) (c : Claimant) : w.claims l c = s.claims l c := by rw [before]; rfl
  have events (q : Port) : offered w q (allMonitors.flatMap (eventsOfMonitor i v q w)) =
      offered s q (allMonitors.flatMap (eventsOfMonitor i v q s)) := by rw [before]; rfl
  change u.monitors = (evaluateMonitors i v w).monitors at monitors
  change u.lines = (evaluateMonitors i v w).lines at lines
  change u.queues = (evaluateMonitors i v w).queues at queues
  generalize evaluateMonitors i v w = e at evaluated monitors lines queues
  have monitor (k : MonitorIdx) : u.monitor k = e.monitor k := by rw [State.monitor, monitors]; rfl
  have claim (l : LineIdx) (c : Claimant) : u.claims l c = e.claims l c := by rw [State.claims, State.line, lines]; rfl
  have queue (q : Port) : u.queue q = e.queue q := by rw [State.queue, queues]; rfl
  have other (l : LineIdx) (c : Claimant) (noMonitor : ∀ k, c ≠ .monitor k) : u.claims l c = s.claims l c := by
    rw [claim, claims_of_monitorsMove evaluated.moves noMonitor, claimsBefore]
  refine ⟨u, exec, fun k => ?_, fun l k => ?_, fun l => ⟨other l _ (by simp), fun h => other l _ (by simp),
    fun k => other l _ (by simp)⟩, fun k m entry => ?_, fun q => ?_⟩
  · rw [monitor, evaluated.monitor, if_pos k.isLt, monitorBefore]
  · rw [claim, monitor, claims_monitor_eq evaluated.laws]
  · exact Finalize.attached_of_subscriber joined sessions (joined.creators k m entry)
  · rw [queue, evaluated.queue, ← events]
    rfl

end Sys2Proof.Monitors
end

section
/-!
PROOFS. The table laws under the moves of one subject (R46, R50, R76): where a subject stands and where its entry says it
stands, and what a move of a point or a job needs for the laws to hold afterwards.
-/

namespace Sys2Proof.TableLawsKept

open Sys2Proof.Machine Sys2Proof.Statement Sys2Proof.Safety Sys2Proof.Departures

/-! ### Where a subject stands (R50) -/

section Places

variable {s t : State}

/-- The places a point or a calibration job can stand in. -/
inductive Place where
  | urgent
  | pending (p : Port)
  | converter
  | suspended

/-- The subject stands in the place. -/
def stands (s : State) (x : Subject) : Place → Prop
  | .urgent => ∃ i, x = .point i ∧ i ∈ s.urgentQueue
  | .pending p => x ∈ s.fifo p
  | .converter => s.converter.map (·.subject) = some x
  | .suspended => s.suspended.map (·.subject) = some x

/-- The point's entry says that it stands in the place. -/
def pointPlaced (e : PointEntry) : Place → Prop
  | .urgent => e.state = .due ∧ e.key.urgent = true
  | .pending p => e.state = .due ∧ e.key.urgent = false ∧ e.subscribers.head? = some p
  | .converter => e.state = .converting ∨ e.state = .retiring
  | .suspended => e.state = .suspended

/-- The job's entry says that it stands in the place. -/
def jobPlaced (j : CalibrationJob) : Place → Prop
  | .urgent => False
  | .pending p => j.state = .queued ∧ j.requester = some p
  | .converter => j.state = .running
  | .suspended => j.state = .suspended

theorem stands_urgent {i : PointIdx} : stands s (.point i) .urgent ↔ i ∈ s.urgentQueue := by simp [stands]

theorem pointStands_iff {i : PointIdx} : (∀ pl, stands s (.point i) pl ↔ pointPlaced (s.point i) pl) ↔ PlaceLaw s i := by
  constructor
  · intro all
    exact ⟨stands_urgent.symm.trans (all .urgent), fun p => all (.pending p), all .converter, all .suspended⟩
  · rintro ⟨urgent, pending, converter, suspended⟩ pl
    cases pl with
    | urgent => exact stands_urgent.trans urgent
    | pending p => exact pending p
    | converter => exact converter
    | suspended => exact suspended

theorem every_gain (g : Gain) : g ∈ allGains := by cases g <;> decide

theorem jobStands_iff {g : Gain} :
    ((∀ pl, stands s (.job g) pl ↔ jobPlaced (s.job g) pl) ∧ ((s.job g).state = .none ↔ (s.job g).requester = none)) ↔
      JobLaw s g := by
  constructor
  · rintro ⟨all, requester⟩
    exact ⟨fun p => all (.pending p), all .converter, all .suspended, requester⟩
  · rintro ⟨pending, running, suspended, requester⟩
    refine ⟨fun pl => ?_, requester⟩
    cases pl with
    | urgent => simp [stands, jobPlaced]
    | pending p => exact pending p
    | converter => exact running
    | suspended => exact suspended

/-- One place at a time. -/
theorem pointPlaced_unique {e : PointEntry} {pl pl' : Place} (h : pointPlaced e pl) (h' : pointPlaced e pl') : pl = pl' := by
  cases pl <;> cases pl' <;> simp_all [pointPlaced]

theorem jobPlaced_unique {j : CalibrationJob} {pl pl' : Place} (h : jobPlaced j pl) (h' : jobPlaced j pl') : pl = pl' := by
  cases pl <;> cases pl' <;> simp_all [jobPlaced]

end Places

/-! ### A move of one point -/

section PointMove

variable {i : PointIdx} {e : PointEntry} {s t : State}

/-- The entry laws that a move of a point keeps: its list stays, and it becomes no user of urgent room. -/
structure EntryStep (e e' : PointEntry) : Prop where
  subscribers : e'.subscribers = e.subscribers
  list : ListLaw e'
  trigger : TriggerLaw e'
  used : e'.state ≠ .free → e'.key.urgent = true → e.state ≠ .free ∧ e.key.urgent = true

/-- Every monitor of `t` has the creator and the point that it had in `s`. -/
def MonitorsWithin (s t : State) : Prop :=
  ∀ k : MonitorIdx, ∀ m ∈ t.monitor k, ∃ m' ∈ s.monitor k, m'.creator = m.creator ∧ m'.point = m.point

theorem MonitorsWithin.of_eq (same : t.monitors = s.monitors) : MonitorsWithin s t := fun k m entry =>
  ⟨m, by rw [State.monitor, same] at entry; exact entry, rfl, rfl⟩

/-- The slots hold subscriptions to the same points. -/
def SlotsAlike (s t : State) : Prop := ∀ p : Port, ∀ k : SlotIdx, (t.slot p k).map (·.point) = (s.slot p k).map (·.point)

theorem SlotsAlike.of_eq (same : t.subs = s.subs) : SlotsAlike s t := fun p k => by
  simp only [State.slot, State.slots, same]

/-- `t` is `s` but that point `i` is entry `e` and stands where that entry says. -/
structure PointMoves (i : PointIdx) (e : PointEntry) (s t : State) : Prop where
  point : ∀ j : PointIdx, t.point j = if j = i then e else s.point j
  step : EntryStep (s.point i) e
  slots : SlotsAlike s t
  monitors : MonitorsWithin s t
  jobs : t.jobs = s.jobs
  others : ∀ x : Subject, x ≠ .point i → ∀ pl, stands t x pl ↔ stands s x pl
  own : ∀ pl, stands t (.point i) pl ↔ pointPlaced e pl
  urgentNodup : t.urgentQueue.Nodup
  fifoNodup : ∀ p : Port, (t.fifo p).Nodup

theorem subscriptionLaw_of_alike (law : SubscriptionLaw s) (slots : SlotsAlike s t)
    (lists : ∀ j : PointIdx, (t.point j).subscribers = (s.point j).subscribers) : SubscriptionLaw t := by
  obtain ⟨listed, distinct⟩ := law
  refine ⟨fun p j => ?_, Finalize.slotsDistinct_of_points distinct slots⟩
  rw [lists, listed]
  exact exists_congr fun k => by rw [slots p k]

theorem creatorLaw_of_within (law : CreatorLaw s) (monitors : MonitorsWithin s t)
    (lists : ∀ j : PointIdx, (t.point j).subscribers = (s.point j).subscribers) : CreatorLaw t := by
  intro k m entry
  obtain ⟨m', entry', creator, point⟩ := monitors k m entry
  rw [lists, ← creator, ← point]
  exact law k m' entry'

theorem urgentLaw_of_used (law : UrgentLaw s)
    (used : ∀ j : PointIdx, (t.point j).state ≠ .free → (t.point j).key.urgent = true →
      (s.point j).state ≠ .free ∧ (s.point j).key.urgent = true) : UrgentLaw t := by
  refine le_trans (List.countP_mono_left fun j _ here => ?_) law
  rw [Bool.and_eq_true, bne_iff_ne] at here ⊢
  exact used j here.1 here.2

theorem PointMoves.entry (moves : PointMoves i e s t) {P : PointEntry → Prop} (before : ∀ j, P (s.point j)) (after : P e)
    (j : PointIdx) : P (t.point j) := by
  rw [moves.point]
  split
  · exact after
  · exact before j

theorem PointMoves.subscribers (moves : PointMoves i e s t) (j : PointIdx) :
    (t.point j).subscribers = (s.point j).subscribers := by
  rw [moves.point]
  split
  · next here => rw [moves.step.subscribers, here]
  · rfl

theorem PointMoves.joined (moves : PointMoves i e s t) (laws : Joined s) : Joined t where
  lists := moves.entry laws.lists moves.step.list
  triggers := moves.entry laws.triggers moves.step.trigger
  places j := by
    refine pointStands_iff.mp fun pl => ?_
    rw [moves.point]
    by_cases here : j = i
    · rw [if_pos here, here]
      exact moves.own pl
    · rw [if_neg here, moves.others _ (by simpa using here)]
      exact pointStands_iff.mpr (laws.places j) pl
  subscriptions := subscriptionLaw_of_alike laws.subscriptions moves.slots moves.subscribers
  creators := creatorLaw_of_within laws.creators moves.monitors moves.subscribers
  urgent := by
    refine urgentLaw_of_used laws.urgent fun j => ?_
    rw [moves.point]
    split
    · next here => rw [here]; exact moves.step.used
    · exact And.intro
  urgentNodup := moves.urgentNodup
  fifoNodup := moves.fifoNodup
  jobs g among := by
    have job : t.job g = s.job g := by rw [State.job, moves.jobs]; rfl
    obtain ⟨placed, requester⟩ := jobStands_iff.mpr (laws.jobs g among)
    refine jobStands_iff.mp ⟨fun pl => ?_, by rw [job]; exact requester⟩
    rw [job, moves.others _ (by simp)]
    exact placed pl

end PointMove

/-! ### A move of one job -/

section JobMove

variable {g : Gain} {j : CalibrationJob} {s t : State}

/-- `t` is `s` but that the job of gain `g` is `j` and stands where it says. -/
structure JobMoves (g : Gain) (j : CalibrationJob) (s t : State) : Prop where
  job : ∀ h : Gain, t.job h = if h = g then j else s.job h
  requester : j.state = .none ↔ j.requester = none
  points : t.points = s.points
  slots : SlotsAlike s t
  monitors : MonitorsWithin s t
  others : ∀ x : Subject, x ≠ .job g → ∀ pl, stands t x pl ↔ stands s x pl
  own : ∀ pl, stands t (.job g) pl ↔ jobPlaced j pl
  urgentNodup : t.urgentQueue.Nodup
  fifoNodup : ∀ p : Port, (t.fifo p).Nodup

theorem JobMoves.point (moves : JobMoves g j s t) (i : PointIdx) : t.point i = s.point i := by
  rw [State.point, moves.points]; rfl

theorem JobMoves.joined (moves : JobMoves g j s t) (laws : Joined s) : Joined t where
  lists i := by rw [moves.point]; exact laws.lists i
  triggers i := by rw [moves.point]; exact laws.triggers i
  places i := by
    refine pointStands_iff.mp fun pl => ?_
    rw [moves.point, moves.others _ (by simp)]
    exact pointStands_iff.mpr (laws.places i) pl
  subscriptions := subscriptionLaw_of_alike laws.subscriptions moves.slots fun i => by rw [moves.point]
  creators := creatorLaw_of_within laws.creators moves.monitors fun i => by rw [moves.point]
  urgent := by
    refine urgentLaw_of_used laws.urgent fun i => ?_
    rw [moves.point]
    exact And.intro
  urgentNodup := moves.urgentNodup
  fifoNodup := moves.fifoNodup
  jobs h among := by
    obtain ⟨placed, requester⟩ := jobStands_iff.mpr (laws.jobs h among)
    refine jobStands_iff.mp ?_
    rw [moves.job]
    by_cases here : h = g
    · rw [if_pos here, here]
      exact ⟨moves.own, moves.requester⟩
    · rw [if_neg here]
      refine ⟨fun pl => ?_, requester⟩
      rw [moves.others _ (by simpa using here)]
      exact placed pl

end JobMove

/-! ### The laws of a whole state -/

section Tabled

variable {s t u : State}

/-- The laws of bursts and of the conversion in progress (R46, R58). -/
structure Bursts (s : State) : Prop where
  holding : ∀ b ∈ s.converter, BurstLaw s b
  suspended : ∀ b ∈ s.suspended, BurstLaw s b ∧ b.burstClass = .background
  converting : s.converter = none ↔ s.conversion = none
  conversion : ConversionLaw s

/-- What waits for the converter (R49, R52). -/
structure Waiting (s : State) : Prop where
  behind : s.suspended ≠ none → s.decisionDue = true ∨ s.converter.map (·.burstClass) = some .urgent
  idle : s.converter = none → s.decisionDue = false →
    s.urgentQueue = [] ∧ s.suspended = none ∧ ∀ p : Port, s.fifo p = []
  due : s.decisionDue = true → s.converter = none

/-- The table laws but for what a decision that is due says of the line of commands. -/
structure Tabled (s : State) : Prop where
  joined : Joined s
  bursts : Bursts s
  waiting : Waiting s

theorem tabled_of_tableLaws (laws : TableLaws s) : Tabled s := by
  have joined := joined_of_tableLaws laws
  obtain ⟨-, -, -, -, -, -, -, holding, suspended, behind, idle, due, converting, conversion⟩ := laws
  exact ⟨joined, ⟨holding, suspended, converting, conversion⟩, ⟨behind, idle, fun h => (due h).1⟩⟩

theorem tableLaws_of_tabled (laws : Tabled s)
    (due : s.decisionDue = true → s.resetLow = false ∧ (nextEnqueued s).isSome = true) : TableLaws s := by
  obtain ⟨joined, bursts, waiting⟩ := laws
  exact ⟨fun i => ⟨joined.lists i, joined.triggers i, joined.places i⟩, joined.subscriptions, joined.creators, joined.urgent,
    joined.urgentNodup, joined.fifoNodup, joined.jobs, bursts.holding, bursts.suspended, waiting.behind, waiting.idle,
    fun h => ⟨waiting.due h, due h⟩, bursts.converting, bursts.conversion⟩

/-- A state in which a grant decision may be taken: the converter has been freed. -/
structure Ready (s : State) : Prop where
  joined : Joined s
  suspended : ∀ b ∈ s.suspended, BurstLaw s b ∧ b.burstClass = .background
  idle : s.converter = none

/-- What a burst law says depends on the subject's key and its conversions done. -/
theorem burstLaw_congr {b : Burst}
    (point : ∀ i, b.subject = .point i → (t.point i).key = (s.point i).key ∧ (t.point i).done = (s.point i).done)
    (job : ∀ g, b.subject = .job g → (t.job g).done = (s.job g).done) (law : BurstLaw s b) : BurstLaw t b := by
  obtain ⟨length, more, urgent⟩ := law
  obtain ⟨x, c, n⟩ := b
  cases x with
  | point i =>
    obtain ⟨key, done⟩ := point i rfl
    refine ⟨?_, ?_, ?_⟩
    · simpa only [burstLength, key] using length
    · simpa only [conversionsDone, done] using more
    · simpa only [urgentSubject, key] using urgent
  | job g =>
    refine ⟨length, ?_, urgent⟩
    simpa only [conversionsDone, job g rfl] using more

/-- A subject stands in one place alone. -/
theorem stands_unique (laws : Joined s) {x : Subject} {pl pl' : Place} (h : stands s x pl) (h' : stands s x pl') :
    pl = pl' := by
  cases x with
  | point i =>
    have placed := pointStands_iff.mpr (laws.places i)
    exact pointPlaced_unique ((placed pl).mp h) ((placed pl').mp h')
  | job g =>
    have placed := (jobStands_iff.mpr (laws.jobs g (every_gain g))).1
    exact jobPlaced_unique ((placed pl).mp h) ((placed pl').mp h')

end Tabled

/-! ### A grant (R53, R55, R59) -/

section Grant

variable {x : Subject} {b : Burst} {s t : State}

/-- `t` is `s`, with the converter free, but that subject `x` has been granted as burst `b`. -/
structure Grants (x : Subject) (b : Burst) (s t : State) : Prop where
  subs : t.subs = s.subs
  monitors : t.monitors = s.monitors
  decisionDue : t.decisionDue = s.decisionDue
  begins : Begins b (conversionOf x s) t
  subject : b.subject = x
  law : BurstLaw t b
  point : ∀ i : PointIdx, (x ≠ .point i → t.point i = s.point i) ∧
    (x = .point i → (t.point i).state = .converting ∧ (t.point i).key = (s.point i).key ∧
      (t.point i).subscribers = (s.point i).subscribers ∧ (t.point i).divider = (s.point i).divider ∧
      (t.point i).countdown = (s.point i).countdown ∧ (t.point i).delayTimer = (s.point i).delayTimer)
  job : ∀ g : Gain, (x ≠ .job g → t.job g = s.job g) ∧
    (x = .job g → (t.job g).state = .running ∧ (t.job g).requester = (s.job g).requester)
  /-- Where the subject stood. -/
  place : ∃ pl, stands s x pl
  others : ∀ y : Subject, y ≠ x → ∀ pl, pl ≠ .converter → (stands t y pl ↔ stands s y pl)
  left : ∀ pl, pl ≠ .converter → ¬stands t x pl
  urgentNodup : t.urgentQueue.Nodup
  fifoNodup : ∀ p : Port, (t.fifo p).Nodup
  suspended : t.suspended = none ∨ (t.suspended = s.suspended ∧ b.burstClass = .urgent)

theorem Grants.stands_converter (grants : Grants x b s t) (y : Subject) : stands t y .converter ↔ y = x := by
  simp only [stands, grants.begins.1, Option.map_some, grants.subject, Option.some.injEq, eq_comm]

theorem Grants.stands_others (grants : Grants x b s t) (idle : s.converter = none) {y : Subject} (other : y ≠ x)
    (pl : Place) : stands t y pl ↔ stands s y pl := by
  cases pl with
  | converter =>
    rw [grants.stands_converter]
    simp [stands, idle, other]
  | urgent => exact grants.others y other _ (by simp)
  | pending p => exact grants.others y other _ (by simp)
  | suspended => exact grants.others y other _ (by simp)

theorem Grants.stands_own (grants : Grants x b s t) (pl : Place) : stands t x pl ↔ pl = .converter := by
  by_cases converter : pl = .converter
  · subst converter
    simp [grants.stands_converter]
  · simp [converter, grants.left pl converter]

/-- An entry that stays live with its list keeps the law of lists. -/
theorem listLaw_of_state {e e' : PointEntry} (law : ListLaw e) (alive : live e = true) (alive' : live e' = true)
    (same : e'.subscribers = e.subscribers) : ListLaw e' := by
  obtain ⟨free, retiring, distinct⟩ := law
  obtain ⟨notFree, notRetiring⟩ := live_iff.mp alive
  obtain ⟨notFree', notRetiring'⟩ := live_iff.mp alive'
  refine ⟨?_, fun h => absurd h notRetiring', same ▸ distinct⟩
  rw [same]
  exact ⟨fun h => absurd h notFree', fun h => absurd (free.mpr ⟨h.1, notRetiring⟩) notFree⟩

theorem triggerLaw_of_state {e e' : PointEntry} (law : TriggerLaw e) (alive : live e = true) (alive' : live e' = true)
    (still : e.state ≠ .delaying) (still' : e'.state ≠ .delaying) (key : e'.key = e.key) (divider : e'.divider = e.divider)
    (countdown : e'.countdown = e.countdown) (timer : e'.delayTimer = e.delayTimer) : TriggerLaw e' := by
  obtain ⟨delay, -, fits⟩ := law
  have same : triggerFits e' = triggerFits e := by simp only [triggerFits, key, divider, countdown]
  refine ⟨?_, fun dead => ?_, fun _ => same.trans (fits alive)⟩
  · rw [timer]
    exact ⟨fun runs => absurd (delay.mp runs) still, fun delaying => absurd delaying still'⟩
  · rw [alive'] at dead
    exact nomatch dead

theorem Grants.joined (grants : Grants x b s t) (laws : Joined s) (idle : s.converter = none) : Joined t := by
  obtain ⟨pl, stood⟩ := grants.place
  cases x with
  | job g =>
    obtain ⟨running, requester⟩ := (grants.job g).2 rfl
    have before := jobStands_iff.mpr (laws.jobs g (every_gain g))
    have some_requester : (s.job g).requester ≠ none := fun none => by
      have state := before.2.mpr none
      have placed := (before.1 pl).mp stood
      cases pl <;> simp [jobPlaced, state] at placed
    refine JobMoves.joined (g := g) (j := t.job g) ?_ laws
    refine ⟨fun h => ?_, ?_, ?_, .of_eq grants.subs, .of_eq grants.monitors, fun y other => grants.stands_others idle other,
      fun pl => ?_, grants.urgentNodup, grants.fifoNodup⟩
    · split
      · next here => rw [here]
      · next other => exact (grants.job h).1 (by simpa using Ne.symm other)
    · simp [running, requester, some_requester]
    · exact Vector.ext fun k lt => (grants.point ⟨k, lt⟩).1 (by simp)
    · rw [grants.stands_own]
      cases pl <;> simp [jobPlaced, running]
  | point i =>
    obtain ⟨converting, key, subscribers, divider, countdown, timer⟩ := (grants.point i).2 rfl
    have placed := (pointStands_iff.mpr (laws.places i) pl).mp stood
    have state : live (s.point i) = true ∧ (s.point i).state ≠ .delaying := by
      cases pl with
      | urgent => simp [live, placed.1]
      | pending p => simp [live, placed.1]
      | suspended => simp only [pointPlaced] at placed; simp [live, placed]
      | converter => simp [stands, idle] at stood
    have alive : live (t.point i) = true := by simp [live, converting]
    refine PointMoves.joined (i := i) (e := t.point i) ?_ laws
    refine ⟨fun j => ?_, ⟨subscribers, listLaw_of_state (laws.lists i) state.1 alive subscribers,
      triggerLaw_of_state (laws.triggers i) state.1 alive state.2 (by rw [converting]; decide) key divider countdown timer,
      fun _ urgent => ⟨(live_iff.mp state.1).1, by rw [← key]; exact urgent⟩⟩, .of_eq grants.subs, .of_eq grants.monitors, ?_,
      fun y other => grants.stands_others idle other, fun pl => ?_, grants.urgentNodup, grants.fifoNodup⟩
    · split
      · next here => rw [here]
      · next other => exact (grants.point j).1 (by simpa using Ne.symm other)
    · exact Triggers.jobs_ext fun g _ => (grants.job g).1 (by simp)
    · rw [grants.stands_own]
      cases pl <;> simp [pointPlaced, converting]

theorem Grants.tabled (grants : Grants x b s t) (ready : Ready s) (undue : s.decisionDue = false) : Tabled t := by
  obtain ⟨holds, conversion, -⟩ := grants.begins
  have notIdle : t.converter ≠ none := by rw [holds]; exact Option.some_ne_none _
  have key (i : PointIdx) : (t.point i).key = (s.point i).key := by
    by_cases own : x = .point i
    · exact ((grants.point i).2 own).2.1
    · rw [(grants.point i).1 own]
  refine ⟨grants.joined ready.joined ready.idle, ⟨fun c held => ?_, fun c held => ?_, ?_, fun c held d runs => ?_⟩,
    ⟨fun waits => ?_, fun idle => absurd idle notIdle, fun due => ?_⟩⟩
  · rw [holds] at held
    cases held
    exact grants.law
  · rcases grants.suspended with none | ⟨same, urgent⟩
    · rw [none] at held; exact nomatch held
    · rw [same] at held
      obtain ⟨law, background⟩ := ready.suspended c held
      have other : c.subject ≠ x := fun own => by
        have here : stands t x .suspended := by
          show t.suspended.map (·.subject) = some x
          rw [same, held, Option.map_some, own]
        exact grants.left .suspended (by simp) here
      refine ⟨burstLaw_congr (fun i subject => ?_) (fun g subject => ?_) law, background⟩
      · rw [(grants.point i).1 (by rw [← subject]; exact other.symm)]
        exact ⟨rfl, rfl⟩
      · rw [(grants.job g).1 (by rw [← subject]; exact other.symm)]
  · rw [holds, conversion]
    simp
  · rw [holds] at held
    cases held
    rw [conversion] at runs
    cases runs
    rw [grants.subject]
    cases x with
    | point i => simp [conversionOf, firstConversion, subjectChannel, subjectGain, subjectSettle, key]
    | job g => exact ⟨rfl, rfl, rfl⟩
  · right
    rcases grants.suspended with none | ⟨-, urgent⟩
    · exact absurd none waits
    · rw [holds, Option.map_some, urgent]
  · rw [grants.decisionDue, undue] at due
    exact nomatch due

end Grant
/-! ### The decision (R53) -/

section Decide

variable {s t : State}

theorem oversampleCount_pos (o : Oversample) : 0 < oversampleCount o := by cases o <;> decide

theorem grants_urgent {i : PointIdx} {rest : List PointIdx} (joined : Joined s) (waiting : s.urgentQueue = i :: rest)
    (begins : Begins { subject := .point i, burstClass := .urgent, length := oversampleCount (s.point i).key.oversample }
      (firstConversion (s.point i) s) t)
    (only : t = { s with points := t.points, urgentQueue := rest, urgentGrants := t.urgentGrants,
                         converter := t.converter, conversion := t.conversion, lastGain := t.lastGain })
    (point : ∀ j : PointIdx, t.point j = if j = i then
      { s.point i with state := .converting, accumulator := 0, done := 0, stamp := none, satSoFar := false,
                       resumedSoFar := false } else s.point j) :
    Grants (.point i) { subject := .point i, burstClass := .urgent, length := oversampleCount (s.point i).key.oversample }
      s t := by
  have nodup := joined.urgentNodup
  rw [waiting, List.nodup_cons] at nodup
  have stood : stands s (.point i) .urgent := stands_urgent.mpr (by rw [waiting]; exact List.mem_cons_self ..)
  have urgent : (s.point i).key.urgent = true := ((joined.places i).1.mp (stands_urgent.mp stood)).2
  have queue : t.urgentQueue = rest := by rw [only]
  have fifo (p : Port) : t.fifo p = s.fifo p := by rw [only]; rfl
  have slot : t.suspended = s.suspended := by rw [only]
  have own := point i
  rw [if_pos rfl] at own
  refine ⟨by rw [only], by rw [only], by rw [only], begins, rfl, ⟨?_, ?_, ?_⟩, fun j => ⟨fun other => ?_, fun here => ?_⟩,
    fun g => ⟨fun _ => ?_, fun here => by simp at here⟩, ⟨_, stood⟩, fun y other pl away => ?_, fun pl away here => ?_, ?_,
    fun p => ?_, .inr ⟨slot, rfl⟩⟩
  · simp only [burstLength, own]
  · simp only [conversionsDone, own]
    exact oversampleCount_pos _
  · simp [urgentSubject, own, urgent]
  · rw [point, if_neg fun same => other (by rw [same])]
  · cases here
    rw [own]
    exact ⟨rfl, rfl, rfl, rfl, rfl, rfl⟩
  · rw [only]; rfl
  · cases pl with
    | converter => exact absurd rfl away
    | urgent =>
      simp only [stands, queue, waiting, List.mem_cons]
      refine exists_congr fun k => and_congr_right fun named => ?_
      have ne : k ≠ i := fun same => other (by rw [named, same])
      simp [ne]
    | pending p => simp only [stands, fifo]
    | suspended => simp only [stands, slot]
  · have still : ∀ pl', stands s (.point i) pl' → pl' = .urgent := fun pl' h => stands_unique joined h stood
    cases pl with
    | converter => exact away rfl
    | urgent =>
      rw [stands_urgent, queue] at here
      exact nodup.1 here
    | pending p => exact nomatch still (.pending p) (by simpa only [stands, fifo] using here)
    | suspended => exact nomatch still .suspended (by simpa only [stands, slot] using here)
  · rw [queue]; exact nodup.2
  · rw [fifo]; exact joined.fifoNodup p

theorem grants_resumed {b : Burst} (ready : Ready s) (noUrgent : s.urgentQueue = []) (suspended : s.suspended = some b)
    (begins : Begins b (conversionOf b.subject s) t)
    (only : t = { s with points := t.points, jobs := t.jobs, suspended := none, converter := t.converter,
                         conversion := t.conversion, lastGain := t.lastGain })
    (point : ∀ j : PointIdx, t.point j =
      if b.subject = .point j then { s.point j with state := .converting } else s.point j)
    (job : ∀ g ∈ allGains, t.job g = if b.subject = .job g then { s.job g with state := .running } else s.job g) :
    Grants b.subject b s t := by
  have stood : stands s b.subject .suspended := by
    show s.suspended.map (·.subject) = _
    rw [suspended]; rfl
  have queue : t.urgentQueue = s.urgentQueue := by rw [only]
  have fifo (p : Port) : t.fifo p = s.fifo p := by rw [only]; rfl
  have slot : t.suspended = none := by rw [only]
  obtain ⟨law, -⟩ := ready.suspended b suspended
  refine ⟨by rw [only], by rw [only], by rw [only], begins, rfl, burstLaw_congr (fun i here => ?_) (fun g here => ?_) law,
    fun j => ⟨fun other => ?_, fun here => ?_⟩, fun g => ⟨fun other => ?_, fun here => ?_⟩, ⟨_, stood⟩,
    fun y other pl away => ?_, fun pl away here => ?_, ?_, fun p => ?_, .inl slot⟩
  · rw [point, if_pos here]
    exact ⟨rfl, rfl⟩
  · rw [job g (every_gain g), if_pos here]
  · rw [point, if_neg other]
  · rw [point, if_pos here]
    exact ⟨rfl, rfl, rfl, rfl, rfl, rfl⟩
  · rw [job g (every_gain g), if_neg other]
  · rw [job g (every_gain g), if_pos here]
    exact ⟨rfl, rfl⟩
  · cases pl with
    | converter => exact absurd rfl away
    | urgent => simp only [stands, queue]
    | pending p => simp only [stands, fifo]
    | suspended => simp [stands, slot, suspended, Ne.symm other]
  · have still : ∀ pl', stands s b.subject pl' → pl' = .suspended := fun pl' h => stands_unique ready.joined h stood
    cases pl with
    | converter => exact away rfl
    | urgent => exact nomatch still .urgent (by simpa only [stands, queue] using here)
    | pending p => exact nomatch still (.pending p) (by simpa only [stands, fifo] using here)
    | suspended => simp [stands, slot] at here
  · rw [queue, noUrgent]; exact List.nodup_nil
  · rw [fifo]; exact ready.joined.fifoNodup p

theorem grants_pending {p : Port} {x : Subject} {rest : List Subject} (joined : Joined s)
    (noSuspended : s.suspended = none) (waiting : s.fifo p = x :: rest) (granted : GrantedPending p x rest s t) :
    Grants x { subject := x, burstClass := .background, length := burstLength x s } s t := by
  obtain ⟨begins, only, left, -, point, job⟩ := granted
  have nodup := joined.fifoNodup p
  rw [waiting, List.nodup_cons] at nodup
  have stood : stands s x (.pending p) := by
    show x ∈ s.fifo p
    rw [waiting]; exact List.mem_cons_self ..
  have still : ∀ pl', stands s x pl' → pl' = .pending p := fun pl' h => stands_unique joined h stood
  have queue : t.urgentQueue = s.urgentQueue := by rw [only]
  have slot : t.suspended = none := by rw [only]; exact noSuspended
  have background : ∀ i, x = .point i → (s.point i).key.urgent = false := by
    rintro i rfl
    exact (((joined.places i).2.1 p).mp stood).2.1
  refine ⟨by rw [only], by rw [only], by rw [only], begins, rfl, ?_, fun j => ⟨fun other => ?_, fun here => ?_⟩,
    fun g => ⟨fun other => ?_, fun here => ?_⟩, ⟨_, stood⟩, fun y other pl away => ?_, fun pl away here => ?_, ?_,
    fun q => ?_, .inl slot⟩
  · cases x with
    | point i =>
      have own := point i
      rw [if_pos rfl] at own
      refine ⟨?_, ?_, ?_⟩
      · simp only [burstLength, own]
      · simp only [conversionsDone, own, burstLength]
        exact oversampleCount_pos _
      · simp [urgentSubject, own, background i rfl]
    | job g =>
      refine ⟨rfl, ?_, by simp [urgentSubject]⟩
      have own := job g (every_gain g)
      rw [if_pos rfl] at own
      simp [conversionsDone, own, burstLength, Config.calibrationLength]
  · rw [point, if_neg other]
  · rw [point, if_pos here]
    exact ⟨rfl, rfl, rfl, rfl, rfl, rfl⟩
  · rw [job g (every_gain g), if_neg other]
  · rw [job g (every_gain g), if_pos here]
    exact ⟨rfl, rfl⟩
  · cases pl with
    | converter => exact absurd rfl away
    | urgent => simp only [stands, queue]
    | pending q =>
      simp only [stands, left]
      split
      · next own =>
        subst own
        rw [waiting, List.mem_cons]
        simp [other]
      · rfl
    | suspended => simp [stands, slot, noSuspended]
  · cases pl with
    | converter => exact away rfl
    | urgent => exact nomatch still .urgent (by simpa only [stands, queue] using here)
    | pending q =>
      simp only [stands, left] at here
      split at here
      · exact nodup.1 here
      · next other => exact other (Place.pending.inj (still (.pending q) here))
    | suspended => simp [stands, slot] at here
  · rw [queue]; exact joined.urgentNodup
  · rw [left]
    split
    · exact nodup.2
    · exact joined.fifoNodup q

/-- A grant decision on a state whose converter has been freed leaves every table law. -/
theorem tabled_grantDecision (ready : Ready s) (undue : s.decisionDue = false) : Tabled (grantDecision s) := by
  cases Edges.decision s with
  | urgent i rest waiting begins only point =>
    exact (grants_urgent ready.joined waiting begins only point).tabled ready undue
  | resumed b noUrgent suspended begins only point job =>
    exact (grants_resumed ready noUrgent suspended begins only point job).tabled ready undue
  | pending p x rest noUrgent noSuspended waiting granted =>
    exact (grants_pending ready.joined noSuspended waiting granted).tabled ready undue
  | nothing noUrgent noSuspended noPending idle =>
    rw [idle]
    have joined := ready.joined
    have free := ready.idle
    refine ⟨⟨joined.lists, joined.triggers, fun i => ?_, joined.subscriptions, joined.creators, joined.urgent,
      joined.urgentNodup, joined.fifoNodup, fun g among => ?_⟩,
      ⟨fun b held => (nomatch held), ready.suspended, ⟨fun _ => rfl, fun _ => rfl⟩, fun b held => (nomatch held)⟩,
      ⟨fun waits => absurd noSuspended waits, fun _ _ => ⟨noUrgent, noSuspended, noPending⟩,
        fun due => absurd (undue.symm.trans due) Bool.false_ne_true⟩⟩
    · obtain ⟨urgent, pending, converter, suspended⟩ := joined.places i
      rw [free] at converter
      exact ⟨urgent, pending, converter, suspended⟩
    · obtain ⟨pending, running, suspended, requester⟩ := joined.jobs g among
      rw [free] at running
      exact ⟨pending, running, suspended, requester⟩

/-- The converter has been freed. -/
def freed (s : State) : State := { s with converter := none, conversion := none }

theorem startBurst_freed (x : Subject) (c : BurstClass) (s : State) : startBurst x c (freed s) = startBurst x c s := by
  cases x <;> rfl

theorem grantUrgent_freed (i : PointIdx) (rest : List PointIdx) (s : State) :
    grantUrgent i rest (freed s) = grantUrgent i rest s := by
  unfold grantUrgent
  have sponsor : (freed s).sponsor i = s.sponsor i := rfl
  rw [sponsor]
  cases s.sponsor i with
  | none => exact startBurst_freed (.point i) .urgent { s with urgentQueue := rest }
  | some p => exact startBurst_freed (.point i) .urgent (countUrgentGrant p { s with urgentQueue := rest })

theorem grantPending_freed {p : Port} (s : State) (waits : s.fifo p ≠ []) : grantPending p (freed s) = grantPending p s := by
  obtain ⟨x, rest, waiting⟩ := List.exists_cons_of_ne_nil waits
  have waiting' : (freed s).fifo p = x :: rest := waiting
  simp only [grantPending, waiting, waiting']
  exact startBurst_freed x .background (countWheelGrant p (s.setFifo p rest))

theorem resumeBurst_freed (b : Burst) (s : State) : resumeBurst b (freed s) = resumeBurst b s := by
  obtain ⟨x, c, n⟩ := b
  cases x <;> rfl

/-- A decision does not look at the converter that it gives away. -/
theorem grantDecision_freed (s : State) : grantDecision (freed s) = grantDecision s := by
  unfold grantDecision
  have queue : (freed s).urgentQueue = s.urgentQueue := rfl
  have slot : (freed s).suspended = s.suspended := rfl
  rw [queue, slot]
  split
  · exact grantUrgent_freed ..
  · split
    · exact resumeBurst_freed ..
    · have wheel : wheelScan (freed s) = wheelScan s := rfl
      have idle : idleScan (freed s) = idleScan s := rfl
      have waits (p : Port) (found : (!(s.fifo p).isEmpty) = true) : s.fifo p ≠ [] := by
        simpa [List.isEmpty_iff] using found
      rw [wheel, idle]
      split
      · next slot found =>
        have work := List.find?_some (p := fun k => !(s.fifo (wheelPort s.share k)).isEmpty) found
        exact grantPending_freed { s with wheelPosition := slot } (waits _ work)
      · split
        · next p found =>
          have work := List.find?_some (p := fun q => !(s.fifo q).isEmpty) found
          exact grantPending_freed s (waits p work)
        · rfl

end Decide
end Sys2Proof.TableLawsKept
end

section
/-!
PROOFS. What the table laws do not speak of: operations that leave every state, key, list, queue and burst alone keep them.
-/

namespace Sys2Proof.TableFrames

open Sys2Proof.Machine Sys2Proof.Statement Sys2Proof.Safety Sys2Proof.Departures Sys2Proof.TableLawsKept
open Sys2Proof.StepEffects Sys2Proof.StepFrames

/-! ### States alike to the table laws -/

section Alike

variable {s t u : State}

/-- Two entries that the table laws do not tell apart. -/
structure EntryAlike (e e' : PointEntry) : Prop where
  state : e'.state = e.state
  key : e'.key = e.key
  subscribers : e'.subscribers = e.subscribers
  done : e'.done = e.done
  trigger : TriggerLaw e → TriggerLaw e'

theorem EntryAlike.refl (e : PointEntry) : EntryAlike e e := ⟨rfl, rfl, rfl, rfl, id⟩

theorem EntryAlike.trans {e e' e'' : PointEntry} (h : EntryAlike e e') (h' : EntryAlike e' e'') : EntryAlike e e'' :=
  ⟨h'.state.trans h.state, h'.key.trans h.key, h'.subscribers.trans h.subscribers, h'.done.trans h.done,
    h'.trigger ∘ h.trigger⟩

/-- What a conversion law says of a conversion. -/
def setting (c : Conversion) : Channel × Gain × Fin 16 := (c.channel, c.gain, c.settle)

/-- Two states that the table laws do not tell apart. -/
structure Alike (s t : State) : Prop where
  entry : ∀ i : PointIdx, EntryAlike (s.point i) (t.point i)
  slots : SlotsAlike s t
  monitors : MonitorsWithin s t
  urgentQueue : t.urgentQueue = s.urgentQueue
  fifos : t.fifos = s.fifos
  suspended : t.suspended = s.suspended
  converter : t.converter = s.converter
  jobs : t.jobs = s.jobs
  decisionDue : t.decisionDue = s.decisionDue
  conversion : t.conversion.map setting = s.conversion.map setting

/-- What the table laws speak of. -/
def seen (s : State) :=
  (s.points, s.subs, s.monitors, s.urgentQueue, s.fifos, s.suspended, s.converter, s.jobs, s.decisionDue, s.conversion)

/-- A write to what the table laws do not speak of. -/
theorem Alike.of_same (same : seen t = seen s) : Alike s t := by
  simp only [seen, Prod.mk.injEq] at same
  obtain ⟨points, subs, monitors, urgentQueue, fifos, suspended, converter, jobs, decisionDue, conversion⟩ := same
  refine ⟨fun i => ?_, .of_eq subs, .of_eq monitors, urgentQueue, fifos, suspended, converter, jobs, decisionDue,
    congrArg _ conversion⟩
  simp only [State.point, points]
  exact .refl _

theorem Alike.refl (s : State) : Alike s s := .of_same rfl

theorem monitorsWithin_trans (h : MonitorsWithin s t) (h' : MonitorsWithin t u) : MonitorsWithin s u := by
  intro k m entry
  obtain ⟨m', entry', creator', point'⟩ := h' k m entry
  obtain ⟨m'', entry'', creator'', point''⟩ := h k m' entry'
  exact ⟨m'', entry'', creator''.trans creator', point''.trans point'⟩

theorem Alike.trans (h : Alike s t) (h' : Alike t u) : Alike s u where
  entry i := (h.entry i).trans (h'.entry i)
  slots p k := (h'.slots p k).trans (h.slots p k)
  monitors := monitorsWithin_trans h.monitors h'.monitors
  urgentQueue := h'.urgentQueue.trans h.urgentQueue
  fifos := h'.fifos.trans h.fifos
  suspended := h'.suspended.trans h.suspended
  converter := h'.converter.trans h.converter
  jobs := h'.jobs.trans h.jobs
  decisionDue := h'.decisionDue.trans h.decisionDue
  conversion := h'.conversion.trans h.conversion

/-- A fold of operations that the table laws do not see. -/
theorem Alike.foldl {α : Type} (f : State → α → State) (xs : List α) (each : ∀ t x, Alike t (f t x)) (s : State) :
    Alike s (xs.foldl f s) :=
  foldl_keeps (Alike s) f xs (fun t x _ done => done.trans (each t x)) s (.refl s)

theorem Alike.fifo (alike : Alike s t) (p : Port) : t.fifo p = s.fifo p := by simp only [State.fifo, alike.fifos]

theorem Alike.job (alike : Alike s t) (g : Gain) : t.job g = s.job g := by simp only [State.job, alike.jobs]

theorem Alike.stands (alike : Alike s t) (x : Subject) (pl : Place) : stands t x pl ↔ stands s x pl := by
  cases pl with
  | urgent => simp only [TableLawsKept.stands, alike.urgentQueue]
  | pending p => simp only [TableLawsKept.stands, alike.fifo]
  | converter => simp only [TableLawsKept.stands, alike.converter]
  | suspended => simp only [TableLawsKept.stands, alike.suspended]

theorem EntryAlike.placed {e e' : PointEntry} (alike : EntryAlike e e') (pl : Place) :
    pointPlaced e' pl ↔ pointPlaced e pl := by
  obtain ⟨state, key, subscribers, -, -⟩ := alike
  cases pl <;> simp only [pointPlaced, state, key, subscribers]

theorem EntryAlike.listLaw {e e' : PointEntry} (alike : EntryAlike e e') (law : ListLaw e) : ListLaw e' := by
  obtain ⟨state, -, subscribers, -, -⟩ := alike
  simpa only [ListLaw, state, subscribers] using law

theorem Alike.joined (alike : Alike s t) (laws : Joined s) : Joined t where
  lists i := (alike.entry i).listLaw (laws.lists i)
  triggers i := (alike.entry i).trigger (laws.triggers i)
  places i := pointStands_iff.mp fun pl =>
    (alike.stands _ pl).trans ((pointStands_iff.mpr (laws.places i) pl).trans ((alike.entry i).placed pl).symm)
  subscriptions := subscriptionLaw_of_alike laws.subscriptions alike.slots fun i => (alike.entry i).subscribers
  creators := creatorLaw_of_within laws.creators alike.monitors fun i => (alike.entry i).subscribers
  urgent := urgentLaw_of_used laws.urgent fun i => by rw [(alike.entry i).state, (alike.entry i).key]; exact And.intro
  urgentNodup := by rw [alike.urgentQueue]; exact laws.urgentNodup
  fifoNodup p := by rw [alike.fifo]; exact laws.fifoNodup p
  jobs g among := by
    obtain ⟨placed, requester⟩ := jobStands_iff.mpr (laws.jobs g among)
    refine jobStands_iff.mp ⟨fun pl => ?_, by rw [alike.job]; exact requester⟩
    rw [alike.job]
    exact (alike.stands _ pl).trans (placed pl)

theorem Alike.burstLaw (alike : Alike s t) {b : Burst} (law : BurstLaw s b) : BurstLaw t b :=
  burstLaw_congr (fun i _ => ⟨(alike.entry i).key, (alike.entry i).done⟩) (fun g _ => by rw [alike.job]) law

/-- The setting of a conversion of the subject (R46, R70). -/
theorem conversionLaw_iff : ConversionLaw s ↔
    ∀ b ∈ s.converter, ∀ x ∈ s.conversion.map setting,
      x = (subjectChannel b.subject s, subjectGain b.subject s, subjectSettle b.subject s) := by
  refine forall₂_congr fun b _ => ?_
  cases s.conversion with
  | none => simp
  | some c => simp [setting]

theorem Alike.conversionLaw (alike : Alike s t) (law : ConversionLaw s) : ConversionLaw t := by
  rw [conversionLaw_iff] at law ⊢
  rw [alike.converter, alike.conversion]
  intro b held x runs
  rw [law b held x runs]
  obtain ⟨y, c, n⟩ := b
  cases y with
  | point i => simp only [subjectChannel, subjectGain, subjectSettle, (alike.entry i).key]
  | job g => rfl

theorem Alike.bursts (alike : Alike s t) (laws : Bursts s) : Bursts t where
  holding b held := by
    rw [alike.converter] at held
    exact alike.burstLaw (laws.holding b held)
  suspended b held := by
    rw [alike.suspended] at held
    exact ⟨alike.burstLaw (laws.suspended b held).1, (laws.suspended b held).2⟩
  converting := by
    have none_iff : t.conversion = none ↔ s.conversion = none := by
      rw [← Option.map_eq_none_iff (f := setting), alike.conversion, Option.map_eq_none_iff]
    rw [alike.converter, none_iff]
    exact laws.converting
  conversion := alike.conversionLaw laws.conversion

theorem Alike.waiting (alike : Alike s t) (laws : Waiting s) : Waiting t where
  behind waits := by
    rw [alike.suspended] at waits
    rw [alike.decisionDue, alike.converter]
    exact laws.behind waits
  idle idle undue := by
    rw [alike.converter] at idle
    rw [alike.decisionDue] at undue
    obtain ⟨urgent, suspended, fifos⟩ := laws.idle idle undue
    exact ⟨alike.urgentQueue.trans urgent, alike.suspended.trans suspended, fun p => (alike.fifo p).trans (fifos p)⟩
  due due := by
    rw [alike.decisionDue] at due
    rw [alike.converter]
    exact laws.due due

theorem Alike.tabled (alike : Alike s t) (laws : Tabled s) : Tabled t :=
  ⟨alike.joined laws.joined, alike.bursts laws.bursts, alike.waiting laws.waiting⟩

end Alike

/-! ### Operations that the table laws do not see -/

section Operations

variable {s t : State}

theorem alike_setPoint {i : PointIdx} {e : PointEntry} (entry : EntryAlike (s.point i) e) : Alike s (s.setPoint i e) where
  entry j := by
    rw [point_setPoint_eq]
    split
    · next here => rw [here]; exact entry
    · exact .refl _
  slots := .of_eq rfl
  monitors := .of_eq rfl
  urgentQueue := rfl
  fifos := rfl
  suspended := rfl
  converter := rfl
  jobs := rfl
  decisionDue := rfl
  conversion := rfl

theorem alike_setSlot {p : Port} {k : SlotIdx} {v : Option Subscription}
    (same : v.map (·.point) = (s.slot p k).map (·.point)) : Alike s (s.setSlot p k v) where
  entry _ := .refl _
  slots q l := by
    rw [slot_setSlot_eq]
    split
    · next here => rw [same, here.1, here.2]
    · rfl
  monitors := .of_eq rfl
  urgentQueue := rfl
  fifos := rfl
  suspended := rfl
  converter := rfl
  jobs := rfl
  decisionDue := rfl
  conversion := rfl

theorem alike_setMonitor {k : MonitorIdx} {v : Option Monitor}
    (kept : ∀ m ∈ v, ∃ m' ∈ s.monitor k, m'.creator = m.creator ∧ m'.point = m.point) : Alike s (s.setMonitor k v) where
  entry _ := .refl _
  slots := .of_eq rfl
  monitors j m entry := by
    rw [monitor_setMonitor_eq] at entry
    split at entry
    · next here => rw [here]; exact kept m entry
    · exact ⟨m, entry, rfl, rfl⟩
  urgentQueue := rfl
  fifos := rfl
  suspended := rfl
  converter := rfl
  jobs := rfl
  decisionDue := rfl
  conversion := rfl

theorem alike_onlyClaims (only : OnlyClaims s t) : Alike s t := by
  unfold OnlyClaims at only
  generalize t.lines = lines, t.queues = queues at only
  subst only
  exact .of_same rfl

theorem alike_onlyPort {p : Port} (only : OnlyPort p s t) : Alike s t := by
  unfold OnlyPort at only
  rw [only]
  exact .of_same rfl

theorem alike_formEvent (alike : Alike s t) (kind : EventKind) (subject value : Nat) (dest : Port → Bool) :
    Alike s (formEvent kind subject value dest t) := alike.trans (alike_onlyClaims (formEvent_only ..).onlyClaims)

theorem alike_addClaim (alike : Alike s t) (l : LineIdx) (c : Claimant) : Alike s (addClaim l c t) :=
  alike.trans (alike_onlyClaims (addClaim_only ..))

theorem alike_removeClaim (alike : Alike s t) (l : LineIdx) (c : Claimant) : Alike s (removeClaim l c t) :=
  alike.trans (alike_onlyClaims (removeClaim_only ..))

end Operations

/-! ### Monitors and subscriptions -/

section Monitors

variable {s t : State} {i : PointIdx} {p : Port}

/-- A monitor that changes in anything but creator and point, and an event of it. -/
theorem alike_monitorWritten {k : MonitorIdx} {m m' : Monitor} (entry : s.monitor k = some m)
    (creator : m'.creator = m.creator) (point : m'.point = m.point) : Alike s (s.setMonitor k (some m')) := by
  refine alike_setMonitor fun x here => ?_
  cases here
  exact ⟨m, entry, creator.symm, point.symm⟩

theorem alike_monitorCounts {k : MonitorIdx} {m : Monitor} (v : Nat) (entry : s.monitor k = some m) :
    Alike s (monitorCounts k m v s) := by
  unfold monitorCounts
  split
  · unfold monitorTrips
    extract_lets held t
    have written : Alike s (s.setMonitor k (some { m with state := .out, count := m.qualify, claimHeld := held })) :=
      alike_monitorWritten entry rfl rfl
    have told : Alike s t := alike_formEvent written ..
    clear_value t
    split
    · exact alike_addClaim told ..
    · exact told
  · exact alike_monitorWritten entry rfl rfl

theorem alike_monitorRecovers {k : MonitorIdx} {m : Monitor} (v : Nat) (entry : s.monitor k = some m) :
    Alike s (monitorRecovers k m v s) := by
  unfold monitorRecovers
  extract_lets keeps t
  have written : Alike s (s.setMonitor k (some { m with state := .inside, count := 0, claimHeld := keeps })) :=
    alike_monitorWritten entry rfl rfl
  have told : Alike s t := alike_formEvent written ..
  clear_value t
  split
  · exact alike_removeClaim told ..
  all_goals exact told

theorem alike_evaluateMonitor {k : MonitorIdx} {m : Monitor} (v : Nat) (entry : s.monitor k = some m) :
    Alike s (evaluateMonitor k m v s) := by
  have within : Alike s (if outsideWindow m v then monitorCounts k m v s
      else s.setMonitor k (some { m with state := .inside, count := 0 })) := by
    split
    · exact alike_monitorCounts v entry
    · exact alike_monitorWritten entry rfl rfl
  unfold evaluateMonitor
  split
  · exact within
  · exact within
  · split
    · exact alike_monitorRecovers v entry
    · exact .refl _

theorem alike_evaluateMonitors (i : PointIdx) (v : Nat) (s : State) : Alike s (evaluateMonitors i v s) := by
  refine Alike.foldl _ _ (fun t k => ?_) s
  split
  · next m entry =>
    split
    · exact alike_evaluateMonitor v entry
    · exact .refl _
  · exact .refl _

theorem alike_deleteMonitor (k : MonitorIdx) (s : State) : Alike s (deleteMonitor k s) := by
  have gone (t : State) : Alike t (t.setMonitor k none) := alike_setMonitor fun m here => (nomatch here)
  unfold deleteMonitor
  split
  · exact .refl _
  · dsimp only
    split
    · refine Alike.trans ?_ (gone _)
      exact alike_removeClaim (alike_addClaim (.refl s) ..) ..
    · exact gone s

theorem alike_clearClaim {k : MonitorIdx} {m : Monitor} (entry : s.monitor k = some m) : Alike s (clearClaim k m s) := by
  unfold clearClaim
  split
  · next l _ =>
    have written : Alike s (s.setMonitor k (some { m with claimHeld := false })) := alike_monitorWritten entry rfl rfl
    exact alike_removeClaim written ..
  · exact .refl _

theorem alike_modSubscription (p : Port) (i : PointIdx) {f : Subscription → Subscription}
    (same : ∀ u, (f u).point = u.point) (s : State) : Alike s (modSubscription p i f s) := by
  unfold modSubscription
  split
  · refine alike_setSlot ?_
    rw [Option.map_map]
    exact congrArg (Option.map · _) (funext same)
  · exact .refl _

theorem alike_transferMissed (i : PointIdx) (s : State) : Alike s (transferMissed i s) := by
  unfold transferMissed
  extract_lets e t
  have transferred : Alike s t := by
    refine Alike.foldl _ _ (fun t p => alike_modSubscription p i (fun u => ?_) t) s
    rfl
  clear_value t
  exact transferred.trans (alike_setPoint ⟨rfl, rfl, rfl, rfl, id⟩)

theorem alike_deliverRecord (alike : Alike s t) (p : Port) (x : Record) : Alike s (deliverRecord p x t) := by
  unfold deliverRecord
  split
  · exact alike.trans (.of_same rfl)
  · exact alike

theorem alike_offerResult (i : PointIdx) (r : Result) (p : Port) (s : State) : Alike s (offerResult i r p s) := by
  have counted {k : SlotIdx} {u v : Subscription} (entry : s.slot p k = some u) (same : v.point = u.point) :
      Alike s (s.setSlot p k (some v)) := alike_setSlot (by rw [entry, Option.map_some, Option.map_some, same])
  unfold offerResult
  split
  · exact .refl _
  · split
    · exact .refl _
    · next u entry =>
      split
      · exact .refl _
      · split
        · have written := counted (v := { u with counter := 0, missed := 0, firstPending := false }) entry rfl
          exact alike_deliverRecord written ..
        · exact counted entry rfl

theorem alike_fanOut (i : PointIdx) (r : Result) (s : State) : Alike s (fanOut i r s) :=
  Alike.foldl _ _ (fun t p => alike_offerResult i r p t) s

/-- A finalize but for the state that it leaves the point in. -/
theorem finalizePoint_alike (i : PointIdx) (s : State) :
    ∃ u, Alike s u ∧ finalizePoint i s = u.modPoint i (fun e => { e with state := .armed }) := by
  unfold finalizePoint
  extract_lets r t u
  have sequenced : Alike s (s.modPoint i (fun e => { e with sequence := r.sequence })) :=
    alike_setPoint ⟨rfl, rfl, rfl, rfl, id⟩
  have transferred : Alike s t := sequenced.trans (alike_transferMissed ..)
  have offered : Alike s u := transferred.trans ((alike_evaluateMonitors ..).trans (alike_fanOut ..))
  exact ⟨u, offered, rfl⟩

end Monitors

/-! ### The clock -/

section Clock

variable {s t : State}

theorem timerTick_isSome (x : Option Nat) : (timerTick x).isSome = x.isSome := by
  rcases x with _ | _ | n <;> rfl

theorem timerTick_eq_none_iff {x : Option Nat} : timerTick x = none ↔ x = none := by
  rw [← Option.not_isSome_iff_eq_none, timerTick_isSome, Option.not_isSome_iff_eq_none]

theorem triggerFits_pointTick (e : PointEntry) : triggerFits (pointTick e) = triggerFits e := by
  have countdown : (pointTick e).countdown.isSome = e.countdown.isSome := timerTick_isSome _
  have none : (pointTick e).countdown.isNone = e.countdown.isNone := by
    rw [← Option.not_isSome, countdown, Option.not_isSome]
  have key : (pointTick e).key.trigger = e.key.trigger := rfl
  have divider : (pointTick e).divider = e.divider := rfl
  unfold triggerFits
  rw [countdown, none, key, divider]

theorem triggerLaw_pointTick {e : PointEntry} (law : TriggerLaw e) : TriggerLaw (pointTick e) := by
  obtain ⟨timer, dead, fits⟩ := law
  have alive : live (pointTick e) = live e := rfl
  refine ⟨(not_congr timerTick_eq_none_iff).trans timer, fun gone => ?_, fun lives => ?_⟩
  · obtain ⟨divider, countdown⟩ := dead (alive.symm.trans gone)
    exact ⟨divider, timerTick_eq_none_iff.mpr countdown⟩
  · rw [triggerFits_pointTick]
    exact fits (alive.symm.trans lives)

theorem entryAlike_pointTick (e : PointEntry) : EntryAlike e (pointTick e) := ⟨rfl, rfl, rfl, rfl, triggerLaw_pointTick⟩

theorem alike_tickPoints (s : State) : Alike s (tickPoints s) := by
  unfold tickPoints
  refine Alike.foldl _ _ (fun t i => ?_) s
  exact alike_setPoint (entryAlike_pointTick _)

theorem alike_clkTimebase (s : State) : Alike s (clkTimebase s) := by
  unfold clkTimebase
  split
  · unfold timebaseTick
    have points := alike_tickPoints s
    generalize tickPoints s = t at points ⊢
    have ports := tickPorts_only t
    generalize tickPorts t = u at ports ⊢
    rw [ports]
    exact points.trans (.of_same rfl)
  · exact .of_same rfl

theorem setting_conversionClk (cdiv : StrapCode) (now : TimeReading) (input : Level) (c : Conversion) :
    setting (conversionClk cdiv now input c) = setting c := by
  unfold conversionClk
  split
  · split <;> rfl
  · rfl

theorem alike_clkPeriod (s : State) : Alike s (clkPeriod s) := by
  unfold clkPeriod
  split
  · exact .refl s
  · have timebase := alike_clkTimebase s
    unfold clkAdvance
    extract_lets t
    have comparators : Alike s (sampleComparators (clkTimebase s)) := by
      rw [sampleComparators_only]
      exact timebase.trans (.of_same rfl)
    have links : Alike s t := by
      unfold t
      rw [clkLinks_only]
      exact comparators.trans (.of_same rfl)
    have same : t.conversion = s.conversion := by
      unfold t
      rw [clkLinks_only, sampleComparators_only]
      unfold clkTimebase
      split
      · rw [timebaseTick_only]
      · rfl
    clear_value t
    obtain ⟨entry, slots, monitors, urgentQueue, fifos, suspended, converter, jobs, decisionDue, -⟩ := links
    refine ⟨entry, slots, monitors, urgentQueue, fifos, suspended, converter, jobs, decisionDue, ?_⟩
    rw [Option.map_map]
    exact congrArg (Option.map · _) (funext fun c => setting_conversionClk ..)

end Clock

end Sys2Proof.TableFrames
end

section
/-!
PROOFS. Enqueues keep the table laws (R35, R37, R52, R77): a point that becomes DELAYING or DUE, a calibration job that is
queued, and the decision that follows where the converter is IDLE.
-/

namespace Sys2Proof.TableEnqueues

open Sys2Proof.Machine Sys2Proof.Statement Sys2Proof.Safety Sys2Proof.Departures Sys2Proof.TableLawsKept
open Sys2Proof.TableFrames Sys2Proof.Triggers Sys2Proof.Edges Sys2Proof.StepEffects Sys2Proof.StepFrames

/-! ### What keeps the table laws -/

section Keeps

variable {s t u : State} {i : PointIdx} {e : PointEntry}

/-- The laws stay, and no decision falls due. -/
def Keeps (s t : State) : Prop := (Tabled s → Tabled t) ∧ (s.decisionDue = false → t.decisionDue = false)

theorem Keeps.refl (s : State) : Keeps s s := ⟨id, id⟩

theorem Keeps.trans (h : Keeps s t) (h' : Keeps t u) : Keeps s u := ⟨h'.1 ∘ h.1, h'.2 ∘ h.2⟩

theorem Keeps.foldl {α : Type} (f : State → α → State) (xs : List α) (each : ∀ t x, Keeps t (f t x)) (s : State) :
    Keeps s (xs.foldl f s) :=
  foldl_keeps (Keeps s) f xs (fun t x _ done => done.trans (each t x)) s (.refl s)

theorem keeps_alike (alike : Alike s t) : Keeps s t := ⟨alike.tabled, fun undue => alike.decisionDue.trans undue⟩

/-- Bursts and the conversion stay where converter, conversion, and what their subjects' entries say of them stay. -/
theorem bursts_of_kept (laws : Bursts s) (converter : t.converter = s.converter) (conversion : t.conversion = s.conversion)
    (suspended : ∀ b ∈ t.suspended, b ∈ s.suspended)
    (point : ∀ j : PointIdx, stands t (.point j) .converter ∨ stands t (.point j) .suspended →
      (t.point j).key = (s.point j).key ∧ (t.point j).done = (s.point j).done)
    (job : ∀ g : Gain, stands t (.job g) .converter ∨ stands t (.job g) .suspended → (t.job g).done = (s.job g).done) :
    Bursts t := by
  have holds {b : Burst} (held : b ∈ t.converter) : stands t b.subject .converter := by
    show t.converter.map (·.subject) = _
    rw [held, Option.map_some]
  have waits {b : Burst} (held : b ∈ t.suspended) : stands t b.subject .suspended := by
    show t.suspended.map (·.subject) = _
    rw [held, Option.map_some]
  refine ⟨fun b held => ?_, fun b held => ?_, ?_, fun b held c runs => ?_⟩
  · have held' : b ∈ s.converter := converter ▸ held
    exact burstLaw_congr (fun j subject => point j (.inl (subject ▸ holds held)))
      (fun g subject => job g (.inl (subject ▸ holds held))) (laws.holding b held')
  · obtain ⟨law, background⟩ := laws.suspended b (suspended b held)
    exact ⟨burstLaw_congr (fun j subject => point j (.inr (subject ▸ waits held)))
      (fun g subject => job g (.inr (subject ▸ waits held))) law, background⟩
  · rw [converter, conversion]
    exact laws.converting
  · have law := laws.conversion b (converter ▸ held) c (conversion ▸ runs)
    have here := holds held
    obtain ⟨y, cl, n⟩ := b
    cases y with
    | point j => simpa only [subjectChannel, subjectGain, subjectSettle, (point j (.inl here)).1] using law
    | job g => exact law

/-- What waits stays where converter and decision stay and nothing enters a queue while the converter is IDLE. -/
theorem waiting_of_kept (laws : Waiting s) (converter : t.converter = s.converter)
    (decisionDue : t.decisionDue = s.decisionDue)
    (suspended : t.suspended = none ∨ t.suspended = s.suspended)
    (queues : s.converter = none → (s.urgentQueue = [] → t.urgentQueue = []) ∧
      ((∀ p : Port, s.fifo p = []) → ∀ p : Port, t.fifo p = [])) : Waiting t where
  behind waits := by
    rw [decisionDue, converter]
    refine laws.behind ?_
    rcases suspended with gone | same
    · exact absurd gone waits
    · rwa [same] at waits
  idle idle undue := by
    rw [converter] at idle
    rw [decisionDue] at undue
    obtain ⟨urgent, slot, fifos⟩ := laws.idle idle undue
    refine ⟨(queues idle).1 urgent, ?_, (queues idle).2 fifos⟩
    rcases suspended with gone | same
    · exact gone
    · exact same.trans slot
  due due := by
    rw [converter]
    exact laws.due (decisionDue ▸ due)

/-- `u` is `s` with something more waiting, or with nothing: the queues alone have changed for the converter. -/
structure Entered (s u : State) : Prop where
  joined : Joined s → Joined u
  converter : u.converter = s.converter
  conversion : u.conversion = s.conversion
  suspended : u.suspended = s.suspended
  decisionDue : u.decisionDue = s.decisionDue
  point : ∀ j : PointIdx, (u.point j).key = (s.point j).key ∧ (u.point j).done = (s.point j).done
  job : ∀ g : Gain, (u.job g).done = (s.job g).done

theorem Entered.bursts (entered : Entered s u) (laws : Bursts s) : Bursts u :=
  bursts_of_kept laws entered.converter entered.conversion (fun b held => by rwa [← entered.suspended])
    (fun j _ => entered.point j) (fun g _ => entered.job g)

theorem joined_undue (laws : Joined s) : Joined { s with decisionDue := false } :=
  ⟨laws.lists, laws.triggers, laws.places, laws.subscriptions, laws.creators, laws.urgent, laws.urgentNodup, laws.fifoNodup,
    laws.jobs⟩

/-- An enqueue, and the decision that follows it into an IDLE converter (R52). -/
theorem keeps_enqueuedThen (entered : Entered s u) : Keeps s (enqueuedThen s u) := by
  unfold enqueuedThen
  split
  · next idle =>
    refine ⟨fun laws => ?_, fun _ => ?_⟩
    · refine tabled_grantDecision ⟨joined_undue (entered.joined laws.joined), fun b held => ?_, ?_⟩ rfl
      · exact (entered.bursts laws.bursts).suspended b held
      · exact entered.converter.trans idle
    · rw [grantDecision_only]
  · next busy =>
    refine ⟨fun laws => ⟨entered.joined laws.joined, entered.bursts laws.bursts, ?_⟩, fun undue => ?_⟩
    · exact waiting_of_kept laws.waiting entered.converter entered.decisionDue (.inr entered.suspended)
        fun idle => absurd idle busy
    · exact entered.decisionDue.trans undue

end Keeps

/-! ### A point that a trigger takes (R35 to R37) -/

section Trigger

variable {s t u : State} {i : PointIdx} {e : PointEntry}

/-- An entry that stays live with its key and counters keeps the law of triggers, where its delay timer fits. -/
theorem triggerLaw_of_live {e e' : PointEntry} (law : TriggerLaw e) (alive : live e = true) (alive' : live e' = true)
    (timer : e'.delayTimer ≠ none ↔ e'.state = .delaying) (key : e'.key = e.key) (divider : e'.divider = e.divider)
    (countdown : e'.countdown = e.countdown) : TriggerLaw e' := by
  obtain ⟨-, -, fits⟩ := law
  have same : triggerFits e' = triggerFits e := by simp only [triggerFits, key, divider, countdown]
  refine ⟨timer, fun dead => ?_, fun _ => same.trans (fits alive)⟩
  rw [alive'] at dead
  exact nomatch dead

/-- An entry in ARMED or DELAYING. -/
abbrev Calm (e : PointEntry) : Prop := e.state = .armed ∨ e.state = .delaying

theorem Calm.alive (calm : Calm e) : live e = true := by
  rcases calm with state | state <;> simp [live, state]

/-- A point in ARMED or DELAYING stands nowhere (R50). -/
theorem Calm.nowhere (calm : Calm (s.point i)) (laws : Joined s) (pl : Place) : ¬stands s (.point i) pl := by
  rw [pointStands_iff.mpr (laws.places i) pl]
  rcases calm with state | state <;> cases pl <;> simp [pointPlaced, state]

/-- A change of a calm entry to a live one keeps list, trigger and room laws. -/
theorem Calm.step (calm : Calm (s.point i)) (laws : Joined s) {e' : PointEntry} (alive' : live e' = true)
    (timer : e'.delayTimer ≠ none ↔ e'.state = .delaying) (key : e'.key = (s.point i).key := by rfl)
    (subscribers : e'.subscribers = (s.point i).subscribers := by rfl)
    (divider : e'.divider = (s.point i).divider := by rfl) (countdown : e'.countdown = (s.point i).countdown := by rfl) :
    EntryStep (s.point i) e' where
  subscribers := subscribers
  list := listLaw_of_state (laws.lists i) calm.alive alive' subscribers
  trigger := triggerLaw_of_live (laws.triggers i) calm.alive alive' timer key divider countdown
  used _ urgent := ⟨(live_iff.mp calm.alive).1, key ▸ urgent⟩

theorem joined_delaying (calm : Calm (s.point i)) (laws : Joined s) (n : Nat) :
    Joined (s.setPoint i { s.point i with state := .delaying, delayTimer := some n }) := by
  refine PointMoves.joined (i := i) (e := { s.point i with state := .delaying, delayTimer := some n }) ?_ laws
  refine ⟨fun j => point_setPoint_eq s i j _, calm.step laws (by simp [live]) (by simp), .of_eq rfl, .of_eq rfl, rfl,
    fun x _ pl => Iff.rfl, fun pl => ?_, laws.urgentNodup, laws.fifoNodup⟩
  have nowhere : ¬stands (s.setPoint i { s.point i with state := .delaying, delayTimer := some n }) (.point i) pl :=
    calm.nowhere laws pl
  refine ⟨fun here => absurd here nowhere, fun placed => ?_⟩
  cases pl <;> simp [pointPlaced] at placed

theorem joined_madeDue (calm : Calm (s.point i)) (laws : Joined s) : Joined (madeDue i s) := by
  obtain ⟨only, point, urgentQueue, fifo⟩ := madeDue_enqueued i s
  rw [if_pos rfl] at urgentQueue
  have fifo (q : Port) : (madeDue i s).fifo q = s.fifo q ++ pendingOf s q [i] := (fifo q).trans (by rw [if_pos rfl])
  have converter : (madeDue i s).converter = s.converter := by rw [only]
  have suspended : (madeDue i s).suspended = s.suspended := by rw [only]
  have subs : (madeDue i s).subs = s.subs := by rw [only]
  have monitors : (madeDue i s).monitors = s.monitors := by rw [only]
  have jobs : (madeDue i s).jobs = s.jobs := by rw [only]
  have inUrgent (j : PointIdx) : j ∈ urgentOf s [i] ↔ j = i ∧ (s.point i).key.urgent = true := by
    simp only [urgentOf, List.mem_filter, List.mem_singleton]
    exact and_congr_right fun here => by rw [here]
  have inPending (x : Subject) (q : Port) : x ∈ pendingOf s q [i] ↔
      x = .point i ∧ (s.point i).key.urgent = false ∧ (s.point i).subscribers.head? = some q := by
    simp only [pendingOf, List.mem_map, List.mem_filter, List.mem_singleton, Bool.and_eq_true, Bool.not_eq_true', beq_iff_eq]
    constructor
    · rintro ⟨j, ⟨rfl, waits⟩, rfl⟩
      exact ⟨rfl, waits⟩
    · rintro ⟨rfl, waits⟩
      exact ⟨i, ⟨rfl, waits⟩, rfl⟩
  have nowhere := calm.nowhere laws
  refine PointMoves.joined (i := i) (e := { s.point i with state := .due, delayTimer := none }) ?_ laws
  refine ⟨point, calm.step laws (by simp [live]) (by simp), .of_eq subs, .of_eq monitors, jobs, fun x other pl => ?_,
    fun pl => ?_, ?_, fun q => ?_⟩
  · cases pl with
    | urgent =>
      simp only [stands, urgentQueue, List.mem_append, inUrgent]
      refine exists_congr fun j => and_congr_right fun named => ?_
      have away : j ≠ i := fun same => other (by rw [named, same])
      simp [away]
    | pending q => simp [stands, fifo, inPending, other]
    | converter => simp only [stands, converter]
    | suspended => simp only [stands, suspended]
  · cases pl with
    | urgent =>
      have absent : i ∉ s.urgentQueue := fun here => nowhere .urgent (stands_urgent.mpr here)
      simp [stands_urgent, urgentQueue, inUrgent, absent, pointPlaced]
    | pending q =>
      have absent : Subject.point i ∉ s.fifo q := nowhere (.pending q)
      simp [stands, fifo, inPending, absent, pointPlaced]
    | converter =>
      have absent := nowhere .converter
      simp only [stands] at absent
      simp [stands, converter, absent, pointPlaced]
    | suspended =>
      have absent := nowhere .suspended
      simp only [stands] at absent
      simp [stands, suspended, absent, pointPlaced]
  · have absent : i ∉ s.urgentQueue := fun here => nowhere .urgent (stands_urgent.mpr here)
    rw [urgentQueue]
    refine List.nodup_append.mpr ⟨laws.urgentNodup, (List.nodup_singleton i).filter _, fun j here k there => ?_⟩
    rintro rfl
    exact absent (((inUrgent j).mp there).1 ▸ here)
  · have absent : Subject.point i ∉ s.fifo q := nowhere (.pending q)
    rw [fifo]
    refine List.nodup_append.mpr ⟨laws.fifoNodup q, ((List.nodup_singleton i).filter _).map fun _ _ same => ?_,
      fun x here y there => ?_⟩
    · exact Subject.point.inj same
    · rintro rfl
      exact absent (((inPending x q).mp there).1 ▸ here)

theorem entered_madeDue (calm : Calm (s.point i)) : Entered s (madeDue i s) := by
  obtain ⟨only, point, -, -⟩ := madeDue_enqueued i s
  refine ⟨joined_madeDue calm, ?_, ?_, ?_, ?_, fun j => ?_, fun g => ?_⟩
  · rw [only]
  · rw [only]
  · rw [only]
  · rw [only]
  · rw [point]
    split
    · next here => rw [here]; exact ⟨rfl, rfl⟩
    · exact ⟨rfl, rfl⟩
  · rw [only]; rfl

theorem keeps_becomeDue (calm : Calm (s.point i)) : Keeps s (becomeDue i s) := by
  rw [becomeDue_eq]
  exact keeps_enqueuedThen (entered_madeDue calm)

end Trigger

section Triggers

variable {s t u : State} {i : PointIdx} {e : PointEntry} {n : TrgIdx} {edge : Edge}

/-- A change that enqueues nothing. -/
theorem keeps_unqueued (entered : Entered s u) (urgentQueue : u.urgentQueue = s.urgentQueue)
    (fifo : ∀ p : Port, u.fifo p = s.fifo p) : Keeps s u := by
  refine ⟨fun laws => ⟨entered.joined laws.joined, entered.bursts laws.bursts, ?_⟩, fun undue =>
    entered.decisionDue.trans undue⟩
  refine waiting_of_kept laws.waiting entered.converter entered.decisionDue (.inr entered.suspended) fun _ =>
    ⟨urgentQueue.trans, fun none p => (fifo p).trans (none p)⟩

theorem keeps_delaying (calm : Calm (s.point i)) (n : Nat) :
    Keeps s (s.setPoint i { s.point i with state := .delaying, delayTimer := some n }) := by
  refine keeps_unqueued ⟨fun laws => joined_delaying calm laws n, rfl, rfl, rfl, rfl, fun j => ?_, fun g => rfl⟩ rfl
    fun p => rfl
  rw [point_setPoint_eq]
  split
  · next here => rw [here]; exact ⟨rfl, rfl⟩
  · exact ⟨rfl, rfl⟩

theorem keeps_loseTrigger (i : PointIdx) (s : State) : Keeps s (loseTrigger i s) :=
  keeps_alike (alike_setPoint ⟨rfl, rfl, rfl, rfl, id⟩)

theorem keeps_triggerPoint (i : PointIdx) (s : State) : Keeps s (triggerPoint i s) := by
  unfold triggerPoint
  split
  · next armed =>
    unfold takeTrigger
    split
    · exact keeps_becomeDue (.inl armed)
    · exact keeps_delaying (.inl armed) _
  · exact keeps_loseTrigger ..
  · exact keeps_loseTrigger ..
  · exact keeps_loseTrigger ..
  · exact keeps_loseTrigger ..
  · exact .refl s
  · exact .refl s

/-- An edge reaches live LINE points alone (R34). -/
theorem edgeReaches_eq_some {divider : Nat} (reaches : edgeReaches n edge e = some divider) :
    live e = true ∧ ∃ input select, e.key.trigger = .line input select divider := by
  unfold edgeReaches at reaches
  split at reaches
  · next input select d kind =>
    split at reaches
    · next here =>
      cases reaches
      exact ⟨here.1, input, select, kind⟩
    · exact nomatch reaches
  · exact nomatch reaches
  · exact nomatch reaches

/-- A divider counter of a live LINE point may take any value below the divider (R34). -/
theorem triggerLaw_divided {divider k : Nat} (alive : live e = true)
    (kind : ∃ input select, e.key.trigger = .line input select divider) (below : e.divider < divider → k < divider)
    (law : TriggerLaw e) : TriggerLaw { e with divider := k } := by
  obtain ⟨timer, -, fits⟩ := law
  obtain ⟨input, select, kind⟩ := kind
  have fits := fits alive
  simp only [triggerFits, kind, Bool.and_eq_true, decide_eq_true_eq] at fits
  refine ⟨timer, fun dead => absurd (alive.symm.trans dead) (by simp), fun _ => ?_⟩
  simp only [triggerFits, kind, Bool.and_eq_true, decide_eq_true_eq]
  exact ⟨below fits.1, fits.2⟩

theorem keeps_edgeAtPoint (n : TrgIdx) (edge : Edge) (i : PointIdx) (s : State) : Keeps s (edgeAtPoint n edge i s) := by
  unfold edgeAtPoint
  split
  · exact .refl s
  · next divider reaches =>
    obtain ⟨alive, kind⟩ := edgeReaches_eq_some reaches
    split
    · next completes =>
      have reset : Alike s (s.setPoint i { s.point i with divider := 0 }) :=
        alike_setPoint ⟨rfl, rfl, rfl, rfl, triggerLaw_divided alive kind fun _ => by omega⟩
      exact (keeps_alike reset).trans (keeps_triggerPoint ..)
    · next counts =>
      have counted : Alike s (s.setPoint i { s.point i with divider := (s.point i).divider + 1 }) :=
        alike_setPoint ⟨rfl, rfl, rfl, rfl, triggerLaw_divided alive kind fun _ => by omega⟩
      exact keeps_alike counted

theorem keeps_edgeAccepted (n : TrgIdx) (edge : Edge) (s : State) : Keeps s (edgeAccepted n edge s) := by
  have accepted : Alike s (acceptLevel n (levelAfter edge) s) := .of_same rfl
  exact (keeps_alike accepted).trans (Keeps.foldl _ _ (fun t i => keeps_edgeAtPoint n edge i t) _)

/-- The countdown of a live PERIODIC point is loaded anew (R38). -/
theorem alike_countdown {period : Nat} (kind : (s.point i).key.trigger = .periodic period) (alive : live (s.point i) = true)
    (k : Nat) : Alike s (s.setPoint i { s.point i with countdown := some k }) := by
  refine alike_setPoint ⟨rfl, rfl, rfl, rfl, fun law => ?_⟩
  obtain ⟨timer, -, fits⟩ := law
  have fits := fits alive
  simp only [triggerFits, kind, Bool.and_eq_true] at fits
  refine ⟨timer, fun dead => absurd (alive.symm.trans dead) (by simp), fun _ => ?_⟩
  simp only [triggerFits, kind, Bool.and_eq_true]
  exact ⟨fits.1, rfl⟩

end Triggers

/-! ### A calibration job that is queued (R77) -/

section Job

variable {s : State} {p : Port} {g : Gain}

theorem joined_jobQueued (calm : (s.job g).state = .none) (laws : Joined s) : Joined (jobQueued p g s) := by
  have placed := (jobStands_iff.mpr (laws.jobs g (every_gain g))).1
  have nowhere (pl : Place) : ¬stands s (.job g) pl := by
    rw [placed]
    cases pl <;> simp [jobPlaced, calm]
  have absent : Subject.job g ∉ s.fifo p := nowhere (.pending p)
  have fifo (q : Port) : (jobQueued p g s).fifo q = if q = p then s.fifo p ++ [.job g] else s.fifo q := fifo_setFifo_eq ..
  refine JobMoves.joined (g := g) (j := { s.job g with state := .queued, requester := some p }) ?_ laws
  refine ⟨fun h => job_setJob_eq s g h _, by simp, rfl, .of_eq rfl, .of_eq rfl, fun x other pl => ?_, fun pl => ?_,
    laws.urgentNodup, fun q => ?_⟩
  · cases pl with
    | pending q =>
      simp only [stands, fifo]
      split
      · next own => simp [own, other]
      · rfl
    | urgent => rfl
    | converter => rfl
    | suspended => rfl
  · cases pl with
    | pending q =>
      simp only [stands, fifo, jobPlaced, Option.some.injEq, true_and]
      split
      · next own => simp [own]
      · next away =>
        have gone : Subject.job g ∉ s.fifo q := nowhere (.pending q)
        simp [gone, Ne.symm away]
    | urgent => simp [stands, jobPlaced]
    | converter =>
      have gone : ¬s.converter.map (·.subject) = some (.job g) := nowhere .converter
      have kept : (jobQueued p g s).converter = s.converter := rfl
      simp [stands, jobPlaced, kept, gone]
    | suspended =>
      have gone : ¬s.suspended.map (·.subject) = some (.job g) := nowhere .suspended
      have kept : (jobQueued p g s).suspended = s.suspended := rfl
      simp [stands, jobPlaced, kept, gone]
  · rw [fifo]
    split
    · refine List.nodup_append.mpr ⟨laws.fifoNodup p, List.nodup_singleton _, fun x here y there => ?_⟩
      rintro rfl
      exact absent (List.mem_singleton.mp there ▸ here)
    · exact laws.fifoNodup q

theorem keeps_queueJob (calm : (s.job g).state = .none) : Keeps s (queueJob p g s) := by
  have queues : queueJob p g s = enqueuedThen s (jobQueued p g s) := decideIfIdle_eq (s := s) rfl
  rw [queues]
  refine keeps_enqueuedThen ⟨joined_jobQueued calm, rfl, rfl, rfl, rfl, fun j => ⟨rfl, rfl⟩, fun h => ?_⟩
  have job : (jobQueued p g s).job h = if h = g then { s.job g with state := .queued, requester := some p } else s.job h :=
    job_setJob_eq s g h _
  rw [job]
  split
  · next here => rw [here]
  · rfl

end Job

end Sys2Proof.TableEnqueues
end

section
/-!
PROOFS. Departures and arrivals keep the table laws (R11 to R18, R189): a subscription that is removed, the QUEUED jobs of a
port that leaves, a port that joins a point, and a point that is created.
-/

namespace Sys2Proof.TableMembers

open Sys2Proof.Machine Sys2Proof.Statement Sys2Proof.Safety Sys2Proof.Departures Sys2Proof.SessionEnds
open Sys2Proof.TableLawsKept Sys2Proof.TableFrames Sys2Proof.TableEnqueues Sys2Proof.StepEffects Sys2Proof.StepFrames

/-! ### Departures (R17, R18, R82) -/

section Departures

variable {s t : State} {p : Port} {k : SlotIdx} {i : PointIdx} {g : Gain} {e : PointEntry}

/-- An entry that its port has left and that is not FREE keeps key and conversions done. -/
theorem departed_kept (among : p ∈ e.subscribers) (used : (departed p e).state ≠ .free) :
    (departed p e).key = e.key ∧ (departed p e).done = e.done := by
  rcases departed_cases among with ⟨-, -, entry⟩ | ⟨-, -, entry⟩ | ⟨-, entry⟩
  · rw [entry]; exact ⟨rfl, rfl⟩
  · rw [entry] at used; exact absurd rfl used
  · rw [entry]; exact ⟨rfl, rfl⟩

/-- A point that holds the converter or the suspended-burst slot is not FREE (R50). -/
theorem used_of_held (laws : Joined t) {j : PointIdx}
    (held : stands t (.point j) .converter ∨ stands t (.point j) .suspended) :
    (t.point j).state ≠ .free := by
  have placed := pointStands_iff.mpr (laws.places j)
  rw [placed, placed] at held
  rcases held with (state | state) | state <;> simp_all [pointPlaced]

theorem tabled_of_leavesPlaces (left : LeavesPlaces p k i s t) (holds : Holds p k i s)
    (conversion : t.conversion = s.conversion) (decisionDue : t.decisionDue = s.decisionDue) (laws : Tabled s) : Tabled t := by
  have joined := left.joined laws.joined holds
  have suspended : t.suspended = none ∨ t.suspended = s.suspended := by
    rw [left.suspended]
    split
    · exact .inl rfl
    · exact .inr rfl
  refine ⟨joined, bursts_of_kept laws.bursts left.converter conversion (fun b held => ?_) (fun j held => ?_) fun g _ => ?_,
    waiting_of_kept laws.waiting left.converter decisionDue suspended fun _ => ⟨fun empty => ?_, fun empty q => ?_⟩⟩
  · rcases suspended with gone | same
    · rw [gone] at held; exact nomatch held
    · rwa [same] at held
  · have used := used_of_held joined held
    by_cases here : j = i
    · rw [here, left.point_same] at used ⊢
      exact departed_kept holds.among used
    · rw [left.point_other here]; exact ⟨rfl, rfl⟩
  · rw [left.job]
  · rw [left.urgentQueue, empty]
    split <;> rfl
  · rw [left.fifo]
    split
    · next moves =>
      have waits : Subject.point i ∈ s.fifo p := ((laws.joined.places i).2.1 p).mpr ⟨moves.1.1, moves.1.2, moves.2⟩
      rw [empty p] at waits
      exact absurd waits List.not_mem_nil
    · exact empty q

theorem keeps_removeSubscription (p : Port) (k : SlotIdx) (s : State) : Keeps s (removeSubscription p k s) := by
  have only := removeSubscription_only p k s
  unfold OnlyDeparture at only
  have conversion : (removeSubscription p k s).conversion = s.conversion := by rw [only]
  have decisionDue : (removeSubscription p k s).decisionDue = s.decisionDue := by rw [only]
  refine ⟨fun laws => ?_, decisionDue.trans⟩
  cases slot : s.slot p k with
  | none => rw [removeSubscription_of_none slot]; exact laws
  | some u =>
    have holds := laws.joined.holds (k := k) (i := u.point) (by rw [slot]; rfl)
    exact tabled_of_leavesPlaces (leavesPlaces_removeSubscription laws.joined holds) holds conversion decisionDue laws

theorem keeps_removeSubscriptions (p : Port) (s : State) : Keeps s (removeSubscriptions p s) :=
  Keeps.foldl _ _ (fun t k => keeps_removeSubscription p k t) s

theorem keeps_dropJob (p : Port) (s : State) (g : Gain) : Keeps s (dropJob p s g) := by
  have only := dropJob_only p s g
  have decisionDue : (dropJob p s g).decisionDue = s.decisionDue := by rw [only]
  refine ⟨fun laws => ?_, decisionDue.trans⟩
  have joined := joined_dropJob laws.joined p g
  have fifo (q : Port) := fifo_dropJob p q g (laws.joined.fifoNodup q)
  have converter : (dropJob p s g).converter = s.converter := by rw [only]
  have conversion : (dropJob p s g).conversion = s.conversion := by rw [only]
  have suspended : (dropJob p s g).suspended = s.suspended := by rw [only]
  have urgentQueue : (dropJob p s g).urgentQueue = s.urgentQueue := by rw [only]
  have point (j : PointIdx) : (dropJob p s g).point j = s.point j := by rw [only]; rfl
  refine ⟨joined, bursts_of_kept laws.bursts converter conversion (fun b held => by rwa [← suspended]) (fun j _ => ?_)
    fun h held => ?_, waiting_of_kept laws.waiting converter decisionDue (.inr suspended) fun _ =>
      ⟨urgentQueue.trans, fun empty q => ?_⟩⟩
  · rw [point]; exact ⟨rfl, rfl⟩
  · have placed := (jobStands_iff.mpr (joined.jobs h (every_gain h))).1
    rw [placed, placed, job_dropJob] at held
    rw [job_dropJob]
    split
    · next dropped =>
      rw [if_pos dropped] at held
      simp [jobPlaced, CalibrationJob.idle] at held
    · rfl
  · rw [fifo]
    split
    · rw [empty q]; rfl
    · exact empty q

theorem keeps_removeQueuedJobs (p : Port) (s : State) : Keeps s (removeQueuedJobs p s) :=
  Keeps.foldl _ _ (keeps_dropJob p) s

theorem alike_unholdComparators (p : Port) (s : State) : Alike s (unholdComparators p s) := by
  have only := unholdComparators_only p s
  generalize unholdComparators p s = t at only ⊢
  rw [only]
  exact .of_same rfl

theorem keeps_teardownBlocks (p : Port) (s : State) : Keeps s (teardownBlocks p s) :=
  ((keeps_removeSubscriptions p s).trans (keeps_removeQueuedJobs p _)).trans (keeps_alike (alike_unholdComparators p _))

theorem alike_teardownPort (kind : EventKind) (p : Port) (s : State) : Alike s (teardownPort kind p s) := by
  have only := teardownPort_only kind p s
  generalize teardownPort kind p s = t at only ⊢
  rw [only]
  exact .of_same rfl

theorem keeps_leavePoint (p : Port) (i : PointIdx) (s : State) : Keeps s (leavePoint p i s) := by
  unfold leavePoint
  split
  · exact keeps_removeSubscription ..
  · exact .refl s

end Departures

/-! ### Arrivals (R11 to R13) -/

section Arrivals

variable {s t : State} {p : Port} {k : SlotIdx} {i : PointIdx} {e : PointEntry}

/-- `t` is `s` but that port `p` has come to point `i`, now entry `e`, with a subscription in its free slot `k`. -/
structure Admits (p : Port) (k : SlotIdx) (i : PointIdx) (e : PointEntry) (s t : State) : Prop where
  only : t = { s with points := t.points, subs := t.subs }
  point : ∀ j : PointIdx, t.point j = if j = i then e else s.point j
  slot : ∀ q : Port, ∀ l : SlotIdx,
    (t.slot q l).map (·.point) = if q = p ∧ l = k then some i else (s.slot q l).map (·.point)
  free : s.slot p k = none
  fresh : p ∉ (s.point i).subscribers
  subscribers : e.subscribers = (s.point i).subscribers ++ [p]
  list : ListLaw e
  trigger : TriggerLaw e
  placed : ∀ pl, pointPlaced e pl ↔ pointPlaced (s.point i) pl
  kept : (s.point i).state ≠ .free → e.key = (s.point i).key ∧ e.done = (s.point i).done
  urgent : t.urgentInUse ≤ 8

theorem Admits.stands (admits : Admits p k i e s t) (x : Subject) (pl : Place) : stands t x pl ↔ stands s x pl := by
  rw [admits.only]
  cases pl <;> rfl

theorem Admits.listed (admits : Admits p k i e s t) (q : Port) (j : PointIdx) :
    q ∈ (t.point j).subscribers ↔ q ∈ (s.point j).subscribers ∨ (q = p ∧ j = i) := by
  rw [admits.point]
  split
  · next here => simp [here, admits.subscribers]
  · next away => simp [away]

theorem Admits.subscriptionLaw (admits : Admits p k i e s t) (law : SubscriptionLaw s) : SubscriptionLaw t := by
  obtain ⟨listed, distinct⟩ := law
  refine ⟨fun q j => ?_, fun q l l' u hu v hv same => ?_⟩
  · rw [admits.listed, listed]
    constructor
    · rintro (⟨l, here⟩ | ⟨rfl, rfl⟩)
      · refine ⟨l, ?_⟩
        rw [admits.slot, if_neg]
        · exact here
        · rintro ⟨rfl, rfl⟩
          rw [admits.free] at here
          exact nomatch here
      · exact ⟨k, (admits.slot q k).trans (if_pos ⟨rfl, rfl⟩)⟩
    · rintro ⟨l, here⟩
      rw [admits.slot] at here
      split at here
      · next own => exact .inr ⟨own.1, (Option.some.inj here).symm⟩
      · exact .inl ⟨l, here⟩
  · have hu' := admits.slot q l
    have hv' := admits.slot q l'
    rw [hu, Option.map_some] at hu'
    rw [hv, Option.map_some] at hv'
    have absent {m : SlotIdx} (here : some i = (s.slot p m).map (·.point)) : False :=
      admits.fresh ((listed p i).mpr ⟨m, here.symm⟩)
    split at hu'
    · next own =>
      split at hv'
      · next own' => exact own.2.trans own'.2.symm
      · have here : some i = (s.slot p l').map (·.point) := by rw [← own.1, ← hv', ← same, hu']
        exact (absent here).elim
    · split at hv'
      · next own' =>
        have here : some i = (s.slot p l).map (·.point) := by rw [← own'.1, ← hu', same, hv']
        exact (absent here).elim
      · obtain ⟨x, entry, point⟩ := Option.map_eq_some_iff.mp hu'.symm
        obtain ⟨y, entry', point'⟩ := Option.map_eq_some_iff.mp hv'.symm
        exact distinct q l l' x entry y entry' (point.trans (same.trans point'.symm))

theorem Admits.joined (admits : Admits p k i e s t) (laws : Joined s) : Joined t where
  lists j := by
    rw [admits.point]
    split
    · exact admits.list
    · exact laws.lists j
  triggers j := by
    rw [admits.point]
    split
    · exact admits.trigger
    · exact laws.triggers j
  places j := by
    refine pointStands_iff.mp fun pl => ?_
    rw [admits.stands, pointStands_iff.mpr (laws.places j) pl, admits.point]
    split
    · next here => rw [here, admits.placed]
    · rfl
  subscriptions := admits.subscriptionLaw laws.subscriptions
  creators j m entry := by
    have monitors : t.monitor j = s.monitor j := by rw [admits.only]; rfl
    rw [monitors] at entry
    exact (admits.listed _ _).mpr (.inl (laws.creators j m entry))
  urgent := admits.urgent
  urgentNodup := by rw [admits.only]; exact laws.urgentNodup
  fifoNodup q := by rw [admits.only]; exact laws.fifoNodup q
  jobs g among := by
    have job : t.job g = s.job g := by rw [admits.only]; rfl
    obtain ⟨placed, requester⟩ := jobStands_iff.mpr (laws.jobs g among)
    refine jobStands_iff.mp ⟨fun pl => ?_, by rw [job]; exact requester⟩
    rw [job, admits.stands]
    exact placed pl

theorem Admits.keeps (admits : Admits p k i e s t) : Keeps s t := by
  have converter : t.converter = s.converter := by rw [admits.only]
  have conversion : t.conversion = s.conversion := by rw [admits.only]
  have suspended : t.suspended = s.suspended := by rw [admits.only]
  have decisionDue : t.decisionDue = s.decisionDue := by rw [admits.only]
  have urgentQueue : t.urgentQueue = s.urgentQueue := by rw [admits.only]
  have fifo (q : Port) : t.fifo q = s.fifo q := by rw [admits.only]; rfl
  refine ⟨fun laws => ⟨admits.joined laws.joined, bursts_of_kept laws.bursts converter conversion
    (fun b held => by rwa [← suspended]) (fun j held => ?_) (fun g _ => by rw [admits.only]; rfl),
    waiting_of_kept laws.waiting converter decisionDue (.inr suspended) fun _ =>
      ⟨urgentQueue.trans, fun empty q => (fifo q).trans (empty q)⟩⟩, decisionDue.trans⟩
  rw [admits.stands, admits.stands] at held
  have used := used_of_held laws.joined held
  rw [admits.point]
  split
  · next here => rw [here] at used ⊢; exact admits.kept used
  · exact ⟨rfl, rfl⟩

theorem point_slot_setSlot (s : State) {v : Subscription} (at_i : v.point = i) (q : Port) (l : SlotIdx) :
    ((s.setSlot p k (some v)).slot q l).map (·.point) = if q = p ∧ l = k then some i else (s.slot q l).map (·.point) := by
  rw [slot_setSlot_eq]
  split
  · rw [Option.map_some, at_i]
  · rfl

/-- A port joins a live point whose list it is not in (R11). -/
theorem keeps_joinPoint {c : Conditioning} (free : s.slot p k = none) (alive : live (s.point i) = true)
    (fresh : p ∉ (s.point i).subscribers) (laws : Joined s) : Keeps s (joinPoint p k i c s) := by
  have listed := laws.lists i
  have busy : (s.point i).subscribers ≠ [] := fun empty => by
    obtain ⟨notFree, notRetiring⟩ := live_iff.mp alive
    exact notFree (listed.1.mpr ⟨empty, notRetiring⟩)
  obtain ⟨first, others, list⟩ := List.exists_cons_of_ne_nil busy
  refine Admits.keeps (p := p) (k := k) (i := i)
    (e := { s.point i with subscribers := (s.point i).subscribers ++ [p] }) ?_
  refine ⟨rfl, fun j => point_setPoint_eq _ i j _, fun q l => point_slot_setSlot s rfl q l, free, fresh, rfl,
    ⟨?_, fun state => absurd state (live_iff.mp alive).2, ?_⟩, laws.triggers i, fun pl => ?_, fun _ => ⟨rfl, rfl⟩, ?_⟩
  · have notFree := (live_iff.mp alive).1
    simp [notFree]
  · refine List.nodup_append.mpr ⟨listed.2.2, List.nodup_singleton p, fun q here r there => ?_⟩
    rintro rfl
    exact fresh (List.mem_singleton.mp there ▸ here)
  · cases pl <;> simp [pointPlaced, list]
  · refine urgentLaw_of_used laws.urgent fun j => ?_
    have point : (joinPoint p k i c s).point j =
      if j = i then { s.point i with subscribers := (s.point i).subscribers ++ [p] } else s.point j :=
      point_setPoint_eq _ i j _
    rw [point]
    split
    · next here => rw [here]; exact And.intro
    · exact And.intro

/-- At most one more entry of a list without repetition counts where one entry alone may have come to count. -/
theorem countP_le_succ {α : Type} {f g : α → Bool} {a : α} {xs : List α} (distinct : xs.Nodup)
    (others : ∀ x ∈ xs, x ≠ a → g x = true → f x = true) : xs.countP g ≤ xs.countP f + 1 := by
  induction xs with
  | nil => simp
  | cons x xs ih =>
    obtain ⟨absent, distinct⟩ := List.nodup_cons.mp distinct
    by_cases here : x = a
    · have rest : xs.countP g ≤ xs.countP f := List.countP_mono_left fun y among counts =>
        others y (List.mem_cons_of_mem _ among) (fun same => absent (by rw [here, ← same]; exact among)) counts
      have head : (x :: xs).countP g ≤ xs.countP g + 1 := by rw [List.countP_cons]; split <;> omega
      have kept : xs.countP f ≤ (x :: xs).countP f := by rw [List.countP_cons]; omega
      omega
    · have rest := ih distinct fun y among => others y (List.mem_cons_of_mem _ among)
      have first := others x (List.mem_cons_self ..) here
      simp only [List.countP_cons]
      split
      · next counts => rw [if_pos (first counts)]; omega
      · omega

/-- A FREE entry is created for the port, with urgent room for an urgent key (R12, R13). -/
theorem keeps_createPoint {f : DefineFields} (free : s.slot p k = none) (unused : (s.point i).state = .free)
    (room : ¬(f.key.urgent = true ∧ Config.urgentRoom ≤ s.urgentInUse))
    (divider : ∀ input select d, f.key.trigger = .line input select d → 1 ≤ d) (laws : Joined s) :
    Keeps s (createPoint p k i f s) := by
  have empty : (s.point i).subscribers = [] := ((laws.lists i).1.mp unused).1
  have point (j : PointIdx) : (createPoint p k i f s).point j = if j = i then newPoint p f.key else s.point j :=
    point_setPoint_eq s i j _
  refine Admits.keeps (p := p) (k := k) (i := i) (e := newPoint p f.key) ?_
  refine ⟨rfl, point, fun q l => point_slot_setSlot (s.setPoint i (newPoint p f.key)) rfl q l, free, by simp [empty],
    by rw [empty]; rfl, ⟨by simp [newPoint], by simp [newPoint], List.nodup_singleton p⟩, ⟨?_, ?_, fun _ => ?_⟩,
    fun pl => ?_, fun used => absurd unused used, ?_⟩
  · simp [newPoint, PointEntry.cleared]
  · simp [newPoint, live]
  · cases kind : f.key.trigger with
    | line input select d =>
      have positive : 0 < d := divider input select d kind
      simp [triggerFits, newPoint, PointEntry.cleared, kind, initialCountdown, positive]
    | periodic period => simp [triggerFits, newPoint, PointEntry.cleared, kind, initialCountdown]
    | demand => simp [triggerFits, newPoint, PointEntry.cleared, kind, initialCountdown]
  · cases pl <;> simp [pointPlaced, newPoint, unused]
  · have urgent : UrgentLaw s := laws.urgent
    by_cases takes : f.key.urgent = true
    · have few : s.urgentInUse < 8 := by
        have := fun full => room ⟨takes, full⟩
        simpa [Config.urgentRoom] using this
      refine le_trans (countP_le_succ (a := i) (f := fun j => (s.point j).state != .free && (s.point j).key.urgent)
        (List.nodup_finRange _) fun j _ other counts => ?_) few
      rw [point, if_neg other] at counts
      exact counts
    · refine urgentLaw_of_used urgent fun j => ?_
      rw [point]
      split
      · exact fun _ urgentKey => absurd urgentKey takes
      · exact And.intro

end Arrivals

/-- The divider that DEFINE POINT reads is at least 1 (R9). -/
theorem readTrigger_divider {body : List Byte} {input : TrgIdx} {select : EdgeSelect} {d : Nat}
    (read : readTrigger body = some (.line input select d)) : 1 ≤ d := by
  unfold readTrigger at read
  split at read
  · obtain ⟨edge, -, read⟩ := Option.bind_eq_some_iff.mp read
    dsimp only at read
    split at read
    · split at read
      · next inRange =>
        cases read
        exact inRange.1
      · exact nomatch read
    · exact nomatch read
  · split at read
    · exact nomatch read
    · exact nomatch read
  · exact nomatch read
  · exact nomatch read

theorem readKey_trigger {body : List Byte} {key : Key} (read : readKey body = some key) :
    readTrigger body = some key.trigger := by
  unfold readKey at read
  obtain ⟨gain, -, read⟩ := Option.bind_eq_some_iff.mp read
  obtain ⟨oversample, -, read⟩ := Option.bind_eq_some_iff.mp read
  obtain ⟨trigger, spec, read⟩ := Option.bind_eq_some_iff.mp read
  obtain ⟨urgent, -, read⟩ := Option.bind_eq_some_iff.mp read
  dsimp only at read
  split at read
  · split at read
    · split at read
      · cases read; exact spec
      · exact nomatch read
    · exact nomatch read
  · exact nomatch read

theorem readDefine_divider {body : List Byte} {f : DefineFields} (read : readDefine body = some f) (input : TrgIdx)
    (select : EdgeSelect) (d : Nat) (kind : f.key.trigger = .line input select d) : 1 ≤ d := by
  obtain ⟨key, fields, rest⟩ := Option.bind_eq_some_iff.mp read
  obtain ⟨c, -, made⟩ := Option.bind_eq_some_iff.mp rest
  cases made
  exact readTrigger_divider ((readKey_trigger fields).trans (congrArg some kind))

/-- A monitor is created on a point that its creator subscribes to (R129). -/
theorem keeps_setMonitor {s : State} {k : MonitorIdx} {m : Monitor} (listed : m.creator ∈ (s.point m.point).subscribers) :
    Keeps s (s.setMonitor k (some m)) := by
  refine ⟨fun laws => ?_, id⟩
  obtain ⟨joined, bursts, waiting⟩ := laws
  refine ⟨⟨joined.lists, joined.triggers, joined.places, joined.subscriptions, fun j x entry => ?_, joined.urgent,
    joined.urgentNodup, joined.fifoNodup, joined.jobs⟩,
    ⟨bursts.holding, bursts.suspended, bursts.converting, bursts.conversion⟩, ⟨waiting.behind, waiting.idle, waiting.due⟩⟩
  rw [monitor_setMonitor_eq] at entry
  split at entry
  · cases entry
    exact listed
  · exact joined.creators j x entry

end Sys2Proof.TableMembers
end

section
/-!
PROOFS. A conversion completion keeps the table laws (R57, R58, R80, R88): the subject of the burst leaves the converter, and
a grant decision is taken or left due, or its next conversion begins.
-/

namespace Sys2Proof.TableCompletions

open Sys2Proof.Machine Sys2Proof.Statement Sys2Proof.Safety Sys2Proof.Departures Sys2Proof.TableLawsKept
open Sys2Proof.TableFrames Sys2Proof.TableEnqueues Sys2Proof.TableMembers Sys2Proof.StepEffects Sys2Proof.StepFrames

/-! ### A subject that leaves the converter -/

section Release

variable {s t u : State} {i : PointIdx} {e : PointEntry} {g : Gain} {j : CalibrationJob} {slot : Option Burst}

/-- Point `i` has left the converter as entry `e`, with `slot` in the suspended-burst slot. -/
def pointReleased (i : PointIdx) (e : PointEntry) (slot : Option Burst) (s : State) : State :=
  { s.setPoint i e with converter := none, conversion := none, suspended := slot }

/-- Job `g` has left the converter as `j`, with `slot` in the suspended-burst slot. -/
def jobReleased (g : Gain) (j : CalibrationJob) (slot : Option Burst) (s : State) : State :=
  { s.setJob g j with converter := none, conversion := none, suspended := slot }

/-- The subject of the burst that holds the converter stands nowhere else (R50). -/
theorem nowhere_else (laws : Joined s) {x : Subject} (holds : stands s x .converter) {pl : Place} (away : pl ≠ .converter) :
    ¬stands s x pl := fun here => away (stands_unique laws here holds)

/-- The converter is held by one subject alone. -/
theorem holder_unique {x y : Subject} (holds : stands s x .converter) (other : y ≠ x) : ¬stands s y .converter := fun here =>
  other (Option.some.inj (here.symm.trans holds))

theorem joined_pointReleased (laws : Joined s) (holds : stands s (.point i) .converter) (step : EntryStep (s.point i) e)
    (own : ∀ pl, pointPlaced e pl ↔ pl = .suspended ∧ slot.map (·.subject) = some (.point i))
    (others : ∀ x : Subject, x ≠ .point i → (slot.map (·.subject) = some x ↔ s.suspended.map (·.subject) = some x)) :
    Joined (pointReleased i e slot s) := by
  refine PointMoves.joined (i := i) (e := e) ?_ laws
  refine ⟨fun k => point_setPoint_eq s i k e, step, .of_eq rfl, .of_eq rfl, rfl, fun x other pl => ?_, fun pl => ?_,
    laws.urgentNodup, laws.fifoNodup⟩
  · cases pl with
    | urgent => rfl
    | pending p => rfl
    | converter => simp [stands, pointReleased, show ¬s.converter.map (·.subject) = some x from holder_unique holds other]
    | suspended => exact others x other
  · rw [own]
    cases pl with
    | urgent => exact iff_of_false (nowhere_else laws holds (pl := .urgent) (by simp)) (by simp)
    | pending p => exact iff_of_false (nowhere_else laws holds (pl := .pending p) (by simp)) (by simp)
    | converter => simp [stands, pointReleased]
    | suspended => simp [stands, pointReleased]

theorem joined_jobReleased (laws : Joined s) (holds : stands s (.job g) .converter)
    (requester : j.state = .none ↔ j.requester = none)
    (own : ∀ pl, jobPlaced j pl ↔ pl = .suspended ∧ slot.map (·.subject) = some (.job g))
    (others : ∀ x : Subject, x ≠ .job g → (slot.map (·.subject) = some x ↔ s.suspended.map (·.subject) = some x)) :
    Joined (jobReleased g j slot s) := by
  refine JobMoves.joined (g := g) (j := j) ?_ laws
  refine ⟨fun h => job_setJob_eq s g h j, requester, rfl, .of_eq rfl, .of_eq rfl, fun x other pl => ?_, fun pl => ?_,
    laws.urgentNodup, laws.fifoNodup⟩
  · cases pl with
    | urgent => rfl
    | pending p => rfl
    | converter => simp [stands, jobReleased, show ¬s.converter.map (·.subject) = some x from holder_unique holds other]
    | suspended => exact others x other
  · rw [own]
    cases pl with
    | urgent => exact iff_of_false (nowhere_else laws holds (pl := .urgent) (by simp)) (by simp)
    | pending p => exact iff_of_false (nowhere_else laws holds (pl := .pending p) (by simp)) (by simp)
    | converter => simp [stands, jobReleased]
    | suspended => simp [stands, jobReleased]

/-- The suspended burst of another subject stays as it is. -/
theorem ready_pointReleased (laws : Joined s) (holds : stands s (.point i) .converter) (step : EntryStep (s.point i) e)
    (nowhere : ∀ pl, ¬pointPlaced e pl) (suspended : ∀ b ∈ s.suspended, BurstLaw s b ∧ b.burstClass = .background) :
    Ready (pointReleased i e s.suspended s) := by
  have away : ¬s.suspended.map (·.subject) = some (.point i) := nowhere_else laws holds (pl := .suspended) (by simp)
  refine ⟨joined_pointReleased laws holds step (fun pl => ?_) fun x _ => Iff.rfl, fun b held => ?_, rfl⟩
  · exact ⟨fun placed => absurd placed (nowhere pl), fun there => absurd there.2 away⟩
  · obtain ⟨law, background⟩ := suspended b held
    refine ⟨burstLaw_congr (s := s) (fun k subject => ?_) (fun h _ => rfl) law, background⟩
    have held' : s.suspended = some b := held
    have other : k ≠ i := fun same => away (by rw [held', Option.map_some, subject, same])
    have point : (pointReleased i e s.suspended s).point k = if k = i then e else s.point k := point_setPoint_eq s i k e
    rw [point, if_neg other]
    exact ⟨rfl, rfl⟩

theorem ready_jobReleased (laws : Joined s) (holds : stands s (.job g) .converter)
    (suspended : ∀ b ∈ s.suspended, BurstLaw s b ∧ b.burstClass = .background) :
    Ready (jobReleased g .idle s.suspended s) := by
  have away : ¬s.suspended.map (·.subject) = some (.job g) := nowhere_else laws holds (pl := .suspended) (by simp)
  refine ⟨joined_jobReleased laws holds (by simp [CalibrationJob.idle]) (fun pl => ?_) fun x _ => Iff.rfl, fun b held => ?_,
    rfl⟩
  · refine ⟨fun placed => ?_, fun there => absurd there.2 away⟩
    cases pl <;> simp [jobPlaced, CalibrationJob.idle] at placed
  · obtain ⟨law, background⟩ := suspended b held
    refine ⟨burstLaw_congr (s := s) (fun k _ => ⟨rfl, rfl⟩) (fun h subject => ?_) law, background⟩
    have held' : s.suspended = some b := held
    have other : h ≠ g := fun same => away (by rw [held', Option.map_some, subject, same])
    have job : (jobReleased g .idle s.suspended s).job h = if h = g then .idle else s.job h := job_setJob_eq s g h .idle
    rw [job, if_neg other]

/-- A decision that is left due is a state in which it may be taken, but for the mark. -/
theorem tabled_leaveDecisionDue (ready : Ready (freed s)) : Tabled (leaveDecisionDue s) := by
  obtain ⟨joined, suspended, -⟩ := ready
  exact ⟨⟨joined.lists, joined.triggers, joined.places, joined.subscriptions, joined.creators, joined.urgent,
    joined.urgentNodup, joined.fifoNodup, joined.jobs⟩,
    ⟨fun b held => (nomatch held), suspended, ⟨fun _ => rfl, fun _ => rfl⟩, fun b held => (nomatch held)⟩,
    ⟨fun _ => .inl rfl, fun _ undue => (nomatch undue), fun _ => rfl⟩⟩

theorem tabled_decided (ready : Ready (freed s)) (undue : s.decisionDue = false) : Tabled (grantDecision s) := by
  rw [← grantDecision_freed]
  exact tabled_grantDecision ready undue

end Release

/-! ### A code that has been counted (R57, R76, R87) -/

section Counting

variable {s t : State} {b : Burst} {i : PointIdx} {g : Gain} {code : ConverterCode}

/-- The laws of a state in which the code of the live burst `b` has been counted: all its conversions may be done. -/
structure Counted (b : Burst) (t : State) : Prop where
  joined : Joined t
  holds : t.converter = some b
  suspended : ∀ c ∈ t.suspended, BurstLaw t c ∧ c.burstClass = .background
  undue : t.decisionDue = false
  length : b.length = burstLength b.subject t
  more : conversionsDone b.subject t ≤ b.length
  urgent : b.burstClass = .urgent ↔ urgentSubject b.subject t = true
  alone : b.burstClass = .background → t.suspended = none
  alive : subjectRetiring b.subject t = false

theorem Counted.stands (counted : Counted b t) : stands t b.subject .converter := by
  show t.converter.map (·.subject) = _
  rw [counted.holds, Option.map_some]

theorem Counted.converting (counted : Counted b t) (subject : b.subject = .point i) : (t.point i).state = .converting := by
  have holds := counted.stands
  have alive := counted.alive
  rw [subject] at holds alive
  rcases (pointStands_iff.mpr (counted.joined.places i) .converter).mp holds with state | state
  · exact state
  · simp [subjectRetiring, state] at alive

theorem Counted.running (counted : Counted b t) (subject : b.subject = .job g) : (t.job g).state = .running := by
  have holds := counted.stands
  rw [subject] at holds
  exact ((jobStands_iff.mpr (counted.joined.jobs g (every_gain g))).1 .converter).mp holds

theorem undue_of_holds (laws : Tabled s) (holds : s.converter = some b) : s.decisionDue = false := by
  cases due : s.decisionDue with
  | false => rfl
  | true =>
    have idle := laws.waiting.due due
    rw [holds] at idle
    exact nomatch idle

/-- A BACKGROUND burst has the suspended-burst slot empty behind it (R58). -/
theorem alone_of_background (laws : Tabled s) (holds : s.converter = some b) (background : b.burstClass = .background) :
    s.suspended = none := by
  by_contra waits
  rcases laws.waiting.behind waits with due | urgent
  · rw [undue_of_holds laws holds] at due
    exact nomatch due
  · rw [holds, Option.map_some, background] at urgent
    exact nomatch urgent

/-- What another subject's burst law says is not changed by a code of the holding one. -/
theorem suspended_other (laws : Joined s) (holds : stands s b.subject .converter) {c : Burst} (held : c ∈ s.suspended) :
    c.subject ≠ b.subject := fun same => by
  have there : stands s c.subject .suspended := by
    show s.suspended.map (·.subject) = _
    rw [held, Option.map_some]
  exact nowhere_else laws holds (by simp) (same ▸ there)

/-- A counted code of point `i` in its entry. -/
abbrev CodeStep (e e' : PointEntry) : Prop :=
  e'.state = e.state ∧ e'.key = e.key ∧ e'.subscribers = e.subscribers ∧ (TriggerLaw e → TriggerLaw e')

theorem joined_codeStep {e : PointEntry} (laws : Joined s) (step : CodeStep (s.point i) e) : Joined (s.setPoint i e) := by
  obtain ⟨state, key, subscribers, trigger⟩ := step
  have list : ListLaw e := by
    have law := laws.lists i
    simpa only [ListLaw, state, subscribers] using law
  refine PointMoves.joined (i := i) (e := e) ?_ laws
  refine ⟨fun k => point_setPoint_eq s i k e, ⟨subscribers, list, trigger (laws.triggers i), fun used urgent => ?_⟩,
    .of_eq rfl, .of_eq rfl, rfl, fun x _ pl => Iff.rfl, fun pl => ?_, laws.urgentNodup, laws.fifoNodup⟩
  · rw [← state, ← key]; exact ⟨used, urgent⟩
  · have placed : pointPlaced e pl ↔ pointPlaced (s.point i) pl := by
      cases pl <;> simp only [pointPlaced, state, key, subscribers]
    rw [placed]
    exact pointStands_iff.mpr (laws.places i) pl

theorem joined_jobCoded {j : CalibrationJob} (laws : Joined s) (state : j.state = (s.job g).state)
    (requester : j.requester = (s.job g).requester) : Joined (s.setJob g j) := by
  obtain ⟨placed, law⟩ := jobStands_iff.mpr (laws.jobs g (every_gain g))
  refine JobMoves.joined (g := g) (j := j) ?_ laws
  refine ⟨fun h => job_setJob_eq s g h j, by rw [state, requester]; exact law, rfl, .of_eq rfl, .of_eq rfl,
    fun x _ pl => Iff.rfl, fun pl => ?_, laws.urgentNodup, laws.fifoNodup⟩
  have same : jobPlaced j pl ↔ jobPlaced (s.job g) pl := by
    cases pl <;> simp only [jobPlaced, state, requester]
  rw [same]
  exact placed pl

theorem counted_takeCode (laws : Tabled s) (holds : s.converter = some b) (alive : subjectRetiring b.subject s = false) :
    Counted b (takeCode b.subject code (sampleReading s) s) := by
  have law := laws.bursts.holding b holds
  have held : stands s b.subject .converter := by
    show s.converter.map (·.subject) = _
    rw [holds, Option.map_some]
  have other : ∀ c ∈ s.suspended, c.subject ≠ b.subject := fun c here => suspended_other laws.joined held here
  have undue := undue_of_holds laws holds
  have alone := alone_of_background laws holds
  have suspended := laws.bursts.suspended
  obtain ⟨length, more, urgent⟩ := law
  obtain ⟨x, c, n⟩ := b
  cases x with
  | point i =>
    rw [Completions.takeCode_point]
    have own := point_setPoint s i (Completions.codeCounted (s.point i) code s)
    have key : ((s.setPoint i (Completions.codeCounted (s.point i) code s)).point i).key = (s.point i).key := by rw [own]; rfl
    have done : ((s.setPoint i (Completions.codeCounted (s.point i) code s)).point i).done = (s.point i).done + 1 := by
      rw [own]; rfl
    have state : ((s.setPoint i (Completions.codeCounted (s.point i) code s)).point i).state = (s.point i).state := by
      rw [own]; rfl
    refine ⟨joined_codeStep laws.joined ⟨rfl, rfl, rfl, id⟩, holds, fun d waits => ?_, undue, ?_, ?_, ?_, alone, ?_⟩
    · obtain ⟨law, background⟩ := suspended d waits
      refine ⟨burstLaw_congr (s := s) (fun k subject => ?_) (fun h _ => rfl) law, background⟩
      have away : k ≠ i := fun same => other d waits (by rw [subject, same])
      rw [point_setPoint_eq, if_neg away]
      exact ⟨rfl, rfl⟩
    · simp only [burstLength, key]; exact length
    · simp only [conversionsDone, done]; exact more
    · simp only [urgentSubject, key]; exact urgent
    · simp only [subjectRetiring, state]; exact alive
  | job g =>
    have own := job_setJob s g (Completions.sumCounted (s.job g) code)
    refine ⟨joined_jobCoded laws.joined rfl rfl, holds, fun d waits => ?_, undue, length, ?_, urgent, alone, alive⟩
    · obtain ⟨law, background⟩ := suspended d waits
      refine ⟨burstLaw_congr (s := s) (fun k _ => ⟨rfl, rfl⟩) (fun h subject => ?_) law, background⟩
      have away : h ≠ g := fun same => other d waits (by rw [subject, same])
      exact congrArg (·.done) ((job_setJob_eq s g h _).trans (if_neg away))
    · exact (congrArg (·.done) own).trans_le more

end Counting

/-! ### What follows a counted code (R57, R58, R88) -/

section Following

variable {s t : State} {b : Burst} {i : PointIdx} {g : Gain} {code : ConverterCode}

theorem alike_counted {u : State} (alike : Alike t u) (counted : Counted b t) :
    Joined u ∧ TableLawsKept.stands u b.subject .converter ∧ (∀ c ∈ u.suspended, BurstLaw u c ∧ c.burstClass = .background) ∧
      u.decisionDue = false := by
  refine ⟨alike.joined counted.joined, (alike.stands _ _).mpr counted.stands, fun c held => ?_,
    alike.decisionDue.trans counted.undue⟩
  rw [alike.suspended] at held
  exact ⟨alike.burstLaw (counted.suspended c held).1, (counted.suspended c held).2⟩

/-- A live entry that leaves the converter for ARMED or for the suspended-burst slot. -/
theorem entryStep_leaves {e e' : PointEntry} (list : ListLaw e) (trigger : TriggerLaw e) (converting : e.state = .converting)
    (alive : live e' = true) (still : e'.state ≠ .delaying) (key : e'.key = e.key)
    (subscribers : e'.subscribers = e.subscribers) (divider : e'.divider = e.divider) (countdown : e'.countdown = e.countdown) (timer : e'.delayTimer = e.delayTimer) :
    EntryStep e e' where
  subscribers := subscribers
  list := listLaw_of_state list (by simp [live, converting]) alive subscribers
  trigger := triggerLaw_of_state trigger (by simp [live, converting]) alive (by simp [converting]) still key divider countdown
    timer
  used _ urgent := ⟨by simp [converting], key ▸ urgent⟩

/-- A calibration's completion but for the job that it leaves NONE. -/
theorem completeCalibration_alike (g : Gain) (s : State) : ∃ u, Alike s u ∧ completeCalibration g s = u.setJob g .idle := by
  have valid (entry : TrimEntry) : Alike s (s.setTrimEntry g entry) := .of_same rfl
  unfold completeCalibration
  extract_lets trim u
  have told : Alike s u := (valid _).trans (alike_onlyClaims (formEventForAll_only ..).onlyClaims)
  exact ⟨u, told, rfl⟩

/-- The end of a burst frees the converter for a decision (R80, R88). -/
theorem ready_endBurst (counted : Counted b t) :
    Ready (freed (endBurst b.subject t)) ∧ (endBurst b.subject t).decisionDue = false := by
  cases subject : b.subject with
  | point i =>
    obtain ⟨u, alike, finalized⟩ := finalizePoint_alike i t
    obtain ⟨joined, holds, suspended, undue⟩ := alike_counted alike counted
    have converting : (u.point i).state = .converting := (alike.entry i).state.trans (counted.converting subject)
    have ends : endBurst (.point i) t = u.modPoint i (fun e => { e with state := .armed }) := finalized
    rw [subject] at holds
    rw [ends]
    refine ⟨ready_pointReleased joined holds (e := { u.point i with state := .armed }) ?_ (fun pl => ?_) suspended, undue⟩
    · exact entryStep_leaves (joined.lists i) (joined.triggers i) converting (by simp [live]) (by simp) rfl rfl rfl rfl rfl
    · cases pl <;> simp [pointPlaced]
  | job g =>
    obtain ⟨u, alike, completed⟩ := completeCalibration_alike g t
    obtain ⟨joined, holds, suspended, undue⟩ := alike_counted alike counted
    have ends : endBurst (.job g) t = u.setJob g .idle := completed
    rw [subject] at holds
    rw [ends]
    exact ⟨ready_jobReleased joined holds suspended, undue⟩

theorem tabled_burstEnds (counted : Counted b t) : Tabled (burstEnds b.subject t) := by
  obtain ⟨ready, undue⟩ := ready_endBurst counted
  rcases burstEnds_cases b.subject t with ends | ends
  · rw [ends]; exact tabled_leaveDecisionDue ready
  · rw [ends]; exact tabled_decided ready undue

/-- A BACKGROUND burst short of its end is suspended for the urgent queue (R58). -/
theorem tabled_suspendBurst (counted : Counted b t) (background : b.burstClass = .background)
    (short : conversionsDone b.subject t ≠ b.length) : Tabled (suspendBurst b t) := by
  have alone := counted.alone background
  have more : conversionsDone b.subject t < b.length := lt_of_le_of_ne counted.more short
  have holds := counted.stands
  have joined := counted.joined
  have undue := counted.undue
  have length := counted.length
  have class_iff := counted.urgent
  have others (x : Subject) (other : x ≠ b.subject) :
      (some b).map (·.subject) = some x ↔ t.suspended.map (·.subject) = some x := by
    rw [alone]
    simp [Ne.symm other]
  unfold suspendBurst
  cases subject : b.subject with
  | point i =>
    have converting := counted.converting subject
    rw [subject] at holds others length more class_iff
    refine tabled_decided (s := { t.setPoint i { t.point i with state := .suspended, resumedSoFar := true } with
      suspended := some b }) ⟨?_, fun c held => ?_, rfl⟩ undue
    · refine joined_pointReleased joined holds (e := { t.point i with state := .suspended, resumedSoFar := true }) ?_
        (fun pl => ?_) others
      · exact entryStep_leaves (joined.lists i) (joined.triggers i) converting (by simp [live]) (by simp) rfl rfl rfl rfl rfl
      · cases pl <;> simp [pointPlaced, subject]
    · cases held
      have own := point_setPoint t i { t.point i with state := .suspended, resumedSoFar := true }
      refine ⟨burstLaw_congr (s := t) (fun k here => ?_) (fun h here => rfl) ?_, background⟩
      · rw [subject] at here
        cases here
        exact ⟨congrArg (·.key) own, congrArg (·.done) own⟩
      · exact ⟨by rw [subject]; exact length, by rw [subject]; exact more, by rw [subject]; exact class_iff⟩
  | job g =>
    have running := counted.running subject
    have requester : (t.job g).requester ≠ none := fun none => by
      rw [(jobStands_iff.mpr (joined.jobs g (every_gain g))).2.mpr none] at running
      exact nomatch running
    rw [subject] at holds others length more class_iff
    refine tabled_decided (s := { t.setJob g { t.job g with state := .suspended } with suspended := some b })
      ⟨?_, fun c held => ?_, rfl⟩ undue
    · refine joined_jobReleased joined holds (j := { t.job g with state := .suspended }) (by simp [requester]) (fun pl => ?_)
        others
      cases pl <;> simp [jobPlaced, subject]
    · cases held
      have own := job_setJob t g { t.job g with state := .suspended }
      refine ⟨burstLaw_congr (s := t) (fun k here => ⟨rfl, rfl⟩) (fun h here => ?_) ?_, background⟩
      · rw [subject] at here
        cases here
        exact congrArg (·.done) own
      · exact ⟨by rw [subject]; exact length, by rw [subject]; exact more, by rw [subject]; exact class_iff⟩

/-- The next conversion of the burst begins (R57). -/
theorem tabled_goesOn (counted : Counted b t) (short : conversionsDone b.subject t ≠ b.length) :
    Tabled (beginConversionOf b.subject t) := by
  have more : conversionsDone b.subject t < b.length := lt_of_le_of_ne counted.more short
  have holds := counted.holds
  have joined := counted.joined
  refine ⟨⟨joined.lists, joined.triggers, joined.places, joined.subscriptions, joined.creators, joined.urgent,
    joined.urgentNodup, joined.fifoNodup, joined.jobs⟩, ⟨fun c held => ?_, counted.suspended, ?_, fun c held d runs => ?_⟩,
    ⟨fun waits => .inr ?_, fun idle => ?_, fun due => ?_⟩⟩
  · have here : t.converter = some c := held
    rw [holds] at here
    cases here
    exact ⟨counted.length, more, counted.urgent⟩
  · exact iff_of_false (fun idle => Option.some_ne_none b (holds.symm.trans idle)) (fun none => nomatch none)
  · have here : t.converter = some c := held
    rw [holds] at here
    cases here
    cases runs
    exact ⟨rfl, rfl, rfl⟩
  · have urgent : b.burstClass = .urgent := by
      cases state : b.burstClass with
      | urgent => rfl
      | background => exact absurd (counted.alone state) waits
    show t.converter.map (·.burstClass) = _
    rw [holds, Option.map_some, urgent]
  · exact absurd (holds.symm.trans idle) (Option.some_ne_none b)
  · exact absurd (counted.undue.symm.trans due) Bool.false_ne_true

/-- The burst of a RETIRING point ends with the point FREE (R20). -/
theorem tabled_retired (laws : Tabled s) (holds : s.converter = some b) (subject : b.subject = .point i)
    (retiring : (s.point i).state = .retiring) : Tabled (grantDecision (s.setPoint i .cleared)) := by
  have joined := laws.joined
  have held : TableLawsKept.stands s (.point i) .converter := by
    show s.converter.map (·.subject) = _
    rw [holds, Option.map_some, subject]
  have empty := (joined.lists i).2.1 retiring
  have undue := undue_of_holds laws holds
  refine tabled_decided (ready_pointReleased joined held (e := .cleared) ?_ (fun pl => ?_) laws.bursts.suspended) undue
  · refine ⟨empty.symm, ⟨?_, ?_, List.nodup_nil⟩, ⟨?_, ?_, ?_⟩, fun used => absurd rfl used⟩
    · simp [PointEntry.cleared]
    · simp [PointEntry.cleared]
    · simp [PointEntry.cleared]
    · simp [PointEntry.cleared]
    · simp [PointEntry.cleared, live]
  · cases pl <;> simp [pointPlaced, PointEntry.cleared]

/-- A conversion completion keeps the table laws. -/
theorem tabled_completeConversion (laws : Tabled s) (holds : s.converter = some b) (code : ConverterCode) :
    Tabled (completeConversion b code s) := by
  cases alive : subjectRetiring b.subject s with
  | true =>
    cases subject : b.subject with
    | point i =>
      have retiring : (s.point i).state = .retiring := by simpa [subject, subjectRetiring] using alive
      rw [Completions.completeConversion_retiring subject retiring]
      exact tabled_retired laws holds subject retiring
    | job g => simp [subject, subjectRetiring] at alive
  | false =>
    have counted := counted_takeCode (code := code) laws holds alive
    rw [Completions.completeConversion_live alive]
    generalize takeCode b.subject code (sampleReading s) s = t at counted ⊢
    dsimp only
    split
    · exact tabled_burstEnds counted
    · next short =>
      split
      · next suspends => exact tabled_suspendBurst counted suspends.1 short
      · exact tabled_goesOn counted short

end Following

end Sys2Proof.TableCompletions
end

section
/-!
PROOFS. Every step keeps the table laws: the requests, the frames and the commands, each by the operation it runs, and the
mark of a decision that is due.
-/

namespace Sys2Proof.TableSteps

open Sys2Proof.Machine Sys2Proof.Statement Sys2Proof.Safety Sys2Proof.Departures Sys2Proof.TableLawsKept
open Sys2Proof.TableFrames Sys2Proof.TableEnqueues Sys2Proof.TableMembers Sys2Proof.TableCompletions
open Sys2Proof.StepEffects Sys2Proof.StepFrames

/-! ### The requests -/

section Requests

variable {s t : State} {p : Port}

theorem keeps_same (same : seen t = seen s) : Keeps s t := keeps_alike (.of_same same)

theorem keeps_onlyPort (only : OnlyPort p s t) : Keeps s t := keeps_alike (alike_onlyPort only)

theorem alike_clearComparator (k : TripIdx) (s : State) : Alike s (clearComparator k s) := by
  have only := clearComparator_only k s
  generalize clearComparator k s = t at only ⊢
  rw [only]
  exact .of_same rfl

theorem alike_fireComparator (k : TripIdx) (s : State) : Alike s (fireComparator k s) := by
  have only := fireComparator_only k s
  generalize fireComparator k s = t at only ⊢
  rw [only]
  exact .of_same rfl

theorem alike_takeSample (k : TripIdx) (output : Bool) (s : State) : Alike s (takeSample k output s) := by
  have modified (f : Comparator → Comparator) : Alike s (s.modComparator k f) := .of_same rfl
  unfold takeSample
  split
  · exact (modified _).trans (alike_fireComparator ..)
  · exact modified _

theorem keeps_startSession (p : Port) (f : AttachFields) (s : State) : Keeps s (startSession p f s) := keeps_same rfl

/-- An operation whose keeping of the laws rests on those that join the tables. -/
theorem keeps_of_joined (keeps : Joined s → Keeps s t) (decisionDue : t.decisionDue = s.decisionDue) : Keeps s t :=
  ⟨fun laws => (keeps laws.joined).1 laws, decisionDue.trans⟩

/-- What the owner of a request does keeps the table laws. -/
theorem keeps_served {r : Request} (served : Served p s r t) : Keeps s t := by
  cases served
  case unchanged => exact .refl s
  case attach f _ => exact keeps_startSession p f s
  case detach => exact (keeps_teardownBlocks p s).trans (keeps_onlyPort (modPort_only ..))
  case joinPoint k i f body _ slot found fresh =>
    have free := ((DefinePoint.lowestFreeSlot_eq_some s p k).mp slot).1
    have alive := (DefinePoint.live_and_key_iff _ _).mpr (DefinePoint.matches_of_matchingPoint found)
    rw [Bool.and_eq_true] at alive
    exact keeps_of_joined (keeps_joinPoint free alive.1 fresh) rfl
  case createPoint k i f body fields slot room entry =>
    have free := ((DefinePoint.lowestFreeSlot_eq_some s p k).mp slot).1
    have unused := ((DefinePoint.lowestFreePoint_eq_some s i).mp entry).1
    exact keeps_of_joined (keeps_createPoint free unused room (readDefine_divider fields)) rfl
  case leavePoint i _ _ => exact keeps_leavePoint p i s
  case pause =>
    refine keeps_alike (alike_modSubscription _ _ (fun u => ?_) s)
    rfl
  case resume =>
    refine keeps_alike (alike_modSubscription _ _ (fun u => ?_) s)
    unfold resumed
    split <;> rfl
  case setConditioning =>
    refine keeps_alike (alike_modSubscription _ _ (fun u => ?_) s)
    rfl
  case sampleNow i _ _ _ => exact keeps_triggerPoint i s
  case calibrate g calm => exact keeps_queueJob calm
  case readResults => exact keeps_same rfl
  case ackResults => exact keeps_same rfl
  case readEvents => exact keeps_same rfl
  case createMonitor k f _ listed _ => exact keeps_setMonitor listed
  case deleteMonitor k m _ _ => exact keeps_alike (alike_deleteMonitor k s)
  case clearMonitorClaim k m entry _ => exact keeps_alike (alike_clearClaim entry)
  case claimLine mask => exact keeps_alike (alike_onlyClaims (addClaims_only ..))
  case releaseLine mask => exact keeps_alike (alike_onlyClaims (removeClaims_only ..))
  case releaseStart mask => exact keeps_alike (alike_onlyClaims (removeClaims_only ..))
  case releaseOrphan mask h _ => exact keeps_alike (alike_onlyClaims (removeClaims_only ..))
  case takeTrip => exact keeps_same rfl
  case setTrip => exact keeps_same rfl
  case giveTrip => exact keeps_same rfl
  case clearTrip k _ => exact keeps_alike (alike_clearComparator k s)

/-- What a good frame does keeps the table laws. -/
theorem keeps_received {tag code : Byte} {body : List Byte} (received : Received p tag code body s t) : Keeps s t := by
  have owner : Keeps s (atOwner p s) := keeps_onlyPort (modPort_only ..)
  cases received
  case resent => exact owner.trans (keeps_onlyPort (modPort_only ..))
  case refused => exact owner.trans (keeps_onlyPort (modPort_only ..))
  case served r a u _ _ _ served => exact owner.trans ((keeps_served served).trans (keeps_onlyPort (modPort_only ..)))
  case busyWaits =>
    have hunts : Keeps s (receiverHunts p s) := keeps_onlyPort (modPort_only ..)
    exact hunts.trans (keeps_onlyPort (modPort_only ..))
  case discarded => exact keeps_onlyPort (discardFrame_only ..)

theorem keeps_takeByte (p : Port) (b : Byte) (s : State) : Keeps s (takeByte p b s) := by
  have moves (r : Receiver) : Keeps s (receiverMoves p r s) := keeps_onlyPort (modPort_only ..)
  have discards : Keeps s (discardFrame p s) := keeps_onlyPort (discardFrame_only ..)
  unfold takeByte
  split
  · split
    · exact moves _
    · exact keeps_onlyPort (badStartByte_only ..)
  · split
    · exact moves _
    · exact discards
  · split <;> exact moves _
  · exact moves _
  · unfold frameComplete
    split
    · split
      · exact keeps_received (goodFrame_received ..)
      · exact discards
    · exact discards

theorem keeps_responseEnds (p : Port) (s : State) : Keeps s (responseEnds p s) := by
  have after (t : State) : Keeps t (afterResponse p t) := keeps_onlyPort (afterResponse_only ..)
  unfold responseEnds
  split
  · exact (keeps_alike (alike_teardownPort .peerLeft p s)).trans (after _)
  · exact after s

end Requests

/-! ### The commands -/

section Commands

variable {s t : State}

theorem tabled_reset : Tabled State.reset := by
  obtain ⟨-, -, -, tables⟩ := LinkCommands.lawsHoldAtReset
  exact tabled_of_tableLaws tables

/-- The completion of a conversion of a burst that holds the converter. -/
def Completes (c : Instr) (s t : State) : Prop :=
  ∃ level b, c = .conversionCompletion level ∧ s.converter = some b ∧
    t = completeConversion b (completionCode b level s) s

/-- Every command but a conversion completion keeps the table laws and lets no decision fall due. -/
theorem keeps_or_completes {c : Instr} (effect : Effect s c t) : Completes c s t ∨ Keeps s t := by
  cases effect
  case nothing => exact .inr (.refl s)
  case fullReset =>
    have alike : Alike State.reset { State.reset with pins := s.pins, draws := s.draws, pending := s.pending } := .of_same rfl
    exact .inr ⟨fun _ => alike.tabled tabled_reset, fun _ => rfl⟩
  case resetRelease => exact .inr (keeps_same rfl)
  case trgEdge n edge _ => exact .inr (keeps_edgeAccepted n edge s)
  case periodicExpiry i period kind alive _ =>
    exact .inr ((keeps_alike (alike_countdown kind alive _)).trans (keeps_triggerPoint i _))
  case delayExpiry i delaying _ => exact .inr (keeps_becomeDue (.inr delaying))
  case completion level b holds => exact .inl ⟨level, b, rfl, holds, rfl⟩
  case tripFiring k output => exact .inr (keeps_alike (alike_takeSample k output s))
  case comparatorSample k input i output =>
    have driven : Keeps s (s.driveAin i input.level) := keeps_same rfl
    exact .inr (driven.trans (keeps_alike (alike_takeSample k output _)))
  case framingError p cause => exact .inr (keeps_onlyPort (malformedFrame_only p cause s))
  case interByteTimeout p => exact .inr (keeps_onlyPort (interByteExpires_only p s))
  case responseSent p _ => exact .inr (keeps_responseEnds p s)
  case supervisionExpiry p _ => exact .inr ((keeps_teardownBlocks p s).trans (keeps_alike (alike_teardownPort .peerLost p _)))
  case byteTaken p b => exact .inr (keeps_takeByte p b s)
  case request => exact .inr (keeps_received (goodFrame_received ..))
  case unknownRequest => exact .inr (keeps_received (goodFrame_received ..))
  case busyReply => exact .inr (keeps_received (goodFrame_received ..))

theorem tabled_effect {c : Instr} (laws : Tabled s) (effect : Effect s c t) : Tabled t := by
  rcases keeps_or_completes effect with ⟨level, b, -, holds, rfl⟩ | keeps
  · exact tabled_completeConversion laws holds _
  · exact keeps.1 laws

/-- What the laws say of a decision that is due: the next command in line brings it (R88). -/
abbrev DueLaw (s : State) : Prop := s.decisionDue = true → s.resetLow = false ∧ (nextEnqueued s).isSome = true

theorem dueLaw_of_undue (undue : s.decisionDue = false) : DueLaw s := fun due =>
  absurd (undue.symm.trans due) Bool.false_ne_true

theorem undue_grantDecision (undue : s.decisionDue = false) : (grantDecision s).decisionDue = false := by
  rw [grantDecision_only]; exact undue

theorem undue_endBurst (undue : s.decisionDue = false) (x : Subject) : (endBurst x s).decisionDue = false := by
  rw [endBurst_only]; exact undue

theorem resetLow_burstEnds (x : Subject) (s : State) : (burstEnds x s).resetLow = s.resetLow := by
  have left (u : State) : (leaveDecisionDue u).resetLow = u.resetLow := rfl
  have ends : (endBurst x s).resetLow = s.resetLow := by rw [endBurst_only]
  rcases burstEnds_cases x s with due | taken
  · rw [due, left, ends]
  · rw [taken, grantDecision_only]
    exact ends

/-- A burst's end leaves its decision due to a command that brings it alone (R88). -/
theorem dueLaw_burstEnds (released : s.resetLow = false) (undue : s.decisionDue = false) (x : Subject) :
    DueLaw (burstEnds x s) := by
  have decides (taken : burstEnds x s = grantDecision (endBurst x s)) : DueLaw (burstEnds x s) := by
    rw [taken]
    exact dueLaw_of_undue (undue_grantDecision (undue_endBurst undue x))
  cases x with
  | job g => exact decides rfl
  | point i =>
    cases waits : decisionWaits i (endBurst (.point i) s) with
    | true =>
      have next := nextEnqueued_burstEnds i s waits
      exact fun _ => ⟨(resetLow_burstEnds (.point i) s).trans released, by rw [next]; rfl⟩
    | false =>
      have ends : burstEnds (.point i) s = if decisionWaits i (endBurst (.point i) s) then
        leaveDecisionDue (endBurst (.point i) s) else grantDecision (endBurst (.point i) s) := rfl
      exact decides (by rw [ends, waits, if_neg Bool.false_ne_true])

theorem dueLaw_completeConversion (released : s.resetLow = false) (undue : s.decisionDue = false) (b : Burst)
    (code : ConverterCode) : DueLaw (completeConversion b code s) := by
  cases alive : subjectRetiring b.subject s with
  | true =>
    have frees : completeConversion b code s = grantDecision (freeSubject b.subject s) := if_pos alive
    have kept : (freeSubject b.subject s).decisionDue = s.decisionDue := by cases b.subject <;> rfl
    rw [frees]
    exact dueLaw_of_undue (undue_grantDecision (kept.trans undue))
  | false =>
    have counted : (takeCode b.subject code (sampleReading s) s).decisionDue = s.decisionDue := by cases b.subject <;> rfl
    have low : (takeCode b.subject code (sampleReading s) s).resetLow = s.resetLow := by cases b.subject <;> rfl
    rw [Completions.completeConversion_live alive]
    generalize takeCode b.subject code (sampleReading s) s = u at counted low ⊢
    dsimp only
    split
    · exact dueLaw_burstEnds (low.trans released) (counted.trans undue) b.subject
    · split
      · refine dueLaw_of_undue ?_
        rw [suspendBurst_only]
        exact counted.trans undue
      · refine dueLaw_of_undue ?_
        rw [beginConversionOf_only]
        exact counted.trans undue

theorem dueLaw_exec {c : Instr} (undue : s.decisionDue = false) (run : exec c s = .next t) : DueLaw t := by
  rcases keeps_or_completes (effect_of_exec run) with ⟨level, b, rfl, holds, rfl⟩ | keeps
  · cases low : s.resetLow with
    | true =>
      simp only [exec, execConversionCompletion, whenReleased_next, low, if_true, Host.Outcome.next.injEq] at run
      rw [← run]
      exact dueLaw_of_undue undue
    | false => exact dueLaw_completeConversion low undue b _
  · exact dueLaw_of_undue (keeps.2 undue)

end Commands

/-! ### The step -/

/-- A step with no command waiting takes the decision that is due, or is one CLK period (R88). -/
theorem keeps_withNoCommand (s : State) : Keeps s (withNoCommand s) := by
  unfold withNoCommand
  split
  · next due =>
    rw [Bool.and_eq_true] at due
    refine ⟨fun laws => ?_, fun undue => absurd (undue.symm.trans due.1) Bool.false_ne_true⟩
    exact tabled_grantDecision ⟨joined_undue laws.joined, laws.bursts.suspended, laws.waiting.due due.1⟩ rfl
  · exact keeps_alike (alike_clkPeriod s)

theorem tabled_step {s t : State} (laws : Tabled s) (run : step s = .next t) : Tabled t := by
  unfold step at run
  split at run
  · next c rest _ =>
    have taken : Alike s { s with pending := rest } := .of_same rfl
    exact tabled_effect (taken.tabled laws) (effect_of_exec run)
  · cases run
    exact (keeps_withNoCommand s).1 laws

theorem dueLaw_step {s t : State} (laws : TableLaws s) (run : step s = .next t) : DueLaw t := by
  cases due : s.decisionDue with
  | true =>
    obtain ⟨-, -, -, -, -, -, -, converter⟩ := laws
    obtain ⟨u, steps, undue⟩ := step_takes_due due converter
    rw [run] at steps
    cases steps
    exact dueLaw_of_undue undue
  | false =>
    unfold step at run
    split at run
    · next c rest _ => exact dueLaw_exec (s := { s with pending := rest }) due run
    · cases run
      exact dueLaw_of_undue ((keeps_withNoCommand s).2 due)

/-- Settles O57: the tables' laws by the operation that the step runs, and the law of a decision that is due because the
next command in line takes it. -/
theorem everyStepKeepsTableLaws : Obligations.EveryStepKeepsTableLaws := fun _ _ laws _ run =>
  tableLaws_of_tabled (tabled_step (tabled_of_tableLaws laws) run) (dueLaw_step laws run)

end Sys2Proof.TableSteps
end
